-- ==== Sys2Proof/Word.lean ====
section
/-! DEFINITION. The word types of the CX-HV192 and the plainest arithmetic on them. -/

namespace Sys2Proof

/-- One byte of memory or scratchpad (R2). -/
abbrev Byte := BitVec 8

/-- A 64-bit register, special or memory word (R99, R108). -/
abbrev Word := BitVec 64

/-- A lane mask: bit l stands for logical lane l (R109). -/
abbrev Mask := BitVec 32

/-- The aflags flag bits [6:0] (R121): NV 0, DZ 1, OF 2, UF 3, NX 4, SAT 5, SN 6. -/
abbrev Flags := BitVec 7

/-- The number of logical lanes of a warp (R321). -/
abbrev numLanes : Nat := 32

end Sys2Proof
end

