-- ==== Sys2Proof/Syntax.lean ====
section
/-! DEFINITION. The instruction and event forms of the CX-HV192: one constructor of `Instr` for every row of
spec/opcode_table.json. Encoded instructions carry their decoded fields; events carry what the spec says
happens (who acts, on what). -/

namespace Sys2Proof

/-! ## Operands and fields (R138 to R143) -/

/-- A source operand of the six-bit operand code (R140); `c k` is the constant code 0x30 + k, of value k − 8. -/
inductive Opnd where
  | v (n : Fin 32)
  | o (n : Fin 6)
  | l0
  | l1
  | x (k : Fin 4)
  | c (k : Fin 16)
  deriving DecidableEq, Repr

/-- A destination operand of the six-bit operand code (R140). -/
inductive Dst where
  | v (n : Fin 32)
  | o (n : Fin 6)
  | x (k : Fin 4)
  deriving DecidableEq, Repr

/-- The register-group width W (R103): 1, 2, 4 or 8 registers. -/
inductive Width where
  | w1 | w2 | w4 | w8
  deriving DecidableEq, Repr

/-- The integer type codes (R115, R141). -/
inductive IntTy where
  | s8 | n8 | s16 | n16 | s32 | n32 | s64 | n64
  deriving DecidableEq, Repr

/-- The float type codes (R117, R141). -/
inductive FltTy where
  | h | bf | f | e4 | e5 | d
  deriving DecidableEq, Repr

/-- A CVT source or destination type (R221). -/
inductive NumTy where
  | int (t : IntTy)
  | flt (t : FltTy)
  deriving DecidableEq, Repr

/-- The rounding modes (R120). -/
inductive RMode where
  | rne | rz | rd | ru
  deriving DecidableEq, Repr

/-- The members of the SE family (R124): magnitude widths 2, 4 and 7. -/
inductive SeFmt where
  | se3 | se5 | se8
  deriving DecidableEq, Repr

/-- The order codes of loads, stores and atomics (R142): 0b00, 0b01, 0b10, 0b11. -/
inductive Order where
  | relaxed | acqRel | sc | bypass
  deriving DecidableEq, Repr

/-- The kinds of FENCE by order code (R142, R274). -/
inductive FenceKind where
  | acq | rel | acqrel | sc
  deriving DecidableEq, Repr

/-- The scope codes 0 to 7 (R143). -/
inductive Scope where
  | warp | crew | cluster | die | pair | package | fabric | host
  deriving DecidableEq, Repr

/-- The engine codes 0 to 6 of major 0x30 (R159). -/
inductive Eng where
  | cq0 | cq1 | cq2 | cq3 | mx | lk | ce
  deriving DecidableEq, Repr

/-- The operators of SCAN, SCANX and RED (R232). -/
inductive RedK where
  | add | min | max | and | or | xor
  deriving DecidableEq, Repr

/-- The types SEGRED accepts (R234). -/
inductive SegTy where
  | s32 | n32 | s64 | n64 | f
  deriving DecidableEq, Repr

/-- The operations of ATOMG (R157, R267). -/
inductive AtomG where
  | add | mins | minn | maxs | maxn | and | or | xor
  deriving DecidableEq, Repr

/-- The operations of ATOMX (R157, R267). -/
inductive AtomX where
  | xchg32 | xchg64 | cas32 | cas64 | faddf | fminf | incw32
  deriving DecidableEq, Repr

/-- The operation of an ATOMS by W (R157, R267). -/
inductive AtomS where
  | g (wide : Bool) (op : AtomG)
  | x (op : AtomX)
  deriving DecidableEq, Repr

/-- The conditions of BRC (R301). -/
inductive BrCond where
  | any | all | none | nall
  deriving DecidableEq, Repr

/-- The selectors of MSKRD (R308). -/
inductive MskSel where
  | exec | live | top | depth
  deriving DecidableEq, Repr

/-- The context and warp control registers (R317). -/
inductive Csr where
  | ctxctl | trapen | tvec | grace | wstat | escr (k : Fin 4)
  deriving DecidableEq, Repr

/-! ## Field groups, one per encoding shape -/

/-- T format with an integer type and two sources (R192). -/
structure AluOp where
  d : Dst
  a : Opnd
  b : Opnd
  w : Width
  t : IntTy
  deriving DecidableEq, Repr

/-- T format with an integer type and one source (R192). -/
structure AluUn where
  d : Dst
  a : Opnd
  w : Width
  t : IntTy
  deriving DecidableEq, Repr

/-- I format (R202). -/
structure AluImm where
  d : Dst
  a : Opnd
  imm : BitVec 10
  t : IntTy
  deriving DecidableEq, Repr

/-- MOVI: I format without a source (R202). -/
structure MovImm where
  d : Dst
  imm : BitVec 10
  t : IntTy
  deriving DecidableEq, Repr

/-- The immediate shifts of major 0x0A (R197). -/
structure ShImm where
  d : Dst
  a : Opnd
  imm : BitVec 6
  w : Width
  t : IntTy
  deriving DecidableEq, Repr

/-- A 16-bit form (R146): t, s and d. -/
structure Short where
  t : Bool
  s : Fin 32
  d : Fin 32
  deriving DecidableEq, Repr

/-- T format with a float type and two sources (R211). -/
structure FltOp where
  d : Dst
  a : Opnd
  b : Opnd
  w : Width
  t : FltTy
  deriving DecidableEq, Repr

/-- T format with a float type and one source (R211). -/
structure FltUn where
  d : Dst
  a : Opnd
  w : Width
  t : FltTy
  deriving DecidableEq, Repr

/-- CVT (R221). -/
structure CvtOp where
  d : Dst
  a : Opnd
  w : Width
  rm : RMode
  sat : Bool
  src : NumTy
  dst : NumTy
  deriving DecidableEq, Repr

/-- SEPK and SEUNPK (R226, R227). -/
structure SeOp where
  d : Dst
  a : Opnd
  m : SeFmt
  deriving DecidableEq, Repr

/-- F8PK (R223); `e5` chooses E5M2, else E4M3. -/
structure F8PkOp where
  d : Dst
  a : Opnd
  b : Opnd
  e5 : Bool
  deriving DecidableEq, Repr

/-- F8UNPK (R224); `h` chooses the upper four elements. -/
structure F8UnpkOp where
  d : Dst
  a : Opnd
  h : Bool
  e5 : Bool
  deriving DecidableEq, Repr

/-- SCAN, SCANX and RED (R232). -/
structure RedOp where
  d : Dst
  a : Opnd
  w : Width
  op : RedK
  t : NumTy
  deriving DecidableEq, Repr

/-- SEGRED (R234). -/
structure SegOp where
  d : Dst
  a : Opnd
  b : Opnd
  t : SegTy
  deriving DecidableEq, Repr

/-- A lane load (R168): D is a destination. -/
structure LoadOp where
  d : Dst
  a : Opnd
  imm : Fin 8
  w : Width
  t : IntTy
  ord : Order
  scope : Scope
  deriving DecidableEq, Repr

/-- A lane or compress store (R168, R174): D is a source. -/
structure StoreOp where
  d : Opnd
  a : Opnd
  imm : Fin 8
  w : Width
  t : IntTy
  ord : Order
  scope : Scope
  deriving DecidableEq, Repr

/-- ATOMG (R267). -/
structure AtomGOp where
  d : Dst
  a : Opnd
  imm : Fin 8
  wide : Bool
  op : AtomG
  ord : Order
  scope : Scope
  deriving DecidableEq, Repr

/-- ATOMX (R267). -/
structure AtomXOp where
  d : Dst
  a : Opnd
  imm : Fin 8
  op : AtomX
  ord : Order
  scope : Scope
  deriving DecidableEq, Repr

/-- ATOMS (R267). -/
structure AtomSOp where
  d : Dst
  a : Opnd
  imm : Fin 8
  op : AtomS
  ord : Order
  scope : Scope
  deriving DecidableEq, Repr

/-- A copy command (R177); `c2` is the octet of the chained block, 0 without `chain`. -/
structure CopyOp where
  q : Fin 4
  c : Fin 4
  c2 : Fin 4
  scope : Scope
  chain : Bool
  cw : Bool
  st : Bool
  mman : Bool
  deriving DecidableEq, Repr

/-! ## What events name -/

/-- Who writes a register or issues a command: firmware, a master of R426, or a function of R419. -/
inductive Agent where
  | fw
  | host
  | bmc
  | fm
  | vf (n : Nat)
  deriving DecidableEq, Repr

/-- The request that a SLICE_ACCESS event performs: one lane of an outstanding access, the arrival at its home slice of a
write staged on a die (R48, R364, R366), or a write of the Cirque's own agents that has waited (R35, R53, R66). -/
inductive SliceReq where
  | lane (warp slot lane : Nat)
  | staged (die num : Nat)
  | posted (n : Nat)
  deriving DecidableEq, Repr

/-- What a CHANNEL_ACCESS does for a line (R35, R38): a fill, a write-back, a write-back that also releases the
line, or a fill whose flits listed in the mask return an uncorrectable error. -/
inductive ChanAct where
  | fill
  | writeBack
  | evict
  | uncorrectable (flits : BitVec 4)
  | correctable
  deriving DecidableEq, Repr

/-- A client of the torus (R54). -/
inductive Client where
  | slice (n : Nat)
  | spoke (v : Nat)
  | ddr (c : Nat)
  | edge (x : Nat)
  | hostPort
  | management
  | queueEngine (x : Nat)
  deriving DecidableEq, Repr

/-- What a TORUS_HOP does (R54 to R56): the slice of a router injects a packet, another client does, with the line or port
flit by which it is interleaved, or a packet advances one hop. -/
inductive HopReq where
  | inject (router : Nat) (resp : Bool) (flits : Nat) (dests : List Nat)
  | injectFrom (c : Client) (sel : Nat) (resp : Bool) (flits : Nat) (dests : List Nat)
  | advance (id : Nat)
  deriving DecidableEq, Repr

/-- An access of another package to this one's memory (R65): a load of n bytes, a store, or an atomic with its operation,
size and operands. -/
inductive InReq where
  | load (n : Nat)
  | store (data : List Byte) (pois : Bool)
  | atomG (wide : Bool) (op : AtomG) (v : Nat)
  | atomX (op : AtomX) (v v2 : Nat)
  deriving DecidableEq, Repr

/-- How a port flit arrives (R68): clean, corrected in n bits of wavelength λ, beyond correction, or clean with the last of
an access of another package at physical address o (R65). -/
inductive FlitRx where
  | clean
  | corrected (wl bits : Nat)
  | uncorrected
  | access (o : Nat) (r : InReq)
  deriving DecidableEq, Repr

/-- What self-check finds failing on a core (R348). -/
inductive FailUnit where
  | lane (quarter lane : Nat)
  | rows (quarter bank block : Nat)
  | bank (phys : Nat)
  | column (phys : Nat)
  deriving DecidableEq, Repr

/-- The registers that a REGISTER_WRITE event writes: every register of R420 to R422 without a row of its own. -/
inductive Reg where
  | region (r : Nat)
  | setCtl (set : Nat)
  | sliceCtl
  | wlThresh (port dir wl : Nat)
  | alwCtl (c : Nat)
  | clGrant (c : Nat)
  | railCtl (r : Nat)
  | arbCtl
  | slewCtl
  | siteCtl
  | fabId
  | route (p : Nat)
  | ctxCfg (ctx : Nat)
  | ptRoot (ctx : Nat)
  | recBase (ctx : Nat)
  | frBase (ctx : Nat)
  | caBase (ctx : Nat)
  | doorbell0 (ctx : Nat)
  | overflow (ctx : Nat)
  | spillKey (ctx word : Nat)
  | csr (ctx : Nat) (r : Csr)
  | detBlock (ctx word : Nat)
  | energy (ctx ctr : Nat)
  | ceBase (ctx die : Nat)
  | resolve (ctx : Nat)
  | calving (ctx : Nat)
  | msix (word : Nat)
  | bar2Size
  | image
  | readOnly
  | reserved
  deriving DecidableEq, Repr

/-- A BAR2 access (R420). -/
inductive Bar2Req where
  | read (size : Nat)
  | write (data : List Byte) (ep : Bool)
  | atomic (size : Nat)
  deriving DecidableEq, Repr

/-- A host DMA access to device memory (R35, R402), by the context whose window it belongs to. -/
inductive DmaReq where
  | read (size : Nat)
  | write (data : List Byte)
  deriving DecidableEq, Repr

/-- A write of a context's calving register beside its CMD: the context and the value written to N (R389). -/
structure CalvingWrite where
  ctx : Nat
  n : Nat
  deriving DecidableEq, Repr

/-- What the boot finds (R428, R429): whether each firmware image passes its checks, the boundaries that fail
authentication, the lane and channel self-test results and the firmware's choices. `quarters` gives the LIVE and ROWS of
the quarters in which the self-test has found a unit failing, by core × 4 + quarter (R345). -/
structure BootIn where
  imageA : Bool
  imageB : Bool
  failRing : BitVec 8
  failSpoke : BitVec 8
  failEdge : BitVec 2
  pool : Bool
  rsv : BitVec 10
  ddrGiB : List Nat
  hbmUp : BitVec 12
  trained : Bool
  quarters : List (Nat × BitVec 32 × BitVec 32) := []
  deriving DecidableEq, Repr

/-! ## Instructions and events -/

/-- One constructor per row of spec/opcode_table.json, in the table's order: 180 encoded instructions, then the
102 events (steps of the package that no instruction word encodes). -/
inductive Instr where
  -- lane instructions
  | iadd (f : AluOp)
  | isub (f : AluOp)
  | iadds (f : AluOp)
  | isubs (f : AluOp)
  | iaddi (f : AluImm)
  | imul (f : AluOp)
  | imulh (f : AluOp)
  | imad (f : AluOp)
  | imin (f : AluOp)
  | imax (f : AluOp)
  | iabs (f : AluUn)
  | ineg (f : AluUn)
  | and (f : AluOp)
  | or (f : AluOp)
  | xor (f : AluOp)
  | andn (f : AluOp)
  | andi (f : AluImm)
  | ori (f : AluImm)
  | xori (f : AluImm)
  | shl (f : AluOp)
  | shr (f : AluOp)
  | sra (f : AluOp)
  | rot (f : AluOp)
  | shli (f : ShImm)
  | shri (f : ShImm)
  | srai (f : ShImm)
  | roti (f : ShImm)
  | popc (f : AluUn)
  | clz (f : AluUn)
  | ctz (f : AluUn)
  | brev (f : AluUn)
  | bfx (f : AluOp)
  | bfxs (f : AluOp)
  | bfi (f : AluOp)
  | lea (f : AluOp)
  | iseteq (f : AluOp)
  | isetne (f : AluOp)
  | isetlt (f : AluOp)
  | isetle (f : AluOp)
  | isetgt (f : AluOp)
  | isetge (f : AluOp)
  | itest (f : AluOp)
  | sel (f : AluOp)
  | mov (f : AluUn)
  | movi (f : MovImm)
  | rds (d : Dst) (sp : Fin 32)
  | wrs (a : Opnd) (sp : Fin 32)
  -- 16-bit forms
  | mov16 (f : Short)
  | zeroHalfword
  | iadd16 (f : Short)
  | isub16 (f : Short)
  | and16 (f : Short)
  | or16 (f : Short)
  | xor16 (f : Short)
  | shli16 (f : Short)
  | shri16 (f : Short)
  | movi16 (f : Short)
  | iaddi16 (f : Short)
  | fadd16 (f : Short)
  | fmul16 (f : Short)
  | fsub16 (f : Short)
  | imul16 (f : Short)
  | lds16 (s d : Fin 32)
  | sts16 (s d : Fin 32)
  -- control transfers and masks
  | bra (off : BitVec 22)
  | brc (off : BitVec 16) (a : Opnd) (c : BrCond)
  | brx (off : BitVec 16) (a : Opnd) (z : Bool)
  | brk (a : Opnd) (z : Bool)
  | pj (off : BitVec 22)
  | call (off : BitVec 22)
  | join
  | jmpr (a : Opnd)
  | exit
  | callr (a : Opnd)
  | mskrd (d : Dst) (sel : MskSel)
  | mskwr (a : Opnd)
  | mskand (a : Opnd)
  -- float
  | fadd (f : FltOp)
  | fsub (f : FltOp)
  | fmul (f : FltOp)
  | ffma (f : FltOp)
  | fmin (f : FltOp)
  | fmax (f : FltOp)
  | fabs (f : FltUn)
  | fneg (f : FltUn)
  | frcp (f : FltUn)
  | frsq (f : FltUn)
  | fsqrt (f : FltUn)
  | fexp2 (f : FltUn)
  | flog2 (f : FltUn)
  | fsin (f : FltUn)
  | fcos (f : FltUn)
  | frnd (f : FltUn)
  | fseteq (f : FltOp)
  | fsetne (f : FltOp)
  | fsetlt (f : FltOp)
  | fsetle (f : FltOp)
  | fsetgt (f : FltOp)
  | fsetge (f : FltOp)
  | fsetun (f : FltOp)
  | fclass (f : FltUn)
  | cvt (f : CvtOp)
  | sepk (f : SeOp)
  | seunpk (f : SeOp)
  | f8pk (f : F8PkOp)
  | f8unpk (f : F8UnpkOp)
  -- cross-lane
  | shfl (f : AluOp)
  | shflx (f : AluOp)
  | shflu (f : AluOp)
  | shfld (f : AluOp)
  | vany (f : AluUn)
  | vall (f : AluUn)
  | vuni (f : AluUn)
  | ballot (f : AluUn)
  | scan (f : RedOp)
  | scanx (f : RedOp)
  | red (f : RedOp)
  | segred (f : SegOp)
  | cmprs (f : AluOp)
  | expnd (f : AluOp)
  | matchv (f : AluUn)
  -- memory, atomics, synchronisation
  | ldg (f : LoadOp)
  | stg (f : StoreOp)
  | lds (f : LoadOp)
  | sts (f : StoreOp)
  | cstg (f : StoreOp)
  | csts (f : StoreOp)
  | atomg (f : AtomGOp)
  | atomx (f : AtomXOp)
  | atoms (f : AtomSOp)
  | fence (k : FenceKind) (scope : Scope)
  | tlwait (e : Eng) (n : Opnd)
  | tlrd (e : Eng) (d : Dst) (fault : Bool)
  | deq (d : Dst) (c : Fin 4) (scope : Scope)
  | enq (d : Dst) (c : Fin 4) (scope : Scope) (close : Bool)
  | qtry (d : Dst) (c : Fin 4) (scope : Scope)
  | qbind (c : Fin 4)
  | barinit (c : Fin 4)
  | bararv (d : Dst) (c : Fin 4) (scope : Scope)
  | barwait (n : Opnd) (c : Fin 4) (scope : Scope)
  | bararvw (c : Fin 4) (scope : Scope)
  -- copy engine and records
  | cpy (f : CopyOp)
  | cpyt (f : CopyOp)
  | cpyp (f : CopyOp)
  | cpyg (f : CopyOp)
  | cpyr (f : CopyOp)
  | cpye (f : CopyOp)
  | pfch (q : Fin 4) (c : Fin 4) (scope : Scope) (cw : Bool)
  | recld (c : Fin 4)
  | recinv (c : Fin 4)
  | recq (d : Dst) (c : Fin 4)
  -- matrix and lookup engines
  | mma (c : Fin 4)
  | mman (c : Fin 4)
  | accz (c : Fin 4)
  | accrd (d : Dst) (c : Fin 4) (sat : Bool)
  | accwr (c : Fin 4)
  | wbld (c : Fin 4)
  | wbq (d : Dst) (c : Fin 4)
  | tbuild (c : Fin 4)
  | tlook (c : Fin 4)
  | tfin (c : Fin 4) (acc : Bool)
  | tchk (d : Dst) (c : Fin 4)
  | tspill (c : Fin 4)
  | tfill (c : Fin 4)
  | tinv (c : Fin 4)
  -- system
  | tfence
  | flgrd (d : Dst) (b : Opnd)
  | flgwr (a b : Opnd)
  | prio (a : Opnd)
  | regrs (d : Dst) (a : Opnd)
  | yield
  | sleep (a : Opnd)
  | csrr (d : Dst) (r : Csr)
  | csrw (r : Csr) (a : Opnd)
  | nop
  | trap (code : BitVec 6)
  | bkpt
  | phase
  | limm (imm : BitVec 25)
  | trl (mask : BitVec 6) (s y : Bool)
  -- events: warps
  | runStart (core quarter : Nat)
  | blockedRunResume (warp : Nat)
  | slotReturn (warp slot : Nat)
  | trapDeliver (warp : Nat)
  | faultRecordWrite (ctx : Nat)
  | faultRingHeadWrite (by_ : Agent) (ctx : Nat) (val : Word)
  | priorityPromote (warp : Nat)
  | warpEnd (warp : Nat)
  | sleepExpire (warp : Nat)
  -- events: engines
  | recordFetch (core ctx handle : Nat)
  | pageWalk (core ctx va : Nat)
  | copyRetire (core queue : Nat)
  | chainStart (core queue : Nat)
  | engineFaultPending (core eng : Nat)
  | mxRetire (core : Nat)
  | lkRetire (core : Nat)
  | messageArrive (k : Nat)
  | creditReturn (k : Nat)
  | remoteHalfAccess (warp slot lane : Nat)
  | farArrival (k : Nat)
  | queueItemDeliver (warp slot : Nat)
  | queueOrphan (ctx qb : Nat)
  -- events: memory system
  | sliceAccess (r : SliceReq)
  | replicaInvalidate (line die : Nat)
  | collapseComplete (line : Nat)
  | sliceWriteApply (die num : Nat)
  | channelAccess (line : Nat) (act : ChanAct)
  | torusHop (r : HopReq)
  | holdingBufferRelease (router out : Nat)
  | fabricAccess (port : Nat)
  | opticalFlitReceive (port : Nat) (rx : FlitRx)
  | wavelengthRetire (port dir wl bits : Nat)
  | wavelengthTrainDone (port dir wl : Nat) (ok : Bool)
  | wavelengthEnableWrite (by_ : Agent) (port dir wl : Nat) (val : Word)
  | routePortWrite (by_ : Agent) (p : Nat) (val : Word)
  | dieMapWrite (by_ : Agent) (val : Word)
  | dieMapApply
  | setEvacuate (by_ : Agent) (set ch : Nat)
  | setFail (by_ : Agent) (set ch : Nat)
  | moraineGranuleBegin (set : Nat)
  | moraineGranuleComplete (set : Nat)
  | sliceEvacuate (by_ : Agent) (slice : Nat)
  | sliceEntryMove
  | bankRetire (core phys : Nat)
  | columnSteerRewrite (core : Nat)
  | shootdown (by_ : Agent) (ctx : Nat) (val : Word)
  | shootdownComplete (ctx : Nat)
  -- events: launch, placement, calving
  | launchWrite (by_ : Agent) (ctx : Nat) (val : Word)
  | launchRecordRead (ctx : Nat)
  | placementEntryApply (die : Nat)
  | calveCommand (by_ : Agent) (ctx n : Nat)
  | returnCommand (by_ : Agent) (w : CalvingWrite)
  | graceExpire (warp : Nat)
  | calveSaveDone (ctx : Nat)
  | groupResume (ctx grp : Nat)
  | qlaneWrite (by_ : Agent) (core quarter : Nat) (val : Word)
  | qrowsWrite (by_ : Agent) (core quarter : Nat) (val : Word)
  | steeringRewriteDone (core quarter : Nat)
  | laneSelfCheckFail (core : Nat) (u : FailUnit)
  | coreOutOfService (core : Nat)
  | regrsGrant (core quarter : Nat)
  | regrsDeny (core quarter : Nat)
  -- events: power
  | clusterQuiesce (c : Nat)
  | slewAdmit
  | grantBoundary
  | powerMonitorSample (watts : Nat)
  | tokenPass (die : Nat)
  | tokenTimeout (die : Nat)
  | paceWrite (by_ : Agent) (g : Nat) (val : Word)
  | paceApply (g : Nat)
  | budgetTokenSend (pkg k : Nat)
  | budgetTokenReceive (pkg k : Nat)
  | supplyDroop (c clocks : Nat)
  -- events: determinism and collectives
  | phaseAdvance (ctx : Nat)
  | digestCompare (ctx k : Nat)
  | ceTailWrite (by_ : Agent) (ctx die : Nat) (val : Word)
  | ceCommand (ctx die : Nat)
  | ceFault (ctx die : Nat)
  -- events: host
  | doorbell (by_ : Agent) (ctx : Nat) (val : Word)
  | resolveRetryWarp (by_ : Agent) (ctx : Nat) (val : Word)
  | resolveEndCrew (by_ : Agent) (ctx : Nat) (val : Word)
  | resolveRetryEngine (by_ : Agent) (ctx : Nat) (val : Word)
  | resolveAbandon (by_ : Agent) (ctx : Nat) (val : Word)
  | resolveClearP (by_ : Agent) (ctx : Nat) (val : Word)
  | hostBar2Access (pa : Nat) (r : Bar2Req)
  | ownerClaim (m : Agent)
  | ownerNameSuccessor (m succ : Agent)
  | ownerRelease (m : Agent)
  | handoverExpire
  | boot (b : BootIn)
  | spdmGetVersion
  | spdmGetCapabilities
  | spdmNegotiateAlgorithms (hash asym : Nat)
  | spdmGetDigests
  | spdmGetCertificate (slot : Nat)
  | spdmChallenge (nonce : List Byte)
  | spdmGetMeasurements (index : Nat)
  | memoryScrub (chan flit : Nat) (raced : Bool)
  | registerWrite (by_ : Agent) (r : Reg) (val : Word)
  | hostDmaTransfer (ctx va : Nat) (r : DmaReq)
  | opticalPartnerAttach (port : Nat) (on : Bool)
  | hostLinkTraining (up : Bool)
  deriving DecidableEq, Repr

/-- The number of registers in a group (R103). -/
abbrev Width.regs : Width → Nat
  | .w1 => 1
  | .w2 => 2
  | .w4 => 4
  | .w8 => 8

end Sys2Proof
end

