-- ==== Sys2Proof/Machine/State.lean ====
section
/-! DEFINITION. The state of the CX-HV192 package as plain data, the reasons a step could stop, and the state
right after reset. Each field's comment names what it holds, its width, the rule that names it and its reset
value; `log n` is the row notes/assumptions/n.md. -/

namespace Sys2Proof.Machine

open Sys2Proof

/-- A sparse map in one canonical form: keys strictly rising; for a map with a default value no entry holds the
default. -/
abbrev SMap (α : Type) := List (Nat × α)

/-- Bytes by address (R2): the canonical sparse form with default byte 0. -/
abbrev Memory := List Host.Cell

/-- The 32 lane values of one 64-bit register (R99), lane 0 first. -/
abbrev Lanes := List Word

/-- A register that reads zero in every lane. -/
abbrev Lanes.zero : Lanes := List.replicate 32 0

/-- A vector clock of the compute dies: die number to count, 0 where unlisted (R365). -/
abbrev VClock := SMap Nat

/-! ## Warps -/

/-- The kinds of reconvergence-stack entry (R110). -/
inductive StackKind where
  | path | join | call | trap
  deriving DecidableEq, Repr

/-- A reconvergence-stack entry (R110). -/
structure StackEntry where
  /-- KIND, word 0 [63:61]. -/
  kind : StackKind
  /-- PC, word 0 [55:1] (bit 0 is zero). -/
  pc : Nat
  /-- MASK, word 1 [31:0]. -/
  mask : Mask
  /-- TM, word 0 [56]. -/
  tm : Bool
  deriving DecidableEq, Repr

/-- A trap that is about to be delivered: its cause, addresses and the fields of tinfo (R379, R380). -/
structure TrapReq where
  cause : Nat
  addr : Word
  info : Nat
  wr : Bool
  eng : Nat
  tb : Nat
  pos : Nat
  ret : Bool
  slot : Nat
  prog : Nat
  lv : Bool
  lane : Nat
  /-- Resume point (R379). -/
  resume : Nat
  deriving DecidableEq, Repr

/-- The run state of R107: what a trap or a save keeps of a run. -/
structure RunState where
  /-- o0 to o5, 64 bits per lane; zero at a run start (R99, R106). -/
  ofile : SMap Lanes
  /-- The written mask of o0 to o5, 6 bits; 0 at a run start (R106). -/
  owr : BitVec 6
  /-- Words of o0 to o5 with an uncorrectable error: entry to lane mask; none at a run start (R102, R107). -/
  oue : SMap Mask := []
  /-- l0, absent at a run start (R106). -/
  l0 : Option Lanes
  /-- l1, absent at a run start (R106). -/
  l1 : Option Lanes
  /-- The instructions of the run already issued, 0 to 24 (R149). -/
  pos : Nat
  /-- The positional slots already taken, 0 to 6 (R149, R150). -/
  taken : Nat
  /-- A pending control transfer and its target (R153, R298). -/
  ct : Option Nat
  /-- The token of a BARARVW that has arrived and waits (R295). -/
  arv : Option Bool
  /-- A PHASE that has committed and waits (R320): the phase it read. -/
  commit : Option Nat
  /-- YIELD asked that the trailer act as with Y = 1 (R313). -/
  yld : Bool
  /-- A TRAP that has issued: what its trailer delivers, and whether it makes a fault stop (R319). -/
  trp : Option (TrapReq × Bool)
  /-- The LIMM words that stand directly before the next instruction, oldest first (R144). -/
  limm : List (BitVec 25)
  deriving DecidableEq, Repr

/-- The run state at a run start (R106). -/
abbrev RunState.start : RunState :=
  { ofile := [], owr := 0, l0 := none, l1 := none, pos := 0, taken := 0, ct := none, arv := none,
    commit := none, yld := false, trp := none, limm := [] }

/-- The operation of one lane's access (R170, R269). -/
inductive AccOp where
  | load
  | store
  | atomG (wide : Bool) (op : AtomG)
  | atomX (op : AtomX)
  deriving DecidableEq, Repr

/-- Where an access goes: package memory, the fabric window, the host window (each with the physical address), or
a core's scratchpad (the core scratchpad address), with `remote` for the partner half of a pair window. -/
inductive Loc where
  | dev (pa : Nat) (mt : BitVec 2) (rm : Bool)
  | fabric (pa : Nat)
  | host (pa : Nat)
  | scratch (core addr : Nat) (remote : Bool)
  deriving DecidableEq, Repr

/-- One lane's part of an outstanding access. -/
structure LaneAcc where
  lane : Nat
  /-- The address the instruction computed: a virtual address, or a scratchpad offset. -/
  addr : Nat
  loc : Loc
  size : Nat
  op : AccOp
  /-- The data of a store, the operand of an atomic. -/
  data : Nat
  /-- The new value of a cas (R269). -/
  data2 : Nat
  /-- Injection number, rising over the package (R66). -/
  ser : Nat
  /-- An atomic has entered its die's store stage and has not been applied yet (R364). -/
  entered : Bool := false
  /-- The access has been performed. -/
  done : Bool
  /-- The value read, once performed. -/
  val : Nat
  /-- The access met poison (R173, R273). -/
  pois : Bool
  deriving DecidableEq, Repr

/-- Where a slot's result goes: for each lane the lowest register named (R105, R209), or an operand-file entry. -/
inductive SlotDst where
  | none
  | regs (bases : List Nat) (group : Nat)
  | ofile (n : Nat)
  deriving DecidableEq, Repr

/-- A message in flight or waiting (R58): its header names the channel and the sender's active mask; its payload is the
active lanes' values, padded to whole flits. -/
structure Msg where
  src : Nat
  sr : Nat
  dst : Nat
  rr : Nat
  mask : Mask
  data : List Byte
  /-- The model's number of the binding it was sent on, which its credit returns to (R59). -/
  bind : Nat
  /-- The sending die's clock (R365). -/
  vc : VClock
  deriving DecidableEq, Repr

/-- What an outstanding long-latency instruction still has to do. -/
inductive SlotBody where
  /-- The result is known: group values by lane, and the flags it sets on return (R122). -/
  | value (vals : List Nat) (fl : Flags)
  /-- Lane accesses of a load, store or atomic; `sext` sign-extends a load (R170). -/
  | access (accs : List LaneAcc) (sext : Bool)
  /-- A fence (R275). -/
  | fence (k : FenceKind)
  /-- RDS of a receive register that has consumed a message (R60): the value of each lane. -/
  | recv (vals : List Nat)
  /-- A DEQ waiting for an item, or with `try_` a QTRY (R287). -/
  | deq (qb : Nat) (try_ : Bool)
  /-- An ENQ waiting for space (R288): its item, and the slice-table entry of its tile address or its segment (ticket);
  with `close` it closes the queue. -/
  | enq (qb dest : Nat) (item : List Word) (close : Bool)
  /-- The outcome of a DEQ, QTRY or ENQ (R286): the status word, and for a delivery the item and the clock it
  carries; `acq` for a DEQ or QTRY. -/
  | status (word : Nat) (item : Option (List Word)) (vc : VClock) (acq : Bool)
  /-- An ACCRD: returns when mx command `seq` retires (R254). -/
  | accrd (seq : Nat)
  /-- A barrier arrival that counts once its release holds (R297); it takes no positional slot. -/
  | arrive (bar : Nat)
  /-- A message whose send earlier acquires still hold (R359); it takes no positional slot. -/
  | send (m : Msg)
  deriving DecidableEq, Repr

/-- An outstanding long-latency instruction (R150), or a held arrival or send. -/
structure Slot where
  /-- Serial number in the warp's program order. -/
  id : Nat
  /-- Serial number of its run. -/
  run : Nat
  /-- Positional slot, 0 to 5; 6 for an arrival or a send, which take none. -/
  idx : Nat
  /-- Run position of the instruction. -/
  pos : Nat
  ord : Order
  scope : Scope
  dst : SlotDst
  mask : Mask
  body : SlotBody
  /-- Where the status word of a DEQ, QTRY or ENQ goes is `dst`; the slot has returned, but a relaxed store's lanes
  are still to be performed (R171). -/
  ret : Bool
  /-- Earlier acquires held the instruction when it issued: its scratchpad accesses are checked against the range
  scoreboard when they are performed, the others at issue (R98). -/
  late : Bool := false
  deriving DecidableEq, Repr

/-- A condition that a class B instruction waits for (R150, R339). -/
inductive Block where
  | timeline (e : Eng) (n : Nat)
  | barrier (b : Nat) (token : Bool)
  | slots
  | regrs (size : Nat)
  | sleep (till : Nat)
  /-- RDS of receive register k with no message to consume (R60). -/
  | recv (k : Nat)
  /-- PHASE before it commits (R320 step 1). -/
  | commit
  | phase (p : Nat)
  /-- The wait is over and the instruction has completed; the warp waits for a holder. -/
  | done
  deriving DecidableEq, Repr

/-- Where a warp stands (R339, R340, R385, R391). -/
inductive WarpSt where
  /-- Placed, its die's replica has not yet applied the launch (R332). -/
  | unstarted
  /-- Ready for a run start. -/
  | ready
  /-- In a run holder. -/
  | running
  /-- Out of its holder at a class B instruction. -/
  | blocked (b : Block)
  /-- At a trailer whose conditions do not hold (R151): await mask, S. -/
  | parked (mask : BitVec 6) (s : Bool)
  /-- Ended, waiting for results and stores (R307). -/
  | ended
  /-- In a fault stop (R385). -/
  | stopped
  /-- Saved by a calving request (R391), and whether it was in a fault stop. -/
  | saved (stopped : Bool)
  deriving DecidableEq, Repr

/-- A channel bound to a send register (R59, R290): destination warp and receive register, free credits, and the
model's number of the binding. -/
structure Channel where
  dst : Nat
  rr : Nat
  credits : Nat
  bind : Nat
  deriving DecidableEq, Repr

/-- A write record of a sampled execution (R405): which write it is (the model's key), its virtual address, length and
data; the data of an atomic or a copy store is filled in when it is performed. -/
structure SampleRec where
  key : Nat
  va : Nat
  len : Nat
  data : List Byte
  done : Bool
  deriving DecidableEq, Repr

/-- The execution of a sampled item (R403 to R405). -/
structure Sample where
  qb : Nat
  num : Nat
  shadow : Bool
  /-- Write records so far, in program order. -/
  recs : List SampleRec
  /-- The serial number of the DEQ or QTRY that delivers the item, and whether an earlier acquire still holds it, so that
  what it delivers is not yet known. -/
  start : Nat := 0
  waiting : Bool := false
  deriving DecidableEq, Repr

/-- What a trap keeps for the return: the run state, the slots already taken and the restart progress (R381). -/
structure Shadow where
  run : RunState
  prog : Nat
  runNo : Nat
  deriving DecidableEq, Repr

/-- A warp. -/
structure Warp where
  /-- Context number, 6 bits (R322). -/
  ctx : Nat
  /-- Crew id, 16 bits, s2 (R108, R330). -/
  crew : Nat
  /-- Warp index, 4 bits, s1 (R108, R330). -/
  idx : Nat
  /-- Package core (R10). -/
  core : Nat
  /-- Quarter 0 to 3 and slot 0 to 15 (R335, R339). -/
  quarter : Nat
  slot : Nat
  st : WarpSt
  /-- Main-file allocation A: 16, 32, 48 or 64 (R101). Launch value: the record's REGS × 16. -/
  alloc : Nat
  /-- v0 to v63, 64 bits per lane; zero at launch (R99, R101). -/
  main : SMap Lanes
  /-- Words of v0 to v63 with an uncorrectable error: register to lane mask; none at launch (R102). -/
  ue : SMap Mask
  /-- x0 to x3, 32 bits per lane, held in 64-bit words; zero at launch (R105, R330). -/
  xr : SMap Lanes
  run : RunState
  /-- The halfwords of the run from pc on, fetched and checked at the run start (R148); none before. -/
  code : Option (List (BitVec 16))
  /-- exec, s3; 0xFFFF_FFFF at launch (R109). -/
  exec : Mask
  /-- The live mask; 0xFFFF_FFFF at launch (R299). -/
  live : Mask
  /-- The hardware stack entries, top first, at most 16; empty at launch (R111). -/
  stack : List StackEntry
  /-- The number of entries in the spill area (R111). -/
  spilled : Nat
  /-- Base and size in entries of the spill area (R111, R323). -/
  spBase : Nat
  spSize : Nat
  /-- The program counter, a code address. Launch value: ENTRY (R330). -/
  pc : Nat
  /-- Outstanding long-latency instructions, oldest first (R150). -/
  slots : List Slot
  /-- The next slot serial number and the serial number of the current run (the model's numbering). -/
  nextSlot : Nat
  runNo : Nat
  /-- prio, s14, 3 bits; 3 at launch (R330). -/
  prio : BitVec 3
  /-- aflags, s15, 12 bits; FTZ and RM from the record, flags clear (R121, R330). -/
  aflags : BitVec 12
  /-- item0 to item3, s4 to s7, 64 bits each; 0 at launch (R108, R330). -/
  items : List Word
  /-- tcause, s29; 0 before the first trap (R205, R380). -/
  tcause : Word
  /-- taddr, s30 (R380). -/
  taddr : Word
  /-- tinfo, s31 (R380). -/
  tinfo : Word
  /-- WSTAT.TM; 0 (R317). -/
  tm : Bool
  /-- ESCR0 to ESCR3, 64 bits each; 0 (R317). -/
  escr : List Word
  /-- The trap shadow (R381). -/
  shadow : Option Shadow
  /-- A TRAP entry that a control transfer has popped and whose return takes effect after the trailer (R153, R306): its
  TM, and whether it was the last entry popped, so that the saved run continues. -/
  back : Option (Bool × Bool)
  /-- The restart progress of a compress store, 5 bits (R175, R383). -/
  prog : Nat
  /-- The restart progress is that of the run a trap interrupted: no compress store of the handler consults it (R383). -/
  progHeld : Bool := false
  /-- The frame that the warp was resumed from holds a restart progress that is not 0 (R385, R456; log 97). -/
  framed : Bool := false
  /-- The channels bound to qo0 to qo3 (R59). -/
  send : SMap Channel
  /-- The messages waiting in qi0 to qi3, oldest first (R60). -/
  recv : SMap (List Msg)
  /-- The receive registers into which a channel has been bound (R60, R291), 4 bits. -/
  recvBound : BitVec 4
  /-- The queues the warp produces for, 16 bits (R290). -/
  producer : BitVec 16
  /-- POISON found when slots returned, held for delivery in return order (R386). -/
  held : List TrapReq
  /-- A trap waiting for outstanding results (R381 step 1). -/
  pend : Option TrapReq
  /-- The place of the last run start among all run starts, none before the first; whether promoted (R340, R341). -/
  lastStart : Option Nat
  promoted : Bool
  /-- The phase up to which the warp has committed (R397): committed in phases below this number. -/
  committed : Nat
  /-- A sampled execution in progress (R404). -/
  sample : Option Sample
  /-- A forced stop by a calving request waits for TM to fall (R391). -/
  calveWait : Bool
  /-- The crew pages of a table that a waiting TLOOK, TFIN or TCHK considers: those held when no setter of the table was
  left (R257). -/
  tblPages : Option (List Nat) := none
  /-- The holder it occupies, or occupied last: true for holder 1 (R339, R343). -/
  holder : Bool := false
  /-- It ended while out of a holder (R339, R385). -/
  outEnd : Bool := false
  /-- Arithmetic clocks, in tenths, for which it has been ready without a holder (R341). -/
  readyClk : Nat := 0
  deriving DecidableEq, Repr

/-! ## Crews and their engine state -/

/-- A barrier (R292): COUNT, FAR, PH, the arrivals of the phase, the far arrivals received in this phase and those
held for the next (crew keys), and whether this phase's far arrivals have been posted (R296). -/
structure Barrier where
  count : Nat
  far : Bool
  ph : Bool
  arrivals : Nat
  farGot : List Nat
  farNext : List Nat
  posted : Bool
  deriving DecidableEq, Repr

/-- A table register (R256). -/
structure Table where
  built : Bool
  /-- 32-bit stored entries, slot 8 × group + (c AND 7). -/
  ent : SMap (BitVec 32)
  et : Int
  nan : Bool
  pois : Bool
  /-- The source pages (crew-relative) and their generations, at most two. -/
  src : List (Nat × Nat)
  stale : Bool
  deriving DecidableEq, Repr

/-- An empty table register (R237). -/
abbrev Table.empty : Table :=
  { built := false, ent := [], et := 0, nan := false, pois := false, src := [], stale := false }

/-- A tensor record after R80: its fields. -/
structure TRec where
  pad : BitVec 32
  rdo : Bool
  ent : Bool
  sp : Bool
  rank : Nat
  fmt : Nat
  base : Nat
  sbase : Nat
  ctab : Nat
  dims : List Nat
  strs : List Nat
  deriving DecidableEq, Repr

/-- The state of a Firn region (R244). -/
inductive FirnSt where
  | invalid | loading | valid
  deriving DecidableEq, Repr

/-- A Firn region descriptor (R244) with what the buffer holds for it: by group × 192 + column the bytes of the
16 elements (for SE elements the two bytes of their block above them), and the poison marks of those. -/
structure Firn where
  st : FirnSt
  handle : Nat
  fmt : Nat
  c0 : Int
  c1 : Int
  funit : Nat
  ng : Nat
  data : SMap Nat
  pois : SMap Bool
  src : Option TRec
  deriving DecidableEq, Repr

/-- An invalid Firn region (R237). -/
abbrev Firn.invalid : Firn :=
  { st := .invalid, handle := 0, fmt := 0, c0 := 0, c1 := 0, funit := 0, ng := 0, data := [], pois := [],
    src := none }

/-- Where a crew stands: live, saved by a calving request, or exited (R331, R391). -/
inductive CrewSt where
  | live | saved | exited
  deriving DecidableEq, Repr

/-- A crew (R321). -/
structure Crew where
  ctx : Nat
  id : Nat
  core : Nat
  /-- s18, the virtual core (R333). -/
  vcore : Nat
  /-- Warps per crew (R323). -/
  wpc : Nat
  /-- The scratchpad allocation: first core page and number of pages (R74, R335). -/
  page : Nat
  pages : Nat
  /-- The crew's shares (R237): accumulator sets, table registers, Firn units. -/
  nAcc : Nat
  nTbl : Nat
  nFirn : Nat
  st : CrewSt
  /-- The crews of its span instance, itself included; empty outside a span (R336). -/
  span : List Nat
  /-- The partner crew in a span (R62). -/
  partner : Option Nat
  /-- The 16 barriers (R292). -/
  bars : List Barrier
  /-- Accumulator elements, 32 bits, key (set × 128 + row) × 192 + column; +0 at launch (R243). -/
  acc : SMap (BitVec 32)
  /-- Their poison marks (R243). -/
  accPois : SMap Bool
  /-- The table registers (R256). -/
  tables : SMap Table
  /-- The eight Firn regions (R244). -/
  firn : SMap Firn
  /-- The wrap counter, 32 bits; 0 at launch (R256). -/
  wrap : BitVec 32
  /-- A saved crew's scratchpad bytes, poison marks and page generations, by offset (R391, R393). -/
  img : Memory
  imgPois : SMap Bool
  imgGen : SMap (BitVec 16)
  /-- The engine timelines saved with it: T and P of cq0 to cq3, mx, lk (R392). -/
  imgTl : List (Nat × Nat)
  /-- The clock of the die it was saved on (R358, R365). -/
  imgVc : VClock := []
  /-- The number of the placement entry that starts it: its launch, or its last resumption (R332). -/
  entry : Nat := 0
  deriving DecidableEq, Repr

/-! ## Engine commands -/

/-- The copy commands (R177). -/
inductive CopyKind where
  | cpy | cpyt | cpyp | cpyg | cpyr | cpye | pfch
  deriving DecidableEq, Repr

/-- An accepted copy command: its block (R178 to R182) and the record it was issued with (R85). -/
structure CopyCmd where
  kind : CopyKind
  st : Bool
  trec : TRec
  spoff : Nat
  pitch : Nat
  c : List Int
  e : List Nat
  soff : Nat
  /-- Rows and index list of CPYG; rows, lengths, masks, limit and count word of CPYR. -/
  n : Nat
  idxOff : Nat
  maskOff : Nat
  limit : Nat
  cntOff : Nat
  /-- The completion word: virtual address and value (R95). -/
  cw : Option (Nat × Word)
  scope : Scope
  deriving DecidableEq, Repr

/-- The body of an accepted engine command. -/
inductive CmdBody where
  | copy (c : CopyCmd)
  /-- `bfmt` is the format of region FR as it stood at acceptance (R249). -/
  | mma (fresh : Bool) (trec : TRec) (aoff asoff gb fr bfmt acc ncol nrow k : Nat)
  | accz (acc : Nat)
  | accrd (trec : TRec) (spoff acc row0 col0 nrow ncol : Nat) (sat : Bool)
  | accwr (trec : TRec) (spoff acc row0 col0 nrow ncol : Nat)
  | wbld (trec : TRec) (fr ng : Nat) (c0 c1 : Int)
  | tbuild (trec : TRec) (tb aoff : Nat)
  | tlook (trec : TRec) (tb aci coff cg gc gs rowc nrow qoff : Nat)
  | tfin (trec : TRec) (tb aci acf soff nrow foff qoff : Nat) (accum : Bool)
  | tspill (tb addr : Nat)
  | tfill (tb addr : Nat)
  | tinv (mask : BitVec 16)
  deriving DecidableEq, Repr

/-- A scoreboard entry (R96): a byte interval of core scratchpad addresses, read or write. -/
structure SbEntry where
  lo : Nat
  hi : Nat
  wr : Bool
  deriving DecidableEq, Repr

/-- A translation fault that stalls a queue (R388): address, cause, and whether its record is written. -/
structure EngFault where
  addr : Nat
  cause : Nat
  recorded : Bool
  deriving DecidableEq, Repr

/-- A command accepted on a queue or sequence and not yet retired (R86, R239). -/
structure Cmd where
  seq : Nat
  ctx : Nat
  /-- Key of the issuing crew, and the issuing warp. -/
  crew : Nat
  warp : Nat
  body : CmdBody
  entries : List SbEntry
  /-- Acceptance number over the core (R97, R240). -/
  accNo : Nat
  /-- Accepted while P was set: discarded without effect (R278). -/
  discard : Bool
  fault : Option EngFault
  /-- A matrix command chained from a copy and not yet started (R94). -/
  waitChain : Bool
  /-- The mx sequence number of the command chained to this copy (R94). -/
  chain : Option Nat

  /-- Memory-side footprint in virtual addresses, and whether it writes (R400). -/
  fp : Option (Nat × Nat × Bool)
  /-- The stream the command belongs to: its engine code, for a chained command that of its copy (R399). -/
  stream : Nat
  /-- 0 until its accesses have been made; 1 once they have; 2 once its completion word has been written (R95, R277). -/
  phase : Nat
  /-- Issued in a shadow execution: its memory-side writes and completion word are not performed (R404). -/
  shadow : Bool
  /-- The reload of a Firn region on resumption (R266): it has no number of its own and does not advance T. -/
  reload : Bool := false
  deriving DecidableEq, Repr

/-- A timeline (R277): counter T, fault mark P, and the next sequence number. -/
structure Timeline where
  t : Nat
  p : Nat
  next : Nat
  deriving DecidableEq, Repr

/-- A timeline at reset or context creation: the first command receives 1 (R86, R239). -/
abbrev Timeline.init : Timeline := { t := 0, p := 0, next := 1 }

/-! ## Cores and quarters -/

/-- A quarter's steering registers (R345) and tie bit (R343): the holder whose warp issues on the next tie, true for
holder 1. -/
structure Quarter where
  live : Mask
  rows : Mask
  /-- STAT of QLANE, for a rewrite of either register (R345, R346). -/
  stat : BitVec 2
  /-- The new LIVE and ROWS of a rewrite in progress (R346). -/
  pendLive : Option Mask
  pendRows : Option Mask
  tie : Bool
  deriving DecidableEq, Repr

/-- A healthy quarter. -/
abbrev Quarter.init : Quarter :=
  { live := BitVec.allOnes 32, rows := BitVec.allOnes 32, stat := 0, pendLive := none,
    pendRows := none, tie := false }

/-- A core's own state beside its warps, crews, scratchpad and queues. -/
structure Core where
  /-- In service (R349); with the live width as the placement stream last set it (R333). -/
  inService : Bool
  width : Nat
  quarters : List Quarter
  /-- Scratchpad bank steering (R73): logical bank to physical bank where not the identity; retired banks. -/
  banks : SMap Nat
  deadBanks : List Nat
  /-- Live physical matrix columns, 196 bits, in force and as last reported failing (R252). -/
  cols : BitVec 196
  pendCols : BitVec 196
  /-- The steering table: logical matrix column to physical column, where they differ (R252). -/
  steer : SMap Nat
  /-- Units found failing by self-test and not yet retired (R348). -/
  failing : List FailUnit
  /-- The core's correctable-error counter (R76). -/
  errs : Nat
  deriving DecidableEq, Repr

/-- A healthy core. -/
abbrev Core.init : Core :=
  { inService := true, width := 128, quarters := List.replicate 4 Quarter.init, banks := [], deadBanks := [],
    cols := BitVec.allOnes 196, pendCols := BitVec.allOnes 196, steer := [], failing := [], errs := 0 }

/-- A record in a core's record cache (R85). -/
structure CachedRec where
  core : Nat
  ctx : Nat
  handle : Nat
  words : List Word
  deriving DecidableEq, Repr

/-- A held translation (R44, R46): its context, virtual base, size in bytes, physical base and leaf entry. -/
structure TlbEntry where
  /-- The core, or the die for an entry of a shared TLB. -/
  unit : Nat
  ctx : Nat
  va : Nat
  size : Nat
  pte : Word
  deriving DecidableEq, Repr

/-! ## Memory system -/

/-- An interleave set (R26, R29, R31). -/
structure ISet where
  rsv : Bool
  rrptr : Nat
  evch : Nat
  stat : BitVec 2
  drops : Nat
  evpos : Nat
  /-- The set's number of channels N; 0 for an empty set (R26, R27). -/
  n : Nat
  /-- Remap entries that differ from their initial channel and rank: entry to (channel, rank) (R29, R32). -/
  remap : SMap (Nat × Nat)
  /-- Entries on the evacuating channel: entry to old (channel, rank) (R34). -/
  moving : SMap (Nat × Nat)
  /-- A granule of the evacuating channel is being moved (R34). -/
  busy : Bool
  /-- The fold of the upper address bits of the block being moved, as the engine took it when it began the block: it
  gives the order of the block's granules (R34). -/
  fold : Nat
  /-- Channels evacuated, and channels failed in place (R32, R33). -/
  gone : List Nat
  failed : List Nat
  /-- Stalled writes to the moving granule, oldest first: line number and its bytes (R35). -/
  stalled : List (Nat × BitVec 1024 × BitVec 128 × BitVec 4)
  /-- The old channel does not answer for the granule in the move (R37). -/
  mute : Bool
  /-- Evacuations accepted while the granules of an earlier one still move, in order: entry to old (channel, rank) (R32). -/
  queued : List (SMap (Nat × Nat)) := []
  deriving DecidableEq, Repr

/-- A line held in its home slice (R47, R48, R52): data, poison of its four flits, dirty, replica vector; and the context
whose agent wrote it last, which is charged for its write-back (R417, log 29). -/
structure Line where
  data : BitVec 1024
  pois : BitVec 4
  dirty : Bool
  vec : BitVec 8
  ctx : Option Nat := none
  deriving DecidableEq, Repr

/-- A die replica (R52): data, poison and stamps of its four flits (R365). -/
structure Replica where
  data : BitVec 1024
  pois : BitVec 4
  stamps : List VClock := []
  deriving DecidableEq, Repr

/-- A write in a die's store stage (R364, R365). -/
structure Staged where
  num : Nat
  stamp : VClock
  /-- The die's previous write to the same home slice (R365). -/
  prev : Nat
  pa : Nat
  size : Nat
  data : Nat
  /-- The flits it writes are poisoned by it (R93). -/
  pois : Bool
  mt : BitVec 2
  /-- The issuing warp and slot, for the release rules (R359). -/
  warp : Nat
  slot : Nat
  /-- An atomic (R364): its lane access, and whether its write half is suppressed (R404). -/
  atom : Option (LaneAcc × Bool) := none
  /-- Accepted by the home slice (R366); it started a collapse, whose reads wait until it has been applied (R53). -/
  accepted : Bool
  collapsing : Bool
  /-- The context whose agent writes (R417). -/
  ctx : Nat := 0
  deriving DecidableEq, Repr

/-- A collapse under way (R53): the line and the dies that have not acknowledged. -/
structure Collapse where
  line : Nat
  wait : BitVec 8
  deriving DecidableEq, Repr

/-- A write of the Cirque's own agents that waits at its home, or for its port (R35, R53, R66): physical address, bytes,
poison, whether its line passes through its home, its injection number, and the context it is written for. -/
structure Posted where
  pa : Nat
  data : List Byte
  pois : Bool
  thru : Bool
  ser : Nat
  ctx : Option Nat := none
  deriving DecidableEq, Repr

/-- The slice control register and the evacuation of a slice (R49 to R51). -/
structure SliceCtl where
  rrptr : Nat
  evsl : Nat
  stat : BitVec 2
  drops : Nat
  evpos : Nat
  gone : List Nat
  /-- Slice-table entries that differ from their reset slice (R47). -/
  table : SMap Nat
  /-- Entries still to move, with their new slice (R51). -/
  moving : SMap Nat
  /-- The evacuating slice does not answer (R51). -/
  mute : Bool
  deriving DecidableEq, Repr

/-- The memory system. -/
structure Mem where
  /-- Region descriptors, 32 bits each; 0 at reset, mapped by firmware at boot (R25, R27). -/
  regions : SMap (BitVec 32)
  /-- The ten interleave sets (R26, R31). -/
  sets : SMap ISet
  /-- The bytes of the memory channels: key (channel number × 2^38 + channel address), HBM channels 0 to 383 and
  DDR-5 channels 384 to 399 (R23, R29). Unlisted bytes read 0 (log 4). -/
  chan : Memory
  /-- Poisoned 32-byte flits of the channels, key of the byte div 32 (R39). -/
  chanPois : SMap Bool
  /-- Correctable-error counters by channel (R38). -/
  chanErr : SMap Nat
  /-- Lines held in home slices, by line number pa div 128 (R47). -/
  lines : SMap Line
  slices : SliceCtl
  /-- Die replicas, key die × 2^45 + line (R52). -/
  replicas : SMap Replica
  collapses : List Collapse
  /-- Stamps of flits, key pa div 32 (R365). -/
  stamps : SMap VClock
  /-- The vector clocks of the compute dies, all zero at reset (R365). -/
  clocks : SMap VClock
  /-- The store stages, oldest write first (R364). -/
  stages : SMap (List Staged)
  /-- The number of each die's last write to each slice, key die × 64 + slice (R365). -/
  lastTo : SMap Nat
  /-- The core and die TLBs, most recent first (R44). -/
  tlb : List TlbEntry
  dieTlb : List TlbEntry
  /-- Other packages' memory as this package reaches it, key the fabric-window address (R65); poison by flit. -/
  fabric : Memory
  fabricPois : SMap Bool
  /-- Host memory behind the host window (R24). -/
  hostMem : Memory
  /-- The next AtomicOp that reaches the host completes with error status (R272). -/
  hostErr : Bool
  /-- Writes of the Cirque's own agents that wait, oldest first (R35, R53, R66); none at reset. -/
  posted : List Posted := []
  deriving DecidableEq, Repr

/-! ## Links -/

/-- A packet on the torus (R55 to R57): where it is (router, ring 0 X, 1 Y, 2 client, direction up), its class, its
flits, its destinations, and whether it waits in a holding buffer of an output. -/
structure Packet where
  id : Nat
  router : Nat
  ring : Nat
  up : Bool
  resp : Bool
  flits : Nat
  dests : List Nat
  holding : Option Nat
  deriving DecidableEq, Repr

/-- A wavelength (R69, R70): STATE, FAILS, HEAT, PDMON, ENA, its threshold, and the bits and corrected bits of its window
in progress. -/
structure Wave where
  state : BitVec 2
  fails : Nat
  heat : BitVec 8
  pdmon : BitVec 12
  ena : Bool
  thresh : BitVec 32
  winBits : Nat := 0
  winErrs : Nat := 0
  deriving DecidableEq, Repr

/-- A wavelength at reset (R69, R70); it is not trained until a partner is attached (R69). -/
abbrev Wave.init : Wave := { state := 0, fails := 0, heat := 0x80, pdmon := 0, ena := true, thresh := 10737 }

/-- A port's counters, of 64 bits each, which saturate (R70, log 85), and link-layer sequence (R68), whether a partner is
attached and trained (R69). -/
structure Port where
  corrected : Nat
  uncorrected : Nat
  retrans : Nat
  trainings : Nat
  lost : Nat
  partner : Bool
  up : Bool
  rxSeq : Nat
  deriving DecidableEq, Repr

/-- A port at reset: its partner none, and its four counters 0, for which R70 states no reset value (log 3). -/
abbrev Port.init : Port :=
  { corrected := 0, uncorrected := 0, retrans := 0, trainings := 0, lost := 0, partner := false, up := false,
    rxSeq := 0 }

/-- A far arrival in transit (R296): the destination crew's key, the source crew's key and core, the barrier, the phase,
the sender die's clock, and the injection number by which it was posted (R64). -/
structure FarMsg where
  dst : Nat
  src : Nat
  core : Nat
  bar : Nat
  ph : Bool
  vc : VClock
  ser : Nat
  deriving DecidableEq, Repr

/-- The links of the package. -/
structure Links where
  /-- The boundaries in service (R15, R18): ring v, spoke v, edge e. -/
  ring : BitVec 8
  spoke : BitVec 8
  edge : BitVec 2
  /-- Torus packets and the next packet number (R54 to R57). -/
  packets : List Packet
  nextPacket : Nat
  /-- Messages and credits in transit (R58 to R61): a credit names the sending warp, its send register and the
  binding. -/
  msgs : List Msg
  credits : List (Nat × Nat × Nat)
  /-- Far arrivals in transit (R296). -/
  far : List FarMsg
  waves : SMap Wave
  ports : SMap Port
  /-- FABID, 64 bits (R67). -/
  fabId : Word
  /-- Route entries 0 to 127, 32 bits (R67). -/
  routes : SMap (BitVec 32)
  /-- Route changes whose old port has not drained: package to old port (R66). -/
  draining : SMap Nat
  /-- Accesses of other packages that have arrived and are not yet performed, oldest first: port, physical address and
  access (R65, R66); none at reset. -/
  inbound : List (Nat × Nat × InReq) := []
  /-- The last reply sent to another package, the model's own: port, value and poison (R65, log 1). -/
  reply : Option (Nat × Nat × Bool) := none
  deriving DecidableEq, Repr

/-! ## Power -/

/-- A cluster's power, clock and admission state (R350, R408, R353). -/
structure Cluster where
  /-- ALWCNT.CNT, signed pJ; 0 (R350), with the refill remainder in 1/16 pJ (R410). -/
  cnt : Int
  frac : Nat
  /-- What is left below 1/16 pJ of a refill at a rate that is scaled down, as a fraction (R410, R413). -/
  part : Nat × Nat := (0, 1)
  hi : Nat
  lo : Nat
  pfloor : Nat
  /-- CLGRANT (R408). -/
  rail : Nat
  pendRail : Option Nat
  gstate : BitVec 2
  miss : Nat
  step : Nat
  gstep : Nat
  cap : Nat
  rate : Nat
  /-- The refill rate in force, in 1/16 W, as the last boundary left it; 0 (R409, R410). -/
  rateNow : Nat
  wrote : Bool
  /-- s13: arithmetic clocks in tenths (R19, R418). -/
  cycles : Nat
  /-- Tenths of clocks that a supply droop has stretched away and the coming time does not count (R418). -/
  lost : Nat
  quiet : Bool
  pending : Bool
  /-- Tenths of arithmetic clocks for which none of its warps has occupied a holder (R353). -/
  idle : Nat := 0
  deriving DecidableEq, Repr

/-- A cluster at reset; RAIL is the cluster number mod 4 (R408). -/
abbrev Cluster.init (c : Nat) : Cluster :=
  { cnt := 0, frac := 0, hi := 0, lo := 0, pfloor := 0, rail := c % 4, pendRail := none, gstate := 0, miss := 0,
    step := 13, gstep := 13, cap := 0x0400, rate := 0, rateNow := 0, wrote := false, cycles := 0, lost := 0,
    quiet := false, pending := false }

/-- A pace group (R414). -/
structure Pace where
  stat : BitVec 2
  step : Nat
  stamp : Nat
  applied : Nat
  late : Bool
  deriving DecidableEq, Repr

/-- A pace group at reset. -/
abbrev Pace.init : Pace := { stat := 0, step := 13, stamp := 0, applied := 13, late := false }

/-- The power machinery of the package. -/
structure Power where
  clusters : List Cluster
  /-- RAILCTL.SMAX of rails A to D; 13 (R407). -/
  smax : List Nat
  /-- ARBCTL (R411). -/
  fslink : Nat
  eff : Nat
  limit : Nat
  fsrate : Nat
  fsstep : Nat
  tokenMode : Bool
  pendMode : Option Bool
  ovr : Bool
  ncrsv : Nat
  misses : Nat
  /-- The interval in progress runs at the fail-safe grant, and links are paced (R409 step 3). -/
  paced : Bool
  /-- Every cluster takes the fail-safe grant until the next boundary (R413). -/
  tokenFail : Bool
  /-- Changes of EFF due: boundaries to wait, signed watts (R411, R415). -/
  effDue : List (Nat × Int)
  /-- Power samples of the interval in progress: sum and number (R412). -/
  sampleSum : Nat
  sampleCnt : Nat
  /-- Token-ring units held by the dies, and units in the token sent to each die (R413). -/
  units : SMap Nat
  token : SMap Nat
  paces : SMap Pace
  /-- SITECTL (R415). -/
  group : Nat
  net : Int
  pendTok : Nat
  /-- Slew control (R352). -/
  win : Nat
  first : Nat
  slewN : Nat
  /-- A slew episode in progress: its start pointer and whether none has been admitted in it yet (R353). -/
  episode : Option (Nat × Bool)
  /-- The time of the last admission window used (R353). -/
  slewAt : Option Nat
  /-- The number of grant boundaries handled (R409). -/
  boundary : Nat
  /-- The monitor has found the interval in progress over EFF (R412). -/
  overEff : Bool
  /-- The time at which each die last received a token, and last passed one (R413). -/
  lastTok : SMap Nat
  lastPass : SMap Nat := []
  deriving DecidableEq, Repr

/-! ## Contexts -/

/-- A fault record (R387). -/
structure FaultRec where
  kind : Nat
  crew : Nat
  vcore : Nat
  warp : Nat
  eng : Nat
  cause : Nat
  addr : Word
  seq : Nat
  info : Word
  deriving DecidableEq, Repr

/-- A queued work item (R286): its 32 bytes, the slice-table entry of its tile address (R47, R337), the segment it was
appended to, its enqueue number, ticket, the phase from which it is deliverable, and the producer die's clock (R372). -/
structure Item where
  data : List Word
  tile : Nat
  seg : Nat
  num : Nat
  ticket : Nat
  phase : Nat
  vc : VClock
  deriving DecidableEq, Repr

/-- A work-item queue of a context (R285, R337, R338): items by cluster (tile) or die (ticket), next ticket numbers
by die, shadow copies waiting by cluster (R403). -/
structure Queue where
  /-- CLASS (R325): 0 unbound, 1 tile, 2 ticket. -/
  cls : Nat
  logcap : Nat
  closed : Bool
  everProd : Bool
  items : SMap (List Item)
  tickets : SMap Nat
  appended : Nat
  shadow : SMap (List Item)
  deriving DecidableEq, Repr

/-- A level of the launch record (R324). -/
structure Level where
  ext : Nat
  scope : Nat
  dom : Nat
  deriving DecidableEq, Repr

/-- A launch record's fields (R323 to R325). -/
structure Launch where
  entry : Nat
  pcrews : Nat
  role : Nat
  det : Bool
  ftz : Bool
  rm : BitVec 2
  pace : Nat
  ectr : Nat
  accs : Nat
  tbls : Nat
  fidx : Nat
  firn : Nat
  wpc : Nat
  regs : Nat
  spages : Nat
  sstk : Nat
  spbase : Nat
  levels : List Level
  /-- CLASS, LOGCAP and the area's base of queues 0 to 15 (R325). -/
  queues : List (Nat × Nat × Nat)
  deriving DecidableEq, Repr

/-- A ce ring (R280) and its timeline (R282), with a stalling fault (R283). -/
structure CeRing where
  base : Nat
  logn : Nat
  tail : BitVec 16
  head : BitVec 16
  stat : BitVec 2
  tl : Timeline
  fault : Option EngFault
  /-- The entry taken and not yet retired (R280), and how far its command has come: 0 not run, 1 its accesses made, 2 its
  completion word written. -/
  cmd : Option (List Word)
  phase : Nat
  /-- The flits of the command in progress that have been performed, those below this number (R282). -/
  pos : Nat := 0
  deriving DecidableEq, Repr

/-- A ce ring at reset. -/
abbrev CeRing.init : CeRing :=
  { base := 0, logn := 0, tail := 0, head := 0, stat := 0, tl := Timeline.init, fault := none, cmd := none, phase := 0 }

/-- A digest of an execution of a sampled item (R405). -/
structure Digest where
  qb : Nat
  num : Nat
  shadow : Bool
  crew : Nat
  hash : List Byte
  deriving DecidableEq, Repr

/-- A context: its control page (R422) and what the package holds for it. -/
structure Ctx where
  /-- RADDR of the launch register; 0 (R327). -/
  raddr : Nat
  /-- Launch status (R328). -/
  placed : Nat
  livec : Nat
  err : Nat
  state : Nat
  /-- Calving control (R389): SAVEDC, DONE, STAT, N. -/
  savedc : Nat
  done : Nat
  cstat : BitVec 2
  calveN : Nat
  /-- The resolve register as last written (R424). -/
  resolve : Word
  /-- CTXCFG (R422). -/
  fn : Nat
  prv : Bool
  clusters : BitVec 24
  /-- Page-table root, physical (R422). -/
  ptRoot : Nat
  recBase : Nat
  frBase : Nat
  head : Nat
  tail : Nat
  caBase : Nat
  /-- Shoot-down register (R423). -/
  shootVa : Nat
  shootLsz : Nat
  shootAll : Bool
  shootBusy : Bool
  /-- Doorbell words (R425). -/
  door0 : Word
  door1 : Word
  /-- The overflow counter, 64 bits, saturating; 0 (R84). -/
  ovf : Nat
  /-- The spill key, 256 bits (R263). -/
  spillKey : BitVec 256
  /-- CTXCTL (R318): BKE 1, HC 0, DET from the record. -/
  bke : Bool
  hc : Bool
  det : Bool
  trapen : BitVec 7
  /-- TVEC [55:12] (R317). -/
  tvec : Nat
  grace : Nat
  /-- Determinism block (R396). -/
  phase : Nat
  wbase : Nat
  smp : Bool
  tbase : Nat
  seed : Word
  refused : Nat
  mismatch : Nat
  lastref : Nat
  samples : Nat
  skipped : Nat
  /-- Region-table entries held for the phase (R401). -/
  detHeld : SMap (BitVec 32)
  /-- Energy counters, in pJ (R416). -/
  energy : SMap Nat
  rings : SMap CeRing
  /-- Fault records waiting for the ring, oldest first (R387), and records written and not yet resolved (R424). -/
  waiting : List FaultRec
  pendRecs : List FaultRec
  /-- The oldest waiting record found the ring full or unwritable: it is tried again when the fault-ring base or HEAD is
  written (R387). -/
  recHeld : Bool := false
  launch : Option Launch
  queues : SMap Queue
  /-- Cores withheld after a calving request (R390), cores being vacated, saved groups (crew ids) that wait for a return
  command, groups that may resume, and groups that found no core and wait for the next crew exit or return command
  (R392). -/
  withheld : List Nat
  vacating : List Nat
  groups : List (List Nat)
  returning : List (List Nat)
  noRoom : List (List Nat) := []
  /-- The time of the calving request in progress (R391). -/
  calveAt : Nat
  digests : List Digest
  deriving DecidableEq, Repr

/-- A context at reset: no launch, every register of its control page at its reset value (log 3 for those the spec
gives none). -/
abbrev Ctx.init : Ctx :=
  { raddr := 0, placed := 0, livec := 0, err := 0, state := 0, savedc := 0, done := 0, cstat := 0, calveN := 0,
    resolve := 0, fn := 0, prv := false, clusters := 0, ptRoot := 0, recBase := 0, frBase := 0, head := 0,
    tail := 0, caBase := 0, shootVa := 0, shootLsz := 0, shootAll := false, shootBusy := false, door0 := 0,
    door1 := 0, ovf := 0, spillKey := 0, bke := true, hc := false, det := false, trapen := 0, tvec := 0,
    grace := 50, phase := 0, wbase := 0, smp := false, tbase := 0, seed := 0, refused := 0, mismatch := 0,
    lastref := 0, samples := 0, skipped := 0, detHeld := [], energy := [], rings := [], waiting := [],
    pendRecs := [], launch := none, queues := [], withheld := [], vacating := [], groups := [], returning := [], calveAt := 0,
    digests := [] }

/-! ## The package -/

/-- An entry of the placement stream (R332): a launch packet with its record and cluster set, crew exits, saves and
resumptions, an accepted calve command (R390), width changes, and die-map writes (R14). -/
inductive PlaceEntry where
  | launch (ctx : Nat) (l : Launch) (clusters : BitVec 24)
  | calve (ctx n : Nat)
  | exit (ctx crew : Nat)
  | save (ctx crew : Nat)
  | resume (ctx crew : Nat)
  | width (core w : Nat)
  | dieMap (pending : Bool)
  deriving DecidableEq, Repr

/-- An SPDM response (R430): the request code it answers and its content. -/
structure SpdmResp where
  code : Nat
  body : List Byte
  deriving DecidableEq, Repr

/-- The global block, boot, ownership and attestation. -/
structure Glob where
  /-- Owner register (R426): OWNER, SUCC, HPEND, and the time at which HPEND was set. -/
  owner : BitVec 2
  succ : BitVec 2
  hpend : Bool
  hpendAt : Nat
  /-- Ready register, 49 bits used; 0 (R427). -/
  ready : Word
  /-- Die-map register (R13) and a pending write (R14). -/
  dmStat : BitVec 2
  refl : Bool
  rot : BitVec 2
  dmPend : Option (Bool × BitVec 2)
  /-- Boot status (R465). -/
  drop : Nat
  ddrCap : Nat
  pool : Bool
  img : Bool
  bootSt : BitVec 2
  /-- Fenced compute dies (R18, R429). -/
  fenced : BitVec 8
  /-- The size of BAR2 in GiB; 1 (R420). -/
  bar2 : Nat
  /-- MSI-X vectors raised, oldest first (R420), and the table words. -/
  irqs : List Nat
  msix : SMap Word
  /-- The pending bits of the vectors raised while their table entries masked them (R420, log 99). -/
  pba : SMap Bool := []
  /-- Determinism events delivered to firmware: a context and the refused address, or a context, queue, item number and
  the two crews (R402, R405). -/
  detEvents : List (List Nat)
  /-- SPDM: whether algorithms are negotiated, and the last response (R430). -/
  spdmReady : Bool
  spdmResp : Option SpdmResp
  /-- The data of the last BAR2 read, with its poison, the model's own (R420, log 1). -/
  bar2Last : Option (List Byte × Bool)
  /-- The last BAR2 access completed with Unsupported Request, the model's own (R419, R420, log 1). -/
  bar2Ur : Bool := false
  /-- The time at which the owner claimed a free package (R426); none where it came by a hand-over or owns none. -/
  claimAt : Option Nat := none
  /-- In recovery the owner has written a new firmware image (R428). -/
  newImage : Bool := false
  /-- The data of the last DMA read, the model's own (R35, log 1). -/
  dmaLast : Option (List Byte)
  deriving DecidableEq, Repr

/-- What happens outside any row of the table: time passes, and errors strike (R38, R76, R102, R243). -/
inductive Env where
  | tick (ns : Nat)
  | regUe (warp reg : Nat) (lanes : Mask)
  | scratchUe (core addr : Nat)
  | accUe (crew elem : Nat)
  | dirtyUe (line : Nat) (flits : BitVec 4)
  /-- A TLB entry is evicted (R46). -/
  | tlbEvict (core ctx va : Nat)
  /-- A die cache evicts a replica (R52). -/
  | replicaEvict (line die : Nat)
  /-- A wavelength's monitor photodiode gives a reading (R70). -/
  | photodiode (port dir wl : Nat) (v : BitVec 12)
  /-- A record-cache entry is evicted (R85). -/
  | recordEvict (core ctx handle : Nat)
  /-- A read of a channel returns flits of a line beyond correction (R37, R38). -/
  | chanUe (line : Nat) (flits : BitVec 4)
  /-- The host answers its next AtomicOp with error status (R272). -/
  | hostError
  /-- The evacuating channel of a set, or the evacuating slice, does not answer (R37, R51). -/
  | chanMute (set : Nat)
  | sliceMute
  /-- Budget tokens sent earlier are acknowledged, or come back whole (R415). -/
  | tokenAck (k : Nat)
  | tokenBack (k : Nat)
  /-- The static energy of a cluster is measured, in pJ (R417). -/
  | staticEnergy (cluster pj : Nat)
  /-- The append that a doorbell started is tried again (R425). -/
  | doorbell (ctx : Nat)
  /-- A correctable error in a core's register file, scratchpad or accumulators is corrected and counted (R76, R102,
  R243). -/
  | coreCorrected (core : Nat)
  /-- The agents of a context that need no operand act as far as they can: PHASE_ADVANCE, DIGEST_COMPARE of the oldest
  digest, CE_COMMAND and CE_FAULT of its rings (R281, R397, R405). -/
  | contextAgents (ctx : Nat)
  /-- The package's timers act where they are due: PACE_APPLY, TOKEN_TIMEOUT, HANDOVER_EXPIRE, and a sample of the power
  monitor (R412 to R414, R426). -/
  | timers (watts : Nat)
  /-- The management complex raises its vector (R420, log 99). -/
  | management
  deriving DecidableEq, Repr

/-- Who moves next: a warp issues its next instruction, an event of the table happens, or the environment acts. -/
inductive Turn where
  | warp (w : Nat)
  | event (i : Instr)
  | env (e : Env)
  deriving DecidableEq, Repr

/-- The state of the package. -/
structure State where
  /-- The turns to come, the model's own (log 1): empty at reset. -/
  turns : List Turn
  /-- The warp whose turn it is, the model's own (log 1). -/
  cur : Nat
  /-- s12, the time base in ns; 0 at reset (R19, R418; log 3). -/
  time : Nat
  /-- The next injection and acceptance number, the model's numbering (R66, R97). -/
  serial : Nat
  /-- The next free value, the model's own (log 6). -/
  free : Nat
  glob : Glob
  mem : Mem
  links : Links
  power : Power
  /-- Cores 0 to 191; unlisted cores are as `Core.init` (R10). -/
  cores : SMap Core
  /-- The scratchpads: key core × 2^22 + address (R71); unlisted bytes 0. -/
  scr : Memory
  /-- Poisoned 32-byte units of the scratchpads, key div 32 (R76). -/
  scrPois : SMap Bool
  /-- Page generations, 16 bits, key core × 1024 + page; 0 after reset (R77). -/
  gens : SMap (BitVec 16)
  /-- Unretired engine commands, key core × 8 + engine code, oldest first (R86, R239). -/
  queues : SMap (List Cmd)
  /-- Timelines, key (core × 64 + context) × 8 + engine code (R277). -/
  tls : SMap Timeline
  /-- Record caches, most recently used first (R85). -/
  recs : List CachedRec
  /-- Record fetches under way: core, context, handle (R85, R188). -/
  fetches : List (Nat × Nat × Nat)
  /-- Contexts 0 to 63 (R322); unlisted contexts are as `Ctx.init`. -/
  ctxs : SMap Ctx
  /-- Crews, key context × 2^16 + crew id (R321). -/
  crews : SMap Crew
  /-- Warps, key (context × 2^16 + crew id) × 16 + warp index (R321). -/
  warps : SMap Warp
  /-- The placement stream, entry 0 first, and the version of each die's replica (R332). -/
  stream : List PlaceEntry
  versions : SMap Nat
  deriving DecidableEq, Repr

/-- A step of this model never stops with a fault: every illegal, unmapped or privileged access raises the trap the
spec names (R379), which is a next state. The type is empty, so no step can answer with it. -/
inductive Fault where
  deriving DecidableEq, Repr

/-- The ways an instruction could be refused. -/
inductive Refusal where
  /-- Raised by an arm of `exec` whose meaning is not written. Safe: nothing is claimed of the instruction. -/
  | notModelled (mnemonic : String)
  deriving DecidableEq, Repr

/-- The outcome type of a step. -/
abbrev Res := Host.Outcome State Fault Refusal


/-- The MSI-X table at reset: every vector is masked, as PCI Express has it (log 99). -/
abbrev msixReset : SMap Word := (List.range 129).map fun v => (2 * v + 1, 0x1_0000_0000)

/-- The global block at reset (R13, R420, R426, R427, R465). -/
abbrev Glob.reset : Glob :=
  { owner := 0, succ := 0, hpend := false, hpendAt := 0, ready := 0, dmStat := 0, refl := false, rot := 0,
    dmPend := none, drop := 0, ddrCap := 0, pool := false, img := false, bootSt := 0, fenced := 0, bar2 := 1,
    irqs := [], msix := msixReset, detEvents := [], spdmReady := false, spdmResp := none, bar2Last := none,
    dmaLast := none }

/-- The slice control at reset (R47, R49). -/
abbrev SliceCtl.reset : SliceCtl :=
  { rrptr := 63, evsl := 0, stat := 0, drops := 0, evpos := 0, gone := [], table := [], moving := [], mute := false }

/-- The memory system at reset: nothing listed (R25, R31, R47, R365). -/
abbrev Mem.reset : Mem :=
  { regions := [], sets := [], chan := [], chanPois := [], chanErr := [], lines := [],
    slices := SliceCtl.reset, replicas := [], collapses := [], stamps := [], clocks := [], stages := [],
    lastTo := [], tlb := [], dieTlb := [], fabric := [], fabricPois := [], hostMem := [], hostErr := false }

/-- The links at reset: no boundary is authenticated before the boot (R18), no port is up (R69). -/
abbrev Links.reset : Links :=
  { ring := 0, spoke := 0, edge := 0, packets := [], nextPacket := 0, msgs := [], credits := [], far := [],
    waves := [], ports := [], fabId := 0, routes := [], draining := [] }

/-- The power machinery at reset (R352, R407, R408, R411, R414, R415). -/
abbrev Power.reset : Power :=
  { clusters := (List.range 24).map Cluster.init, smax := [13, 13, 13, 13], fslink := 3, eff := 3600,
    limit := 144, fsrate := 160, fsstep := 4, tokenMode := false, pendMode := none, ovr := false, ncrsv := 64,
    misses := 0, paced := false, tokenFail := false, effDue := [], sampleSum := 0, sampleCnt := 0, units := [],
    token := [], paces := [], group := 0, net := 0, pendTok := 0, win := 25, first := 23, slewN := 4,
    episode := none, slewAt := none, boundary := 0, overEff := false, lastTok := [] }

/-- The package right after reset. Nothing runs: the boot has not happened, no context has a launch. -/
abbrev State.reset : State :=
  { turns := [], cur := 0, time := 0, serial := 0, free := 0, glob := Glob.reset, mem := Mem.reset, links := Links.reset,
    power := Power.reset, cores := [], scr := [], scrPois := [], gens := [], queues := [], tls := [], recs := [],
    fetches := [], ctxs := [], crews := [], warps := [], stream := [], versions := [] }

end Sys2Proof.Machine
end

