-- ==== Sys2Proof/Machine/Assoc.lean ====
section
/-! DEFINITION. The operations on sparse maps and on byte memories in canonical form: keys strictly rising, and no
entry equal to the default where the map has one. -/

namespace Sys2Proof.Machine

open Sys2Proof

/-- The value listed for a key. -/
def look? {α : Type} (m : SMap α) (k : Nat) : Option α :=
  match m with
  | [] => none
  | (j, v) :: m => if j = k then some v else look? m k

/-- The value of a key, the default where unlisted. -/
def look {α : Type} (m : SMap α) (k : Nat) (d : α) : α := (look? m k).getD d

/-- Lists a value for a key, keeping the keys strictly rising. -/
def put {α : Type} (m : SMap α) (k : Nat) (v : α) : SMap α :=
  match m with
  | [] => [(k, v)]
  | (j, u) :: m =>
    if k < j then (k, v) :: (j, u) :: m
    else if k = j then (k, v) :: m
    else (j, u) :: put m k v

/-- Removes a key. -/
def del {α : Type} (m : SMap α) (k : Nat) : SMap α := m.filter fun e => e.1 != k

/-- Sets a key's value in a map with default `d`: the default itself is not listed. -/
def putD {α : Type} [DecidableEq α] (m : SMap α) (k : Nat) (d v : α) : SMap α :=
  if v = d then del m k else put m k v

/-- Sets the keys of a list to values computed from the keys. -/
def putAll {α : Type} [DecidableEq α] (m : SMap α) (ks : List Nat) (d : α) (f : Nat → α) : SMap α :=
  ks.foldl (fun m k => putD m k d (f k)) m

/-- The keys strictly rise. -/
def keysRise {α : Type} (m : SMap α) : Bool :=
  match m with
  | [] => true
  | [_] => true
  | (j, _) :: (k, v) :: m => decide (j < k) && keysRise ((k, v) :: m)

/-- The keys of a map. -/
def keysOf {α : Type} (m : SMap α) : List Nat := m.map (·.1)

/-! ## Byte memories -/

/-- One byte; an unlisted byte reads 0 (log 4). -/
def rdByte (m : Memory) (a : Nat) : Byte := look m a 0

/-- Writes one byte. -/
def wrByte (m : Memory) (a : Nat) (b : Byte) : Memory := putD m a 0 b

/-- The canonical form: addresses strictly rising, no listed zero. -/
def Memory.wf (m : Memory) : Bool := keysRise m && m.all fun e => e.2 != 0

/-- n bytes from an address, lowest first. -/
def rdBytes (m : Memory) (a n : Nat) : List Byte := (List.range n).map fun i => rdByte m (a + i)

/-- Writes bytes upward from an address. -/
def wrBytes (m : Memory) (a : Nat) (bs : List Byte) : Memory :=
  match bs with
  | [] => m
  | b :: bs => wrBytes (wrByte m a b) (a + 1) bs

/-- The little-endian value of bytes (R2). -/
def leNat (bs : List Byte) : Nat :=
  match bs with
  | [] => 0
  | b :: bs => b.toNat + 256 * leNat bs

/-- The n low bytes of a value, little-endian (R2). -/
def leBytes (n v : Nat) : List Byte :=
  match n with
  | 0 => []
  | n + 1 => BitVec.ofNat 8 v :: leBytes n (v / 256)

/-! ## Lists by index -/

/-- Replaces the element of an index. -/
def setAt {α : Type} (l : List α) (i : Nat) (v : α) : List α :=
  match l, i with
  | [], _ => []
  | _ :: l, 0 => v :: l
  | x :: l, i + 1 => x :: setAt l i v

/-- Changes the element of an index. -/
def modAt {α : Type} (l : List α) (i : Nat) (f : α → α) : List α :=
  match l, i with
  | [], _ => []
  | x :: l, 0 => f x :: l
  | x :: l, i + 1 => x :: modAt l i f

/-- The first element with a property. -/
def firstOf {α : Type} (p : α → Bool) (l : List α) : Option α :=
  match l with
  | [] => none
  | x :: l => if p x then some x else firstOf p l

/-- The first value a function gives on a list. -/
def firstSome {α β : Type} (f : α → Option β) (l : List α) : Option β :=
  match l with
  | [] => none
  | x :: l =>
    match f x with
    | some b => some b
    | none => firstSome f l

/-- Inserts by a key, after the elements of equal key. -/
def insertBy {α : Type} (le : α → α → Bool) (x : α) (l : List α) : List α :=
  match l with
  | [] => [x]
  | y :: l => if le y x then y :: insertBy le x l else x :: y :: l

/-- Sorts by a key, keeping the order of equal keys. -/
def sortBy {α : Type} (le : α → α → Bool) (l : List α) : List α := l.foldl (fun acc x => insertBy le x acc) []

/-- Removes repeated elements, keeping the first of each. -/
def dedup {α : Type} [BEq α] (l : List α) : List α :=
  l.foldl (fun acc x => if acc.contains x then acc else acc ++ [x]) []

end Sys2Proof.Machine
end

