-- ==== Sys2Proof/Machine/Keccak.lean ====
section
/-! DEFINITION. SHAKE256, which the queue engines, the digests of sampled items and the spill tags use (R263, R403,
R405). The function itself is that of FIPS 202, to which the spec refers by name (log 7). -/

namespace Sys2Proof.Machine

open Sys2Proof

/-- The 24 round constants of Keccak-f[1600]. -/
def keccakRounds : List (BitVec 64) :=
  [0x0000000000000001, 0x0000000000008082, 0x800000000000808A, 0x8000000080008000,
   0x000000000000808B, 0x0000000080000001, 0x8000000080008081, 0x8000000000008009,
   0x000000000000008A, 0x0000000000000088, 0x0000000080008009, 0x000000008000000A] ++
  [0x000000008000808B, 0x800000000000008B, 0x8000000000008089, 0x8000000000008003,
   0x8000000000008002, 0x8000000000000080, 0x000000000000800A, 0x800000008000000A,
   0x8000000080008081, 0x8000000000008080, 0x0000000080000001, 0x8000000080008008]

/-- Rotation offsets by x + 5y. -/
def keccakRot : List Nat :=
  [0, 1, 62, 28, 27, 36, 44, 6, 55, 20, 3, 10, 43, 25, 39] ++ [41, 45, 15, 21, 8, 18, 2, 61, 56, 14]

/-- Lane x, y of the state. -/
def kLane (a : List (BitVec 64)) (x y : Nat) : BitVec 64 := a.getD (x % 5 + 5 * (y % 5)) 0

/-- One round. -/
def keccakRound (a : List (BitVec 64)) (rc : BitVec 64) : List (BitVec 64) :=
  let c := (List.range 5).map fun x =>
    kLane a x 0 ^^^ kLane a x 1 ^^^ kLane a x 2 ^^^ kLane a x 3 ^^^ kLane a x 4
  let d := (List.range 5).map fun x => c.getD ((x + 4) % 5) 0 ^^^ (c.getD ((x + 1) % 5) 0).rotateLeft 1
  let t := (List.range 25).map fun i => (a.getD i 0 ^^^ d.getD (i % 5) 0).rotateLeft (keccakRot.getD i 0)
  -- the lane at (y, 2x + 3y) of the next step is the rotated lane at (x, y)
  let b := (List.range 25).map fun i =>
    let y := i % 5
    let z := i / 5
    t.getD ((z + 5 * 5 - 3 * y) * 3 % 5 + 5 * y) 0
  let e := (List.range 25).map fun i =>
    let x := i % 5
    let y := i / 5
    kLane b x y ^^^ (~~~(kLane b (x + 1) y) &&& kLane b (x + 2) y)
  match e with
  | [] => []
  | h :: r => (h ^^^ rc) :: r

/-- The permutation. -/
def keccakF (a : List (BitVec 64)) : List (BitVec 64) := keccakRounds.foldl keccakRound a

/-- XORs a block of 136 bytes into the state. -/
def absorbBlock (a : List (BitVec 64)) (bs : List Byte) : List (BitVec 64) :=
  (List.range 25).map fun i =>
    if i < 17 then a.getD i 0 ^^^ BitVec.ofNat 64 (leNat ((bs.drop (8 * i)).take 8)) else a.getD i 0

/-- Absorbs n whole blocks. -/
def absorb (n : Nat) (a : List (BitVec 64)) (bs : List Byte) : List (BitVec 64) :=
  match n with
  | 0 => a
  | n + 1 => absorb n (keccakF (absorbBlock a bs)) (bs.drop 136)

/-- The padded message of SHAKE256: 1111, then the pad, to a whole number of 136-byte blocks. -/
def shakePad (m : List Byte) : List Byte :=
  let k := 136 - m.length % 136
  if k = 1 then m ++ [0x9F] else m ++ [0x1F] ++ List.replicate (k - 2) 0 ++ [0x80]

/-- The first n bytes of SHAKE256 of a message, n at most 136. -/
def shake256 (m : List Byte) (n : Nat) : List Byte :=
  let p := shakePad m
  let a := absorb (p.length / 136) (List.replicate 25 0) p
  ((a.take 17).flatMap fun w => leBytes 8 w.toNat).take n

end Sys2Proof.Machine
end

