-- ==== Sys2Proof/WellFormed.lean ====
section
/-! DEFINITION. Which instruction terms have an encoding: the limits of the opcode map that the constructors'
argument types do not already say (R103, R139 to R142, R157, R159, R169, R177, R192, R212, R223 to R234, R267,
R268). An event has no word, so no event is well formed in this sense. -/

namespace Sys2Proof

/-- R103: a direct group is aligned to its size; operand-file and last-result operands are single. -/
def Opnd.fits (o : Opnd) (w : Width) : Bool :=
  match o with
  | .v n => n.val % w.regs == 0
  | .o _ => w == .w1
  | .l0 => w == .w1
  | .l1 => w == .w1
  | .x _ => true
  | .c _ => true

/-- R103 for a destination. -/
def Dst.fits (d : Dst) (w : Width) : Bool :=
  match d with
  | .v n => n.val % w.regs == 0
  | .o _ => w == .w1
  | .x _ => true

/-- The address register of R169: v0 to v31, or at single width an operand-file or last-result register. -/
def Opnd.addrOk (o : Opnd) (single : Bool) : Bool :=
  match o with
  | .v _ => true
  | .o _ => single
  | .l0 => single
  | .l1 => single
  | .x _ => false
  | .c _ => false

/-- A source that is not a constant. -/
def Opnd.notConst (o : Opnd) : Bool :=
  match o with
  | .c _ => false
  | _ => true

def AluOp.wf (f : AluOp) : Bool := f.d.fits f.w && f.a.fits f.w && f.b.fits f.w

def AluUn.wf (f : AluUn) : Bool := f.d.fits f.w && f.a.fits f.w

def ShImm.wf (f : ShImm) : Bool := f.d.fits f.w && f.a.fits f.w

/-- BFX, BFXS and BFI have no 8-bit form (R192). -/
def AluOp.wfField (f : AluOp) : Bool := f.wf && !(f.t == .s8 || f.t == .n8)

/-- R212, first row. -/
def FltTy.arith (t : FltTy) : Bool := t == .h || t == .bf || t == .f || t == .d

/-- R212, FSUB and the transcendentals. -/
def FltTy.lane (t : FltTy) : Bool := t == .h || t == .bf || t == .f

/-- R212, minimum, sign and compare rows. -/
def FltTy.notD (t : FltTy) : Bool := !(t == .d)

def FltOp.wf (f : FltOp) : Bool := f.d.fits f.w && f.a.fits f.w && f.b.fits f.w

def FltUn.wf (f : FltUn) : Bool := f.d.fits f.w && f.a.fits f.w

/-- R232: float types take add, min and max on h, bf and f only. -/
def RedOp.wf (f : RedOp) : Bool :=
  f.d.fits f.w && f.a.fits f.w &&
    match f.t with
    | .int _ => true
    | .flt t => t.lane && (f.op == .add || f.op == .min || f.op == .max)

/-- R169: with a group, the type is s64 or n64. -/
def groupTy (w : Width) (t : IntTy) : Bool := w == .w1 || t == .s64 || t == .n64

def LoadOp.wf (f : LoadOp) : Bool := f.d.fits f.w && f.a.addrOk (f.w == .w1) && groupTy f.w f.t

def StoreOp.wf (f : StoreOp) : Bool := f.d.fits f.w && f.a.addrOk (f.w == .w1) && groupTy f.w f.t

/-- R268: cas names an even direct pair. -/
def AtomX.dstOk (op : AtomX) (d : Dst) : Bool :=
  match op with
  | .cas32 => (match d with | .v n => n.val % 2 == 0 | _ => false)
  | .cas64 => (match d with | .v n => n.val % 2 == 0 | _ => false)
  | _ => true

def AtomS.dstOk (op : AtomS) (d : Dst) : Bool :=
  match op with
  | .g _ _ => true
  | .x op => op.dstOk d

/-- R177: the scope stands only with CW, MMAN and the second octet only with CHAIN, and never ST with CHAIN. -/
def CopyOp.wf (f : CopyOp) (stOk : Bool) : Bool :=
  (f.cw || f.scope == .warp) && (f.chain || (!f.mman && f.c2 == 0)) && !(f.st && f.chain) && (stOk || !f.st)

/-- The instruction has an encoding (R158). -/
def Instr.wf : Instr → Bool
  | .iadd f => f.wf
  | .isub f => f.wf
  | .iadds f => f.wf
  | .isubs f => f.wf
  | .iaddi _ => true
  | .imul f => f.wf
  | .imulh f => f.wf
  | .imad f => f.wf
  | .imin f => f.wf
  | .imax f => f.wf
  | .iabs f => f.wf
  | .ineg f => f.wf
  | .and f => f.wf
  | .or f => f.wf
  | .xor f => f.wf
  | .andn f => f.wf
  | .andi _ => true
  | .ori _ => true
  | .xori _ => true
  | .shl f => f.wf
  | .shr f => f.wf
  | .sra f => f.wf
  | .rot f => f.wf
  | .shli f => f.wf
  | .shri f => f.wf
  | .srai f => f.wf
  | .roti f => f.wf
  | .popc f => f.wf
  | .clz f => f.wf
  | .ctz f => f.wf
  | .brev f => f.wf
  | .bfx f => f.wfField
  | .bfxs f => f.wfField
  | .bfi f => f.wfField
  | .lea f => f.wf
  | .iseteq f => f.wf
  | .isetne f => f.wf
  | .isetlt f => f.wf
  | .isetle f => f.wf
  | .isetgt f => f.wf
  | .isetge f => f.wf
  | .itest f => f.wf
  | .sel f => f.wf
  | .mov f => f.wf
  | .movi _ => true
  | .rds _ _ => true
  | .wrs _ _ => true
  | .mov16 f => f.t || !(f.s == 0 && f.d == 0)
  | .zeroHalfword => true
  | .iadd16 _ => true
  | .isub16 _ => true
  | .and16 _ => true
  | .or16 _ => true
  | .xor16 _ => true
  | .shli16 _ => true
  | .shri16 _ => true
  | .movi16 _ => true
  | .iaddi16 _ => true
  | .fadd16 _ => true
  | .fmul16 _ => true
  | .fsub16 _ => true
  | .imul16 _ => true
  | .lds16 _ _ => true
  | .sts16 _ _ => true
  | .bra _ => true
  | .brc _ _ _ => true
  | .brx _ _ _ => true
  | .brk _ _ => true
  | .pj _ => true
  | .call _ => true
  | .join => true
  | .jmpr _ => true
  | .exit => true
  | .callr _ => true
  | .mskrd _ _ => true
  | .mskwr _ => true
  | .mskand _ => true
  | .fadd f => f.wf && f.t.arith
  | .fsub f => f.wf && f.t.lane
  | .fmul f => f.wf && f.t.arith
  | .ffma f => f.wf && f.t.arith
  | .fmin f => f.wf && f.t.notD
  | .fmax f => f.wf && f.t.notD
  | .fabs f => f.wf && f.t.notD
  | .fneg f => f.wf && f.t.notD
  | .frcp f => f.wf && f.t.lane
  | .frsq f => f.wf && f.t.lane
  | .fsqrt f => f.wf && f.t.lane
  | .fexp2 f => f.wf && f.t.lane
  | .flog2 f => f.wf && f.t.lane
  | .fsin f => f.wf && f.t.lane
  | .fcos f => f.wf && f.t.lane
  | .frnd f => f.wf && f.t.lane
  | .fseteq f => f.wf && f.t.notD
  | .fsetne f => f.wf && f.t.notD
  | .fsetlt f => f.wf && f.t.notD
  | .fsetle f => f.wf && f.t.notD
  | .fsetgt f => f.wf && f.t.notD
  | .fsetge f => f.wf && f.t.notD
  | .fsetun f => f.wf && f.t.notD
  | .fclass f => f.wf && f.t.notD
  | .cvt f => f.d.fits f.w && f.a.fits f.w
  | .sepk f => f.a.notConst
  | .seunpk f => f.a.notConst
  | .f8pk _ => true
  | .f8unpk _ => true
  | .shfl f => f.wf
  | .shflx f => f.wf
  | .shflu f => f.wf
  | .shfld f => f.wf
  | .vany f => f.wf
  | .vall f => f.wf
  | .vuni f => f.wf
  | .ballot f => f.wf
  | .scan f => f.wf
  | .scanx f => f.wf
  | .red f => f.wf
  | .segred _ => true
  | .cmprs f => f.wf
  | .expnd f => f.wf
  | .matchv f => f.wf
  | .ldg f => f.wf
  | .stg f => f.wf
  | .lds f => f.wf && !(f.ord == .bypass)
  | .sts f => f.wf && !(f.ord == .bypass)
  | .cstg f => f.wf
  | .csts f => f.wf && !(f.ord == .bypass)
  | .atomg f => f.a.addrOk true && !(f.ord == .bypass)
  | .atomx f => f.a.addrOk true && !(f.ord == .bypass) && f.op.dstOk f.d
  | .atoms f => f.a.addrOk true && !(f.ord == .bypass) && f.op.dstOk f.d
  | .fence _ _ => true
  | .tlwait _ _ => true
  | .tlrd _ _ _ => true
  | .deq _ _ _ => true
  | .enq _ _ _ _ => true
  | .qtry _ _ _ => true
  | .qbind _ => true
  | .barinit _ => true
  | .bararv _ _ _ => true
  | .barwait _ _ _ => true
  | .bararvw _ _ => true
  | .cpy f => f.wf true
  | .cpyt f => f.wf true
  | .cpyp f => f.wf true
  | .cpyg f => f.wf false
  | .cpyr f => f.wf false
  | .cpye f => f.wf false
  | .pfch _ _ scope cw => cw || scope == .warp
  | .recld _ => true
  | .recinv _ => true
  | .recq _ _ => true
  | .mma _ => true
  | .mman _ => true
  | .accz _ => true
  | .accrd _ _ _ => true
  | .accwr _ => true
  | .wbld _ => true
  | .wbq _ _ => true
  | .tbuild _ => true
  | .tlook _ => true
  | .tfin _ _ => true
  | .tchk _ _ => true
  | .tspill _ => true
  | .tfill _ => true
  | .tinv _ => true
  | .tfence => true
  | .flgrd _ _ => true
  | .flgwr _ _ => true
  | .prio _ => true
  | .regrs _ _ => true
  | .yield => true
  | .sleep _ => true
  | .csrr _ _ => true
  | .csrw _ _ => true
  | .nop => true
  | .trap _ => true
  | .bkpt => true
  | .phase => true
  | .limm _ => true
  | .trl _ _ _ => true
  | .runStart _ _ => false
  | .blockedRunResume _ => false
  | .slotReturn _ _ => false
  | .trapDeliver _ => false
  | .faultRecordWrite _ => false
  | .faultRingHeadWrite _ _ _ => false
  | .priorityPromote _ => false
  | .warpEnd _ => false
  | .sleepExpire _ => false
  | .recordFetch _ _ _ => false
  | .pageWalk _ _ _ => false
  | .copyRetire _ _ => false
  | .chainStart _ _ => false
  | .engineFaultPending _ _ => false
  | .mxRetire _ => false
  | .lkRetire _ => false
  | .messageArrive _ => false
  | .creditReturn _ => false
  | .remoteHalfAccess _ _ _ => false
  | .farArrival _ => false
  | .queueItemDeliver _ _ => false
  | .queueOrphan _ _ => false
  | .sliceAccess _ => false
  | .replicaInvalidate _ _ => false
  | .collapseComplete _ => false
  | .sliceWriteApply _ _ => false
  | .channelAccess _ _ => false
  | .torusHop _ => false
  | .holdingBufferRelease _ _ => false
  | .fabricAccess _ => false
  | .opticalFlitReceive _ _ => false
  | .wavelengthRetire _ _ _ _ => false
  | .wavelengthTrainDone _ _ _ _ => false
  | .wavelengthEnableWrite _ _ _ _ _ => false
  | .routePortWrite _ _ _ => false
  | .dieMapWrite _ _ => false
  | .dieMapApply => false
  | .setEvacuate _ _ _ => false
  | .setFail _ _ _ => false
  | .moraineGranuleBegin _ => false
  | .moraineGranuleComplete _ => false
  | .sliceEvacuate _ _ => false
  | .sliceEntryMove => false
  | .bankRetire _ _ => false
  | .columnSteerRewrite _ => false
  | .shootdown _ _ _ => false
  | .shootdownComplete _ => false
  | .launchWrite _ _ _ => false
  | .launchRecordRead _ => false
  | .placementEntryApply _ => false
  | .calveCommand _ _ _ => false
  | .returnCommand _ _ => false
  | .graceExpire _ => false
  | .calveSaveDone _ => false
  | .groupResume _ _ => false
  | .qlaneWrite _ _ _ _ => false
  | .qrowsWrite _ _ _ _ => false
  | .steeringRewriteDone _ _ => false
  | .laneSelfCheckFail _ _ => false
  | .coreOutOfService _ => false
  | .regrsGrant _ _ => false
  | .regrsDeny _ _ => false
  | .clusterQuiesce _ => false
  | .slewAdmit => false
  | .grantBoundary => false
  | .powerMonitorSample _ => false
  | .tokenPass _ => false
  | .tokenTimeout _ => false
  | .paceWrite _ _ _ => false
  | .paceApply _ => false
  | .budgetTokenSend _ _ => false
  | .budgetTokenReceive _ _ => false
  | .supplyDroop _ _ => false
  | .phaseAdvance _ => false
  | .digestCompare _ _ => false
  | .ceTailWrite _ _ _ _ => false
  | .ceCommand _ _ => false
  | .ceFault _ _ => false
  | .doorbell _ _ _ => false
  | .resolveRetryWarp _ _ _ => false
  | .resolveEndCrew _ _ _ => false
  | .resolveRetryEngine _ _ _ => false
  | .resolveAbandon _ _ _ => false
  | .resolveClearP _ _ _ => false
  | .hostBar2Access _ _ => false
  | .ownerClaim _ => false
  | .ownerNameSuccessor _ _ => false
  | .ownerRelease _ => false
  | .handoverExpire => false
  | .boot _ => false
  | .spdmGetVersion => false
  | .spdmGetCapabilities => false
  | .spdmNegotiateAlgorithms _ _ => false
  | .spdmGetDigests => false
  | .spdmGetCertificate _ => false
  | .spdmChallenge _ => false
  | .spdmGetMeasurements _ => false
  | .memoryScrub _ _ _ => false
  | .registerWrite _ _ _ => false
  | .hostDmaTransfer _ _ _ => false
  | .opticalPartnerAttach _ _ => false
  | .hostLinkTraining _ => false

end Sys2Proof
end

