-- ==== Sys2Proof/Decode.lean ====
section
/-! DEFINITION. Instruction words: the codes of R140 to R143, the fields of R138, the decoder (total on any
halfwords; every encoding of R158 that is not an instruction is refused) and the encoder, both written from the
opcode map of R156 and R157. -/

namespace Sys2Proof

/-! ## Field codes -/

/-- Bits [lo+n-1:lo] of a word. -/
def fld (w lo n : Nat) : Nat := w / 2 ^ lo % 2 ^ n

/-- The operand code of a source (R140). -/
def Opnd.code (o : Opnd) : Nat :=
  match o with
  | .v n => n.val
  | .o n => 0x20 + n.val
  | .l0 => 0x28
  | .l1 => 0x29
  | .x k => 0x2C + k.val
  | .c k => 0x30 + k.val

/-- The source that a six-bit operand code names (R140). -/
def Opnd.ofCode (c : Nat) : Option Opnd :=
  if h : c < 0x20 then some (.v ⟨c, h⟩)
  else if h : c - 0x20 < 6 then some (.o ⟨c - 0x20, h⟩)
  else if c = 0x28 then some .l0
  else if c = 0x29 then some .l1
  else if c < 0x2C then none
  else if h : c - 0x2C < 4 then some (.x ⟨c - 0x2C, h⟩)
  else if h : c - 0x30 < 16 then some (.c ⟨c - 0x30, h⟩)
  else none

/-- The operand code of a destination (R140). -/
def Dst.code (d : Dst) : Nat :=
  match d with
  | .v n => n.val
  | .o n => 0x20 + n.val
  | .x k => 0x2C + k.val

/-- The destination that a six-bit operand code names (R140): no last-result register and no constant. -/
def Dst.ofCode (c : Nat) : Option Dst :=
  if h : c < 0x20 then some (.v ⟨c, h⟩)
  else if h : c - 0x20 < 6 then some (.o ⟨c - 0x20, h⟩)
  else if c < 0x2C then none
  else if h : c - 0x2C < 4 then some (.x ⟨c - 0x2C, h⟩)
  else none


/-- The W field (R103). -/
def Width.code (x : Width) : Nat :=
  match x with
  | .w1 => 0
  | .w2 => 1
  | .w4 => 2
  | .w8 => 3

/-- The W field (R103). -/
def Width.ofCode (c : Nat) : Option Width :=
  match c with
  | 0 => some .w1
  | 1 => some .w2
  | 2 => some .w4
  | 3 => some .w8
  | _ => Option.none

/-- The integer type codes (R115). -/
def IntTy.code (x : IntTy) : Nat :=
  match x with
  | .s8 => 0
  | .n8 => 1
  | .s16 => 2
  | .n16 => 3
  | .s32 => 4
  | .n32 => 5
  | .s64 => 6
  | .n64 => 7

/-- The integer type codes (R115). -/
def IntTy.ofCode (c : Nat) : Option IntTy :=
  match c with
  | 0 => some .s8
  | 1 => some .n8
  | 2 => some .s16
  | 3 => some .n16
  | 4 => some .s32
  | 5 => some .n32
  | 6 => some .s64
  | 7 => some .n64
  | _ => Option.none

/-- The float type codes (R117). -/
def FltTy.code (x : FltTy) : Nat :=
  match x with
  | .h => 0
  | .bf => 1
  | .f => 2
  | .e4 => 3
  | .e5 => 4
  | .d => 5

/-- The float type codes (R117). -/
def FltTy.ofCode (c : Nat) : Option FltTy :=
  match c with
  | 0 => some .h
  | 1 => some .bf
  | 2 => some .f
  | 3 => some .e4
  | 4 => some .e5
  | 5 => some .d
  | _ => Option.none

/-- The rounding modes (R120). -/
def RMode.code (x : RMode) : Nat :=
  match x with
  | .rne => 0
  | .rz => 1
  | .rd => 2
  | .ru => 3

/-- The rounding modes (R120). -/
def RMode.ofCode (c : Nat) : Option RMode :=
  match c with
  | 0 => some .rne
  | 1 => some .rz
  | 2 => some .rd
  | 3 => some .ru
  | _ => Option.none

/-- The order codes (R142). -/
def Order.code (x : Order) : Nat :=
  match x with
  | .relaxed => 0
  | .acqRel => 1
  | .sc => 2
  | .bypass => 3

/-- The order codes (R142). -/
def Order.ofCode (c : Nat) : Option Order :=
  match c with
  | 0 => some .relaxed
  | 1 => some .acqRel
  | 2 => some .sc
  | 3 => some .bypass
  | _ => Option.none

/-- The fence kinds by order code (R142). -/
def FenceKind.code (x : FenceKind) : Nat :=
  match x with
  | .acq => 0
  | .rel => 1
  | .acqrel => 2
  | .sc => 3

/-- The fence kinds by order code (R142). -/
def FenceKind.ofCode (c : Nat) : Option FenceKind :=
  match c with
  | 0 => some .acq
  | 1 => some .rel
  | 2 => some .acqrel
  | 3 => some .sc
  | _ => Option.none

/-- The scope codes (R143). -/
def Scope.code (x : Scope) : Nat :=
  match x with
  | .warp => 0
  | .crew => 1
  | .cluster => 2
  | .die => 3
  | .pair => 4
  | .package => 5
  | .fabric => 6
  | .host => 7

/-- The scope codes (R143). -/
def Scope.ofCode (c : Nat) : Option Scope :=
  match c with
  | 0 => some .warp
  | 1 => some .crew
  | 2 => some .cluster
  | 3 => some .die
  | 4 => some .pair
  | 5 => some .package
  | 6 => some .fabric
  | 7 => some .host
  | _ => Option.none

/-- The engine codes (R159). -/
def Eng.code (x : Eng) : Nat :=
  match x with
  | .cq0 => 0
  | .cq1 => 1
  | .cq2 => 2
  | .cq3 => 3
  | .mx => 4
  | .lk => 5
  | .ce => 6

/-- The engine codes (R159). -/
def Eng.ofCode (c : Nat) : Option Eng :=
  match c with
  | 0 => some .cq0
  | 1 => some .cq1
  | 2 => some .cq2
  | 3 => some .cq3
  | 4 => some .mx
  | 5 => some .lk
  | 6 => some .ce
  | _ => Option.none

/-- The reduction operators (R232). -/
def RedK.code (x : RedK) : Nat :=
  match x with
  | .add => 0
  | .min => 1
  | .max => 2
  | .and => 3
  | .or => 4
  | .xor => 5

/-- The reduction operators (R232). -/
def RedK.ofCode (c : Nat) : Option RedK :=
  match c with
  | 0 => some .add
  | 1 => some .min
  | 2 => some .max
  | 3 => some .and
  | 4 => some .or
  | 5 => some .xor
  | _ => Option.none

/-- The ATOMG operations (R157). -/
def AtomG.code (x : AtomG) : Nat :=
  match x with
  | .add => 0
  | .mins => 1
  | .minn => 2
  | .maxs => 3
  | .maxn => 4
  | .and => 5
  | .or => 6
  | .xor => 7

/-- The ATOMG operations (R157). -/
def AtomG.ofCode (c : Nat) : Option AtomG :=
  match c with
  | 0 => some .add
  | 1 => some .mins
  | 2 => some .minn
  | 3 => some .maxs
  | 4 => some .maxn
  | 5 => some .and
  | 6 => some .or
  | 7 => some .xor
  | _ => Option.none

/-- The ATOMX operations (R157). -/
def AtomX.code (x : AtomX) : Nat :=
  match x with
  | .xchg32 => 0
  | .xchg64 => 1
  | .cas32 => 2
  | .cas64 => 3
  | .faddf => 4
  | .fminf => 5
  | .incw32 => 6

/-- The ATOMX operations (R157). -/
def AtomX.ofCode (c : Nat) : Option AtomX :=
  match c with
  | 0 => some .xchg32
  | 1 => some .xchg64
  | 2 => some .cas32
  | 3 => some .cas64
  | 4 => some .faddf
  | 5 => some .fminf
  | 6 => some .incw32
  | _ => Option.none

/-- The BRC conditions (R301). -/
def BrCond.code (x : BrCond) : Nat :=
  match x with
  | .any => 0
  | .all => 1
  | .none => 2
  | .nall => 3

/-- The BRC conditions (R301). -/
def BrCond.ofCode (c : Nat) : Option BrCond :=
  match c with
  | 0 => some .any
  | 1 => some .all
  | 2 => some .none
  | 3 => some .nall
  | _ => Option.none

/-- The MSKRD selectors, from code 0x38 (R308). -/
def MskSel.code (x : MskSel) : Nat :=
  match x with
  | .exec => 0
  | .live => 1
  | .top => 2
  | .depth => 3

/-- The MSKRD selectors, from code 0x38 (R308). -/
def MskSel.ofCode (c : Nat) : Option MskSel :=
  match c with
  | 0 => some .exec
  | 1 => some .live
  | 2 => some .top
  | 3 => some .depth
  | _ => Option.none

/-- The SE members, from code 0x38 (R226). -/
def SeFmt.code (x : SeFmt) : Nat :=
  match x with
  | .se3 => 0
  | .se5 => 1
  | .se8 => 2

/-- The SE members, from code 0x38 (R226). -/
def SeFmt.ofCode (c : Nat) : Option SeFmt :=
  match c with
  | 0 => some .se3
  | 1 => some .se5
  | 2 => some .se8
  | _ => Option.none

/-- The SEGRED types (R234). -/
def SegTy.code (x : SegTy) : Nat :=
  match x with
  | .s32 => 4
  | .n32 => 5
  | .s64 => 6
  | .n64 => 7
  | .f => 2

/-- The SEGRED types (R234). -/
def SegTy.ofCode (c : Nat) : Option SegTy :=
  match c with
  | 2 => some .f
  | 4 => some .s32
  | 5 => some .n32
  | 6 => some .s64
  | 7 => some .n64
  | _ => none

/-- The CSR numbers (R317). -/
def Csr.code (x : Csr) : Nat :=
  match x with
  | .ctxctl => 0
  | .trapen => 1
  | .tvec => 2
  | .grace => 3
  | .wstat => 4
  | .escr k => 0x10 + k.val

/-- The CSR that a number names; the others are illegal (R316). -/
def Csr.ofCode (c : Nat) : Option Csr :=
  match c with
  | 0 => some .ctxctl
  | 1 => some .trapen
  | 2 => some .tvec
  | 3 => some .grace
  | 4 => some .wstat
  | _ => if h : c - 0x10 < 4 then (if 0x10 ≤ c then some (.escr ⟨c - 0x10, h⟩) else none) else none

/-- The format codes 0x00 to 0x0D of R81 that CVT reads in B [3:0] (R221). -/
def NumTy.code (x : NumTy) : Nat :=
  match x with
  | .int t => t.code
  | .flt t => 8 + t.code

/-- CVT's source type (R221); codes 0x0E and 0x0F are illegal. -/
def NumTy.ofCode (c : Nat) : Option NumTy :=
  if c < 8 then (IntTy.ofCode c).map .int else (FltTy.ofCode (c - 8)).map .flt

/-- A type code read as an integer or a float type. -/
def NumTy.read (flt : Bool) (c : Nat) : Option NumTy :=
  if flt then (FltTy.ofCode c).map .flt else (IntTy.ofCode c).map .int

/-- The type field of a CVT destination or of a reduction. -/
def NumTy.ty (x : NumTy) : Nat :=
  match x with
  | .int t => t.code
  | .flt t => t.code

/-- Whether a type is a float type. -/
def NumTy.isFlt (x : NumTy) : Bool :=
  match x with
  | .int _ => false
  | .flt _ => true

/-- An octet base (R159): code 0x00, 0x08, 0x10 or 0x18. -/
def octet (c : Nat) : Option (Fin 4) :=
  match c with
  | 0x00 => some 0
  | 0x08 => some 1
  | 0x10 => some 2
  | 0x18 => some 3
  | _ => none

/-- A flag bit. -/
def bit (b : Bool) : Nat := if b then 1 else 0

/-- A bounded number read from a field. -/
def finOf (n c : Nat) : Option (Fin n) := if h : c < n then some ⟨c, h⟩ else none

/-- A field that must hold one value. -/
def need (b : Bool) {α : Type} (x : Option α) : Option α := if b then x else none

/-! ## The word formats (R138) -/

/-- T format: B, A, D, W, fn, type, major. -/
def wT (maj fn t w d a b : Nat) : Nat :=
  1 + 2 * maj + 2 ^ 7 * t + 2 ^ 10 * fn + 2 ^ 12 * w + 2 ^ 14 * d + 2 ^ 20 * a + 2 ^ 26 * b

/-- I format: imm10, A, D, type, major. -/
def wI (maj t d a imm : Nat) : Nat := 1 + 2 * maj + 2 ^ 7 * t + 2 ^ 10 * d + 2 ^ 16 * a + 2 ^ 22 * imm

/-- B format: offset22, kind 0, major. -/
def wB (maj off : Nat) : Nat := 1 + 2 * maj + 2 ^ 10 * off

/-- C format: offset16, A, condition, major. -/
def wC (maj cond a off : Nat) : Nat := 1 + 2 * maj + 2 ^ 7 * cond + 2 ^ 10 * a + 2 ^ 16 * off

/-- M format: imm3, scope, A, D, W, order, size or op, major. -/
def wM (maj t ord w d a scope imm : Nat) : Nat :=
  1 + 2 * maj + 2 ^ 7 * t + 2 ^ 10 * ord + 2 ^ 12 * w + 2 ^ 14 * d + 2 ^ 20 * a + 2 ^ 26 * scope + 2 ^ 29 * imm

/-- E format: flags, scope, C2, C, fn, engine or queue, major. -/
def wE (maj fn eng c c2 scope flags : Nat) : Nat :=
  1 + 2 * maj + 2 ^ 7 * eng + 2 ^ 10 * fn + 2 ^ 12 * c + 2 ^ 18 * c2 + 2 ^ 24 * scope + 2 ^ 27 * flags

/-- S format: sub or imm14, D or A, selector, major. -/
def wS (maj sel d sub : Nat) : Nat := 1 + 2 * maj + 2 ^ 7 * sel + 2 ^ 12 * d + 2 ^ 18 * sub

/-- K format: imm25, major. -/
def wK (maj imm : Nat) : Nat := 1 + 2 * maj + 2 ^ 7 * imm

/-- The trailer (R309). -/
def wTrl (mask s y : Nat) : Nat := 0x7F + 2 ^ 7 * mask + 2 ^ 13 * s + 2 ^ 14 * y

/-- A 16-bit form (R146). -/
def wH (op d s t : Nat) : Nat := 2 * op + 2 ^ 5 * d + 2 ^ 10 * s + 2 ^ 15 * t

/-! ## Decoding by shape -/

/-- Two-source T format with an integer type. -/
def decAlu (mk : AluOp → Instr) (w : Nat) : Option Instr := do
  let d ← Dst.ofCode (fld w 14 6)
  let a ← Opnd.ofCode (fld w 20 6)
  let b ← Opnd.ofCode (fld w 26 6)
  let wd ← Width.ofCode (fld w 12 2)
  let t ← IntTy.ofCode (fld w 7 3)
  some (mk ⟨d, a, b, wd, t⟩)

/-- One-source T format with an integer type: B must be 0x00. -/
def decAluUn (mk : AluUn → Instr) (w : Nat) : Option Instr := do
  let d ← Dst.ofCode (fld w 14 6)
  let a ← Opnd.ofCode (fld w 20 6)
  let wd ← Width.ofCode (fld w 12 2)
  let t ← IntTy.ofCode (fld w 7 3)
  need (fld w 26 6 == 0) (some (mk ⟨d, a, wd, t⟩))

/-- I format. -/
def decImm (mk : AluImm → Instr) (w : Nat) : Option Instr := do
  let d ← Dst.ofCode (fld w 10 6)
  let a ← Opnd.ofCode (fld w 16 6)
  let t ← IntTy.ofCode (fld w 7 3)
  some (mk ⟨d, a, BitVec.ofNat 10 (fld w 22 10), t⟩)

/-- MOVI: A must be 0x00. -/
def decMovi (w : Nat) : Option Instr := do
  let d ← Dst.ofCode (fld w 10 6)
  let t ← IntTy.ofCode (fld w 7 3)
  need (fld w 16 6 == 0) (some (.movi ⟨d, BitVec.ofNat 10 (fld w 22 10), t⟩))

/-- Immediate shifts: B is the amount. -/
def decSh (mk : ShImm → Instr) (w : Nat) : Option Instr := do
  let d ← Dst.ofCode (fld w 14 6)
  let a ← Opnd.ofCode (fld w 20 6)
  let wd ← Width.ofCode (fld w 12 2)
  let t ← IntTy.ofCode (fld w 7 3)
  some (mk ⟨d, a, BitVec.ofNat 6 (fld w 26 6), wd, t⟩)

/-- Two-source T format with a float type. -/
def decFlt (mk : FltOp → Instr) (w : Nat) : Option Instr := do
  let d ← Dst.ofCode (fld w 14 6)
  let a ← Opnd.ofCode (fld w 20 6)
  let b ← Opnd.ofCode (fld w 26 6)
  let wd ← Width.ofCode (fld w 12 2)
  let t ← FltTy.ofCode (fld w 7 3)
  some (mk ⟨d, a, b, wd, t⟩)

/-- One-source T format with a float type: B must be 0x00. -/
def decFltUn (mk : FltUn → Instr) (w : Nat) : Option Instr := do
  let d ← Dst.ofCode (fld w 14 6)
  let a ← Opnd.ofCode (fld w 20 6)
  let wd ← Width.ofCode (fld w 12 2)
  let t ← FltTy.ofCode (fld w 7 3)
  need (fld w 26 6 == 0) (some (mk ⟨d, a, wd, t⟩))

/-- CVT (R221). -/
def decCvt (w : Nat) : Option Instr := do
  let d ← Dst.ofCode (fld w 14 6)
  let a ← Opnd.ofCode (fld w 20 6)
  let wd ← Width.ofCode (fld w 12 2)
  let rm ← RMode.ofCode (fld w 10 2)
  let src ← NumTy.ofCode (fld w 26 4)
  let dst ← NumTy.read (fld w 30 1 == 1) (fld w 7 3)
  some (.cvt ⟨d, a, wd, rm, fld w 31 1 == 1, src, dst⟩)

/-- SEPK and SEUNPK: type se, W 0b00, B from 0x38 (R226, R227). -/
def decSe (mk : SeOp → Instr) (w : Nat) : Option Instr := do
  let d ← Dst.ofCode (fld w 14 6)
  let a ← Opnd.ofCode (fld w 20 6)
  let m ← SeFmt.ofCode (fld w 26 6 - 0x38)
  need (fld w 7 3 == 6 && fld w 12 2 == 0 && decide (0x38 ≤ fld w 26 6)) (some (mk ⟨d, a, m⟩))

/-- F8PK: type e4 or e5, W 0b00 (R223). -/
def decF8Pk (w : Nat) : Option Instr := do
  let d ← Dst.ofCode (fld w 14 6)
  let a ← Opnd.ofCode (fld w 20 6)
  let b ← Opnd.ofCode (fld w 26 6)
  need ((fld w 7 3 == 3 || fld w 7 3 == 4) && fld w 12 2 == 0) (some (.f8pk ⟨d, a, b, fld w 7 3 == 4⟩))

/-- F8UNPK: type e4 or e5, W 0b00, B 0x38 or 0x39 (R224). -/
def decF8Unpk (w : Nat) : Option Instr := do
  let d ← Dst.ofCode (fld w 14 6)
  let a ← Opnd.ofCode (fld w 20 6)
  need ((fld w 7 3 == 3 || fld w 7 3 == 4) && fld w 12 2 == 0 && (fld w 26 6 == 0x38 || fld w 26 6 == 0x39))
    (some (.f8unpk ⟨d, a, fld w 26 6 == 0x39, fld w 7 3 == 4⟩))

/-- SCAN, SCANX and RED: B holds the operator and F (R232). -/
def decRed (mk : RedOp → Instr) (w : Nat) : Option Instr := do
  let d ← Dst.ofCode (fld w 14 6)
  let a ← Opnd.ofCode (fld w 20 6)
  let wd ← Width.ofCode (fld w 12 2)
  let op ← RedK.ofCode (fld w 26 3)
  let t ← NumTy.read (fld w 29 1 == 1) (fld w 7 3)
  need (fld w 30 2 == 0) (some (mk ⟨d, a, wd, op, t⟩))

/-- SEGRED (R234). -/
def decSeg (w : Nat) : Option Instr := do
  let d ← Dst.ofCode (fld w 14 6)
  let a ← Opnd.ofCode (fld w 20 6)
  let b ← Opnd.ofCode (fld w 26 6)
  let t ← SegTy.ofCode (fld w 7 3)
  need (fld w 12 2 == 0) (some (.segred ⟨d, a, b, t⟩))

/-- A lane load (R168). -/
def decLoad (mk : LoadOp → Instr) (w : Nat) : Option Instr := do
  let d ← Dst.ofCode (fld w 14 6)
  let a ← Opnd.ofCode (fld w 20 6)
  let imm ← finOf 8 (fld w 29 3)
  let wd ← Width.ofCode (fld w 12 2)
  let t ← IntTy.ofCode (fld w 7 3)
  let ord ← Order.ofCode (fld w 10 2)
  let sc ← Scope.ofCode (fld w 26 3)
  some (mk ⟨d, a, imm, wd, t, ord, sc⟩)

/-- A lane or compress store (R168, R174). -/
def decStore (mk : StoreOp → Instr) (w : Nat) : Option Instr := do
  let d ← Opnd.ofCode (fld w 14 6)
  let a ← Opnd.ofCode (fld w 20 6)
  let imm ← finOf 8 (fld w 29 3)
  let wd ← Width.ofCode (fld w 12 2)
  let t ← IntTy.ofCode (fld w 7 3)
  let ord ← Order.ofCode (fld w 10 2)
  let sc ← Scope.ofCode (fld w 26 3)
  some (mk ⟨d, a, imm, wd, t, ord, sc⟩)

/-- ATOMG (R267): W 0b00 or 0b01. -/
def decAtomG (w : Nat) : Option Instr := do
  let d ← Dst.ofCode (fld w 14 6)
  let a ← Opnd.ofCode (fld w 20 6)
  let imm ← finOf 8 (fld w 29 3)
  let op ← AtomG.ofCode (fld w 7 3)
  let ord ← Order.ofCode (fld w 10 2)
  let sc ← Scope.ofCode (fld w 26 3)
  need (decide (fld w 12 2 < 2)) (some (.atomg ⟨d, a, imm, fld w 12 2 == 1, op, ord, sc⟩))

/-- ATOMX (R267): W 0b00. -/
def decAtomX (w : Nat) : Option Instr := do
  let d ← Dst.ofCode (fld w 14 6)
  let a ← Opnd.ofCode (fld w 20 6)
  let imm ← finOf 8 (fld w 29 3)
  let op ← AtomX.ofCode (fld w 7 3)
  let ord ← Order.ofCode (fld w 10 2)
  let sc ← Scope.ofCode (fld w 26 3)
  need (fld w 12 2 == 0) (some (.atomx ⟨d, a, imm, op, ord, sc⟩))

/-- The operation of an ATOMS by W and op (R157, R267). -/
def AtomS.ofCode (w t : Nat) : Option AtomS :=
  match w with
  | 0 => (AtomG.ofCode t).map (.g false)
  | 1 => (AtomG.ofCode t).map (.g true)
  | 2 => (AtomX.ofCode t).map .x
  | _ => none

/-- The W field of an ATOMS. -/
def AtomS.w (op : AtomS) : Nat :=
  match op with
  | .g wide _ => bit wide
  | .x _ => 2

/-- The op field of an ATOMS. -/
def AtomS.op (op : AtomS) : Nat :=
  match op with
  | .g _ op => op.code
  | .x op => op.code

/-- ATOMS (R267). -/
def decAtomS (w : Nat) : Option Instr := do
  let d ← Dst.ofCode (fld w 14 6)
  let a ← Opnd.ofCode (fld w 20 6)
  let imm ← finOf 8 (fld w 29 3)
  let op ← AtomS.ofCode (fld w 12 2) (fld w 7 3)
  let ord ← Order.ofCode (fld w 10 2)
  let sc ← Scope.ofCode (fld w 26 3)
  some (.atoms ⟨d, a, imm, op, ord, sc⟩)

/-- FENCE: [9:7], W, D, A and imm3 zero (R274). -/
def decFence (w : Nat) : Option Instr := do
  let k ← FenceKind.ofCode (fld w 10 2)
  let sc ← Scope.ofCode (fld w 26 3)
  need (fld w 7 3 == 0 && fld w 12 14 == 0 && fld w 29 3 == 0) (some (.fence k sc))

/-- A 16-bit form. -/
def decShort (mk : Short → Instr) (h : Nat) : Option Instr := do
  let s ← finOf 32 (fld h 10 5)
  let d ← finOf 32 (fld h 5 5)
  some (mk ⟨fld h 15 1 == 1, s, d⟩)

/-- A 16-bit LDS or STS: t must be 0 (R146). -/
def decShortSp (mk : Fin 32 → Fin 32 → Instr) (h : Nat) : Option Instr := do
  let s ← finOf 32 (fld h 10 5)
  let d ← finOf 32 (fld h 5 5)
  need (fld h 15 1 == 0) (some (mk s d))

/-- B format: kind 0b000. -/
def decB (mk : BitVec 22 → Instr) (w : Nat) : Option Instr :=
  need (fld w 7 3 == 0) (some (mk (BitVec.ofNat 22 (fld w 10 22))))

/-- An untyped T-format word: type 0b000 and W 0b00 (R139). -/
def plainT (w : Nat) : Bool := fld w 7 3 == 0 && fld w 12 2 == 0

/-- An E-format command of one block: [9:7], scope, C2 and every flag zero (R159, R238). -/
def decBlk (mk : Fin 4 → Instr) (w : Nat) : Option Instr := do
  let c ← octet (fld w 12 6)
  need (fld w 7 3 == 0 && fld w 18 14 == 0) (some (mk c))

/-- An E-format command of one block with a destination in C2: [9:7], scope and every flag zero. -/
def decBlkD (mk : Dst → Fin 4 → Instr) (w : Nat) : Option Instr := do
  let c ← octet (fld w 12 6)
  let d ← Dst.ofCode (fld w 18 6)
  need (fld w 7 3 == 0 && fld w 24 8 == 0) (some (mk d c))

/-- A copy command (R177); bit 31 must be zero. -/
def decCopy (mk : CopyOp → Instr) (w : Nat) : Option Instr := do
  let q ← finOf 4 (fld w 7 3)
  let c ← octet (fld w 12 6)
  let c2 ← octet (fld w 18 6)
  let sc ← Scope.ofCode (fld w 24 3)
  need (fld w 31 1 == 0)
    (some (mk ⟨q, c, c2, sc, fld w 27 1 == 1, fld w 28 1 == 1, fld w 29 1 == 1, fld w 30 1 == 1⟩))

/-- PFCH (R177): no chain, no direction, C2 0x00. -/
def decPfch (w : Nat) : Option Instr := do
  let q ← finOf 4 (fld w 7 3)
  let c ← octet (fld w 12 6)
  let sc ← Scope.ofCode (fld w 24 3)
  need (fld w 18 6 == 0 && fld w 27 1 == 0 && fld w 29 3 == 0) (some (.pfch q c sc (fld w 28 1 == 1)))


/-- Majors 0x01 to 0x11: lane instructions (R194 to R204). -/
def decLane (maj w : Nat) : Option Instr :=
  match maj with
  | 0x01 =>
    match fld w 10 2 with
    | 0 => decAlu .iadd w
    | 1 => decAlu .isub w
    | 2 => decAlu .iadds w
    | _ => decAlu .isubs w
  | 0x02 => decImm .iaddi w
  | 0x03 =>
    match fld w 10 2 with
    | 0 => decAlu .imul w
    | 1 => decAlu .imulh w
    | 2 => decAlu .imad w
    | _ => none
  | 0x04 =>
    match fld w 10 2 with
    | 0 => decAlu .imin w
    | 1 => decAlu .imax w
    | 2 => decAluUn .iabs w
    | _ => decAluUn .ineg w
  | 0x05 =>
    match fld w 10 2 with
    | 0 => decAlu .and w
    | 1 => decAlu .or w
    | 2 => decAlu .xor w
    | _ => decAlu .andn w
  | 0x06 => decImm .andi w
  | 0x07 => decImm .ori w
  | 0x08 => decImm .xori w
  | 0x09 =>
    match fld w 10 2 with
    | 0 => decAlu .shl w
    | 1 => decAlu .shr w
    | 2 => decAlu .sra w
    | _ => decAlu .rot w
  | 0x0A =>
    match fld w 10 2 with
    | 0 => decSh .shli w
    | 1 => decSh .shri w
    | 2 => decSh .srai w
    | _ => decSh .roti w
  | 0x0B =>
    match fld w 10 2 with
    | 0 => decAluUn .popc w
    | 1 => decAluUn .clz w
    | 2 => decAluUn .ctz w
    | _ => decAluUn .brev w
  | 0x0C =>
    match fld w 10 2 with
    | 0 => decAlu .bfx w
    | 1 => decAlu .bfxs w
    | 2 => decAlu .bfi w
    | _ => decAlu .lea w
  | 0x0D =>
    match fld w 10 2 with
    | 0 => decAlu .iseteq w
    | 1 => decAlu .isetne w
    | 2 => decAlu .isetlt w
    | _ => decAlu .isetle w
  | 0x0E =>
    match fld w 10 2 with
    | 0 => decAlu .isetgt w
    | 1 => decAlu .isetge w
    | 2 => decAlu .itest w
    | _ => none
  | 0x0F =>
    match fld w 10 2 with
    | 0 => decAlu .sel w
    | 1 => decAluUn .mov w
    | 2 => none
    | _ => none
  | 0x10 => decMovi w
  | 0x11 => do
    let sp ← finOf 32 (fld w 7 5)
    match fld w 18 14 with
    | 0 => (Dst.ofCode (fld w 12 6)).map (.rds · sp)
    | 1 => (Opnd.ofCode (fld w 12 6)).map (.wrs · sp)
    | _ => none
  | _ => Option.none

/-- Majors 0x12 to 0x19: control transfers and masks (R300, R305, R308). -/
def decCtl (maj w : Nat) : Option Instr :=
  match maj with
  | 0x12 => decB .bra w
  | 0x13 => do
    let a ← Opnd.ofCode (fld w 10 6)
    let c ← BrCond.ofCode (fld w 7 3)
    some (.brc (BitVec.ofNat 16 (fld w 16 16)) a c)
  | 0x14 => do
    let a ← Opnd.ofCode (fld w 10 6)
    need (decide (fld w 7 3 < 2)) (some (.brx (BitVec.ofNat 16 (fld w 16 16)) a (fld w 7 3 == 1)))
  | 0x15 => do
    let a ← Opnd.ofCode (fld w 10 6)
    need (decide (fld w 7 3 < 2) && fld w 16 16 == 0) (some (.brk a (fld w 7 3 == 1)))
  | 0x16 => decB .pj w
  | 0x17 => decB .call w
  | 0x18 =>
    match fld w 10 2 with
    | 0 => need (plainT w && fld w 14 18 == 0) (some .join)
    | 1 => need (plainT w && fld w 14 6 == 0 && fld w 26 6 == 0) ((Opnd.ofCode (fld w 20 6)).map .jmpr)
    | 2 => need (plainT w && fld w 14 18 == 0) (some .exit)
    | _ => need (plainT w && fld w 14 6 == 0 && fld w 26 6 == 0) ((Opnd.ofCode (fld w 20 6)).map .callr)
  | 0x19 =>
    match fld w 10 2 with
    | 0 => do
      let d ← Dst.ofCode (fld w 14 6)
      let m ← MskSel.ofCode (fld w 26 6 - 0x38)
      need (plainT w && fld w 20 6 == 0 && decide (0x38 ≤ fld w 26 6)) (some (.mskrd d m))
    | 1 => need (plainT w && fld w 14 6 == 0 && fld w 26 6 == 0) ((Opnd.ofCode (fld w 20 6)).map .mskwr)
    | 2 => need (plainT w && fld w 14 6 == 0 && fld w 26 6 == 0) ((Opnd.ofCode (fld w 20 6)).map .mskand)
    | _ => none
  | _ => Option.none

/-- Majors 0x1A to 0x21: float instructions (R211 to R227). -/
def decFloat (maj w : Nat) : Option Instr :=
  match maj with
  | 0x1A =>
    match fld w 10 2 with
    | 0 => decFlt .fadd w
    | 1 => decFlt .fsub w
    | 2 => decFlt .fmul w
    | _ => decFlt .ffma w
  | 0x1B =>
    match fld w 10 2 with
    | 0 => decFlt .fmin w
    | 1 => decFlt .fmax w
    | 2 => decFltUn .fabs w
    | _ => decFltUn .fneg w
  | 0x1C =>
    match fld w 10 2 with
    | 0 => decFltUn .frcp w
    | 1 => decFltUn .frsq w
    | 2 => decFltUn .fsqrt w
    | _ => decFltUn .fexp2 w
  | 0x1D =>
    match fld w 10 2 with
    | 0 => decFltUn .flog2 w
    | 1 => decFltUn .fsin w
    | 2 => decFltUn .fcos w
    | _ => decFltUn .frnd w
  | 0x1E =>
    match fld w 10 2 with
    | 0 => decFlt .fseteq w
    | 1 => decFlt .fsetne w
    | 2 => decFlt .fsetlt w
    | _ => decFlt .fsetle w
  | 0x1F =>
    match fld w 10 2 with
    | 0 => decFlt .fsetgt w
    | 1 => decFlt .fsetge w
    | 2 => decFlt .fsetun w
    | _ => decFltUn .fclass w
  | 0x20 => decCvt w
  | 0x21 =>
    match fld w 10 2 with
    | 0 => decSe .sepk w
    | 1 => decSe .seunpk w
    | 2 => decF8Pk w
    | _ => decF8Unpk w
  | _ => Option.none

/-- Majors 0x22 to 0x2F: cross-lane, memory, atomics and FENCE (R228 to R235, R168, R174, R267, R274). -/
def decMem (maj w : Nat) : Option Instr :=
  match maj with
  | 0x22 =>
    match fld w 10 2 with
    | 0 => decAlu .shfl w
    | 1 => decAlu .shflx w
    | 2 => decAlu .shflu w
    | _ => decAlu .shfld w
  | 0x23 =>
    match fld w 10 2 with
    | 0 => decAluUn .vany w
    | 1 => decAluUn .vall w
    | 2 => decAluUn .vuni w
    | _ => decAluUn .ballot w
  | 0x24 =>
    match fld w 10 2 with
    | 0 => decRed .scan w
    | 1 => decRed .scanx w
    | 2 => decRed .red w
    | _ => decSeg w
  | 0x25 =>
    match fld w 10 2 with
    | 0 => decAlu .cmprs w
    | 1 => decAlu .expnd w
    | 2 => decAluUn .matchv w
    | _ => none
  | 0x26 => decLoad .ldg w
  | 0x27 => decStore .stg w
  | 0x28 => decLoad .lds w
  | 0x29 => decStore .sts w
  | 0x2A => decStore .cstg w
  | 0x2B => decStore .csts w
  | 0x2C => decAtomG w
  | 0x2D => decAtomX w
  | 0x2E => decAtomS w
  | 0x2F => decFence w
  | _ => Option.none

/-- Majors 0x30 to 0x39: engine commands (R276, R285, R293, R177, R187, R238). -/
def decEng (maj w : Nat) : Option Instr :=
  match maj with
  | 0x30 =>
    match fld w 10 2 with
    | 0 => do
      let e ← Eng.ofCode (fld w 7 3)
      let n ← Opnd.ofCode (fld w 18 6)
      need (fld w 12 6 == 0 && fld w 24 8 == 0) (some (.tlwait e n))
    | 1 => do
      let e ← Eng.ofCode (fld w 7 3)
      let d ← Dst.ofCode (fld w 18 6)
      need (fld w 12 6 == 0 && fld w 24 5 == 0 && fld w 30 2 == 0) (some (.tlrd e d (fld w 29 1 == 1)))
    | 2 => none
    | _ => none
  | 0x31 =>
    match fld w 10 2 with
    | 0 => do
      let d ← Dst.ofCode (fld w 18 6)
      let c ← octet (fld w 12 6)
      let sc ← Scope.ofCode (fld w 24 3)
      need (fld w 7 3 == 0 && fld w 27 5 == 0) (some (.deq d c sc))
    | 1 => do
      let d ← Dst.ofCode (fld w 18 6)
      let c ← octet (fld w 12 6)
      let sc ← Scope.ofCode (fld w 24 3)
      need (fld w 7 3 == 0 && fld w 27 2 == 0 && fld w 30 2 == 0) (some (.enq d c sc (fld w 29 1 == 1)))
    | 2 => do
      let d ← Dst.ofCode (fld w 18 6)
      let c ← octet (fld w 12 6)
      let sc ← Scope.ofCode (fld w 24 3)
      need (fld w 7 3 == 0 && fld w 27 5 == 0) (some (.qtry d c sc))
    | _ => decBlk .qbind w
  | 0x32 =>
    match fld w 10 2 with
    | 0 => decBlk .barinit w
    | 1 => do
      let d ← Dst.ofCode (fld w 18 6)
      let c ← octet (fld w 12 6)
      let sc ← Scope.ofCode (fld w 24 3)
      need (fld w 7 3 == 0 && fld w 27 5 == 0) (some (.bararv d c sc))
    | 2 => do
      let n ← Opnd.ofCode (fld w 18 6)
      let c ← octet (fld w 12 6)
      let sc ← Scope.ofCode (fld w 24 3)
      need (fld w 7 3 == 0 && fld w 27 5 == 0) (some (.barwait n c sc))
    | _ => do
      let c ← octet (fld w 12 6)
      let sc ← Scope.ofCode (fld w 24 3)
      need (fld w 7 3 == 0 && fld w 18 6 == 0 && fld w 27 5 == 0) (some (.bararvw c sc))
  | 0x33 =>
    match fld w 10 2 with
    | 0 => decCopy .cpy w
    | 1 => decCopy .cpyt w
    | 2 => decCopy .cpyp w
    | _ => decCopy .cpyg w
  | 0x34 =>
    match fld w 10 2 with
    | 0 => decCopy .cpyr w
    | 1 => decCopy .cpye w
    | 2 => decPfch w
    | _ => none
  | 0x35 =>
    match fld w 10 2 with
    | 0 => decBlk .recld w
    | 1 => decBlk .recinv w
    | 2 => decBlkD .recq w
    | _ => none
  | 0x36 =>
    match fld w 10 2 with
    | 0 => decBlk .mma w
    | 1 => decBlk .mman w
    | 2 => decBlk .accz w
    | _ => none
  | 0x37 =>
    match fld w 10 2 with
    | 0 => do
      let c ← octet (fld w 12 6)
      let d ← Dst.ofCode (fld w 18 6)
      need (fld w 7 3 == 0 && fld w 24 5 == 0 && fld w 30 2 == 0) (some (.accrd d c (fld w 29 1 == 1)))
    | 1 => decBlk .accwr w
    | 2 => decBlk .wbld w
    | _ => decBlkD .wbq w
  | 0x38 =>
    match fld w 10 2 with
    | 0 => decBlk .tbuild w
    | 1 => decBlk .tlook w
    | 2 => do
      let c ← octet (fld w 12 6)
      need (fld w 7 3 == 0 && fld w 18 11 == 0 && fld w 30 2 == 0) (some (.tfin c (fld w 29 1 == 1)))
    | _ => decBlkD .tchk w
  | 0x39 =>
    match fld w 10 2 with
    | 0 => decBlk .tspill w
    | 1 => decBlk .tfill w
    | 2 => decBlk .tinv w
    | _ => none
  | _ => Option.none

/-- Majors 0x3A to 0x3F: system instructions, LIMM and TRL (R309 to R319). -/
def decSys (maj w : Nat) : Option Instr :=
  match maj with
  | 0x3A =>
    match fld w 10 2 with
    | 0 => need (plainT w && fld w 14 18 == 0) (some .tfence)
    | 1 => do
      let d ← Dst.ofCode (fld w 14 6)
      let b ← Opnd.ofCode (fld w 26 6)
      need (plainT w && fld w 20 6 == 0) (some (.flgrd d b))
    | 2 => do
      let a ← Opnd.ofCode (fld w 20 6)
      let b ← Opnd.ofCode (fld w 26 6)
      need (plainT w && fld w 14 6 == 0) (some (.flgwr a b))
    | _ => none
  | 0x3B =>
    match fld w 10 2 with
    | 0 => need (plainT w && fld w 14 6 == 0 && fld w 26 6 == 0) ((Opnd.ofCode (fld w 20 6)).map .prio)
    | 1 => do
      let d ← Dst.ofCode (fld w 14 6)
      let a ← Opnd.ofCode (fld w 20 6)
      need (plainT w && fld w 26 6 == 0) (some (.regrs d a))
    | 2 => need (plainT w && fld w 14 18 == 0) (some .yield)
    | _ => need (plainT w && fld w 14 6 == 0 && fld w 26 6 == 0) ((Opnd.ofCode (fld w 20 6)).map .sleep)
  | 0x3C => do
    let r ← Csr.ofCode (fld w 18 14)
    match fld w 7 5 with
    | 0 => (Dst.ofCode (fld w 12 6)).map (.csrr · r)
    | 1 => (Opnd.ofCode (fld w 12 6)).map (.csrw r ·)
    | _ => none
  | 0x3D =>
    match fld w 10 2 with
    | 0 => need (plainT w && fld w 14 18 == 0) (some .nop)
    | 1 => need (plainT w && fld w 14 12 == 0) (some (.trap (BitVec.ofNat 6 (fld w 26 6))))
    | 2 => need (plainT w && fld w 14 18 == 0) (some .bkpt)
    | _ => need (plainT w && fld w 14 18 == 0) (some .phase)
  | 0x3E => some (.limm (BitVec.ofNat 25 (fld w 7 25)))
  | 0x3F => need (fld w 15 17 == 0) (some (.trl (BitVec.ofNat 6 (fld w 7 6)) (fld w 13 1 == 1) (fld w 14 1 == 1)))
  | _ => Option.none

/-- A 32-bit word before the checks of `Instr.wf`; major 0x00 is illegal (R158). -/
def decode32 (w : Nat) : Option Instr :=
  let maj := fld w 1 6
  if maj < 0x12 then decLane maj w
  else if maj < 0x1A then decCtl maj w
  else if maj < 0x22 then decFloat maj w
  else if maj < 0x30 then decMem maj w
  else if maj < 0x3A then decEng maj w
  else decSys maj w

/-- A 16-bit halfword before the checks of `Instr.wf` (R146, R147). -/
def decode16 (h : Nat) : Option Instr :=
  if h = 0 then some .zeroHalfword
  else
    match fld h 1 4 with
    | 0 => decShort .mov16 h
    | 1 => decShort .iadd16 h
    | 2 => decShort .isub16 h
    | 3 => decShort .and16 h
    | 4 => decShort .or16 h
    | 5 => decShort .xor16 h
    | 6 => decShort .shli16 h
    | 7 => decShort .shri16 h
    | 8 => decShort .movi16 h
    | 9 => decShort .iaddi16 h
    | 10 => decShort .fadd16 h
    | 11 => decShort .fmul16 h
    | 12 => decShort .fsub16 h
    | 13 => decShort .imul16 h
    | 14 => decShortSp .lds16 h
    | _ => decShortSp .sts16 h

/-- An instruction, or none where it breaks a limit of `Instr.wf`. -/
def checked (o : Option Instr) : Option Instr :=
  match o with
  | none => none
  | some i => if i.wf then some i else none

/-- The instruction of a word: bit 0 of the first halfword gives the length (R137). -/
def decodeWord (w : Nat) : Option Instr :=
  if w % 2 = 1 then checked (decode32 (w % 2 ^ 32)) else checked (decode16 (w % 2 ^ 16))

/-- The word that the first halfwords of a list hold, low halfword first (R137). -/
def headWord (hs : List (BitVec 16)) : Nat :=
  match hs with
  | [] => 0
  | [h] => h.toNat
  | h :: k :: _ => if h.toNat % 2 = 1 then h.toNat + 2 ^ 16 * k.toNat else h.toNat

/-- The length in halfwords of the instruction that starts with a halfword (R137). -/
def headLen (h : BitVec 16) : Nat := if h.toNat % 2 = 1 then 2 else 1

/-- Decoding a stream of halfwords: the instruction and the halfwords after it; none where the stream is too short
or the word is an illegal encoding (R158). -/
def decode (hs : List (BitVec 16)) : Option (Instr × List (BitVec 16)) :=
  match hs with
  | [] => none
  | h :: rest =>
    if h.toNat % 2 = 1 then
      match rest with
      | [] => none
      | k :: rest' => (checked (decode32 (h.toNat + 2 ^ 16 * k.toNat))).map (·, rest')
    else (checked (decode16 h.toNat)).map (·, rest)

/-- The table's word as the hardware stores it: two halfwords, low halfword first (R2, R137); bits above `nbits`
are zero. -/
def tableHalves (nbits w : Nat) : List (BitVec 16) :=
  [BitVec.ofNat 16 (w % 2 ^ nbits), BitVec.ofNat 16 (w % 2 ^ nbits / 2 ^ 16)]

/-- The halfwords of an instruction word as memory holds them, low halfword first (R2, R137). -/
def wordHalves (w : Nat) : List (BitVec 16) :=
  if w % 2 = 1 then [BitVec.ofNat 16 w, BitVec.ofNat 16 (w / 2 ^ 16)] else [BitVec.ofNat 16 w]

/-- The instruction that the decoder reads from a word of the opcode table. -/
def decodeTableWord (nbits w : Nat) : Option Instr := (decode (tableHalves nbits w)).map (·.1)

/-! ## The encoder -/

/-- The octet code of a command block. -/
def octCode (c : Fin 4) : Nat := 8 * c.val

def AluOp.enc (maj fn : Nat) (f : AluOp) : Nat := wT maj fn f.t.code f.w.code f.d.code f.a.code f.b.code

def AluUn.enc (maj fn : Nat) (f : AluUn) : Nat := wT maj fn f.t.code f.w.code f.d.code f.a.code 0

def AluImm.enc (maj : Nat) (f : AluImm) : Nat := wI maj f.t.code f.d.code f.a.code f.imm.toNat

def ShImm.enc (fn : Nat) (f : ShImm) : Nat := wT 0x0A fn f.t.code f.w.code f.d.code f.a.code f.imm.toNat

def FltOp.enc (maj fn : Nat) (f : FltOp) : Nat := wT maj fn f.t.code f.w.code f.d.code f.a.code f.b.code

def FltUn.enc (maj fn : Nat) (f : FltUn) : Nat := wT maj fn f.t.code f.w.code f.d.code f.a.code 0

def SeOp.enc (fn : Nat) (f : SeOp) : Nat := wT 0x21 fn 6 0 f.d.code f.a.code (0x38 + f.m.code)

def RedOp.enc (fn : Nat) (f : RedOp) : Nat :=
  wT 0x24 fn f.t.ty f.w.code f.d.code f.a.code (f.op.code + 8 * bit f.t.isFlt)

def LoadOp.enc (maj : Nat) (f : LoadOp) : Nat :=
  wM maj f.t.code f.ord.code f.w.code f.d.code f.a.code f.scope.code f.imm.val

def StoreOp.enc (maj : Nat) (f : StoreOp) : Nat :=
  wM maj f.t.code f.ord.code f.w.code f.d.code f.a.code f.scope.code f.imm.val

def CopyOp.enc (maj fn : Nat) (f : CopyOp) : Nat :=
  wE maj fn f.q.val (octCode f.c) (octCode f.c2) f.scope.code
    (bit f.chain + 2 * bit f.cw + 4 * bit f.st + 8 * bit f.mman)

def Short.enc (op : Nat) (f : Short) : Nat := wH op f.d.val f.s.val (bit f.t)

/-- The word of a well-formed instruction (16 or 32 bits, by bit 0); 0 for an event, which has none. -/
def encode (i : Instr) : Nat :=
  match i with
  | .iadd f => f.enc 0x01 0
  | .isub f => f.enc 0x01 1
  | .iadds f => f.enc 0x01 2
  | .isubs f => f.enc 0x01 3
  | .iaddi f => f.enc 0x02
  | .imul f => f.enc 0x03 0
  | .imulh f => f.enc 0x03 1
  | .imad f => f.enc 0x03 2
  | .imin f => f.enc 0x04 0
  | .imax f => f.enc 0x04 1
  | .iabs f => f.enc 0x04 2
  | .ineg f => f.enc 0x04 3
  | .and f => f.enc 0x05 0
  | .or f => f.enc 0x05 1
  | .xor f => f.enc 0x05 2
  | .andn f => f.enc 0x05 3
  | .andi f => f.enc 0x06
  | .ori f => f.enc 0x07
  | .xori f => f.enc 0x08
  | .shl f => f.enc 0x09 0
  | .shr f => f.enc 0x09 1
  | .sra f => f.enc 0x09 2
  | .rot f => f.enc 0x09 3
  | .shli f => f.enc 0
  | .shri f => f.enc 1
  | .srai f => f.enc 2
  | .roti f => f.enc 3
  | .popc f => f.enc 0x0B 0
  | .clz f => f.enc 0x0B 1
  | .ctz f => f.enc 0x0B 2
  | .brev f => f.enc 0x0B 3
  | .bfx f => f.enc 0x0C 0
  | .bfxs f => f.enc 0x0C 1
  | .bfi f => f.enc 0x0C 2
  | .lea f => f.enc 0x0C 3
  | .iseteq f => f.enc 0x0D 0
  | .isetne f => f.enc 0x0D 1
  | .isetlt f => f.enc 0x0D 2
  | .isetle f => f.enc 0x0D 3
  | .isetgt f => f.enc 0x0E 0
  | .isetge f => f.enc 0x0E 1
  | .itest f => f.enc 0x0E 2
  | .sel f => f.enc 0x0F 0
  | .mov f => f.enc 0x0F 1
  | .movi f => wI 0x10 f.t.code f.d.code 0 f.imm.toNat
  | .rds d sp => wS 0x11 sp.val d.code 0
  | .wrs a sp => wS 0x11 sp.val a.code 1
  | .mov16 f => f.enc 0
  | .zeroHalfword => 0
  | .iadd16 f => f.enc 1
  | .isub16 f => f.enc 2
  | .and16 f => f.enc 3
  | .or16 f => f.enc 4
  | .xor16 f => f.enc 5
  | .shli16 f => f.enc 6
  | .shri16 f => f.enc 7
  | .movi16 f => f.enc 8
  | .iaddi16 f => f.enc 9
  | .fadd16 f => f.enc 10
  | .fmul16 f => f.enc 11
  | .fsub16 f => f.enc 12
  | .imul16 f => f.enc 13
  | .lds16 s d => wH 14 d.val s.val 0
  | .sts16 s d => wH 15 d.val s.val 0
  | .bra off => wB 0x12 off.toNat
  | .brc off a c => wC 0x13 c.code a.code off.toNat
  | .brx off a z => wC 0x14 (bit z) a.code off.toNat
  | .brk a z => wC 0x15 (bit z) a.code 0
  | .pj off => wB 0x16 off.toNat
  | .call off => wB 0x17 off.toNat
  | .join => wT 0x18 0 0 0 0 0 0
  | .jmpr a => wT 0x18 1 0 0 0 a.code 0
  | .exit => wT 0x18 2 0 0 0 0 0
  | .callr a => wT 0x18 3 0 0 0 a.code 0
  | .mskrd d sel => wT 0x19 0 0 0 d.code 0 (0x38 + sel.code)
  | .mskwr a => wT 0x19 1 0 0 0 a.code 0
  | .mskand a => wT 0x19 2 0 0 0 a.code 0
  | .fadd f => f.enc 0x1A 0
  | .fsub f => f.enc 0x1A 1
  | .fmul f => f.enc 0x1A 2
  | .ffma f => f.enc 0x1A 3
  | .fmin f => f.enc 0x1B 0
  | .fmax f => f.enc 0x1B 1
  | .fabs f => f.enc 0x1B 2
  | .fneg f => f.enc 0x1B 3
  | .frcp f => f.enc 0x1C 0
  | .frsq f => f.enc 0x1C 1
  | .fsqrt f => f.enc 0x1C 2
  | .fexp2 f => f.enc 0x1C 3
  | .flog2 f => f.enc 0x1D 0
  | .fsin f => f.enc 0x1D 1
  | .fcos f => f.enc 0x1D 2
  | .frnd f => f.enc 0x1D 3
  | .fseteq f => f.enc 0x1E 0
  | .fsetne f => f.enc 0x1E 1
  | .fsetlt f => f.enc 0x1E 2
  | .fsetle f => f.enc 0x1E 3
  | .fsetgt f => f.enc 0x1F 0
  | .fsetge f => f.enc 0x1F 1
  | .fsetun f => f.enc 0x1F 2
  | .fclass f => f.enc 0x1F 3
  | .cvt f => wT 0x20 f.rm.code f.dst.ty f.w.code f.d.code f.a.code
      (f.src.code + 16 * bit f.dst.isFlt + 32 * bit f.sat)
  | .sepk f => f.enc 0
  | .seunpk f => f.enc 1
  | .f8pk f => wT 0x21 2 (3 + bit f.e5) 0 f.d.code f.a.code f.b.code
  | .f8unpk f => wT 0x21 3 (3 + bit f.e5) 0 f.d.code f.a.code (0x38 + bit f.h)
  | .shfl f => f.enc 0x22 0
  | .shflx f => f.enc 0x22 1
  | .shflu f => f.enc 0x22 2
  | .shfld f => f.enc 0x22 3
  | .vany f => f.enc 0x23 0
  | .vall f => f.enc 0x23 1
  | .vuni f => f.enc 0x23 2
  | .ballot f => f.enc 0x23 3
  | .scan f => f.enc 0
  | .scanx f => f.enc 1
  | .red f => f.enc 2
  | .segred f => wT 0x24 3 f.t.code 0 f.d.code f.a.code f.b.code
  | .cmprs f => f.enc 0x25 0
  | .expnd f => f.enc 0x25 1
  | .matchv f => f.enc 0x25 2
  | .ldg f => f.enc 0x26
  | .stg f => f.enc 0x27
  | .lds f => f.enc 0x28
  | .sts f => f.enc 0x29
  | .cstg f => f.enc 0x2A
  | .csts f => f.enc 0x2B
  | .atomg f => wM 0x2C f.op.code f.ord.code (bit f.wide) f.d.code f.a.code f.scope.code f.imm.val
  | .atomx f => wM 0x2D f.op.code f.ord.code 0 f.d.code f.a.code f.scope.code f.imm.val
  | .atoms f => wM 0x2E f.op.op f.ord.code f.op.w f.d.code f.a.code f.scope.code f.imm.val
  | .fence k scope => wM 0x2F 0 k.code 0 0 0 scope.code 0
  | .tlwait e n => wE 0x30 0 e.code 0 n.code 0 0
  | .tlrd e d flt => wE 0x30 1 e.code 0 d.code 0 (4 * bit flt)
  | .deq d c scope => wE 0x31 0 0 (octCode c) d.code scope.code 0
  | .enq d c scope close => wE 0x31 1 0 (octCode c) d.code scope.code (4 * bit close)
  | .qtry d c scope => wE 0x31 2 0 (octCode c) d.code scope.code 0
  | .qbind c => wE 0x31 3 0 (octCode c) 0 0 0
  | .barinit c => wE 0x32 0 0 (octCode c) 0 0 0
  | .bararv d c scope => wE 0x32 1 0 (octCode c) d.code scope.code 0
  | .barwait n c scope => wE 0x32 2 0 (octCode c) n.code scope.code 0
  | .bararvw c scope => wE 0x32 3 0 (octCode c) 0 scope.code 0
  | .cpy f => f.enc 0x33 0
  | .cpyt f => f.enc 0x33 1
  | .cpyp f => f.enc 0x33 2
  | .cpyg f => f.enc 0x33 3
  | .cpyr f => f.enc 0x34 0
  | .cpye f => f.enc 0x34 1
  | .pfch q c scope cw => wE 0x34 2 q.val (octCode c) 0 scope.code (2 * bit cw)
  | .recld c => wE 0x35 0 0 (octCode c) 0 0 0
  | .recinv c => wE 0x35 1 0 (octCode c) 0 0 0
  | .recq d c => wE 0x35 2 0 (octCode c) d.code 0 0
  | .mma c => wE 0x36 0 0 (octCode c) 0 0 0
  | .mman c => wE 0x36 1 0 (octCode c) 0 0 0
  | .accz c => wE 0x36 2 0 (octCode c) 0 0 0
  | .accrd d c sat => wE 0x37 0 0 (octCode c) d.code 0 (4 * bit sat)
  | .accwr c => wE 0x37 1 0 (octCode c) 0 0 0
  | .wbld c => wE 0x37 2 0 (octCode c) 0 0 0
  | .wbq d c => wE 0x37 3 0 (octCode c) d.code 0 0
  | .tbuild c => wE 0x38 0 0 (octCode c) 0 0 0
  | .tlook c => wE 0x38 1 0 (octCode c) 0 0 0
  | .tfin c acc => wE 0x38 2 0 (octCode c) 0 0 (4 * bit acc)
  | .tchk d c => wE 0x38 3 0 (octCode c) d.code 0 0
  | .tspill c => wE 0x39 0 0 (octCode c) 0 0 0
  | .tfill c => wE 0x39 1 0 (octCode c) 0 0 0
  | .tinv c => wE 0x39 2 0 (octCode c) 0 0 0
  | .tfence => wT 0x3A 0 0 0 0 0 0
  | .flgrd d b => wT 0x3A 1 0 0 d.code 0 b.code
  | .flgwr a b => wT 0x3A 2 0 0 0 a.code b.code
  | .prio a => wT 0x3B 0 0 0 0 a.code 0
  | .regrs d a => wT 0x3B 1 0 0 d.code a.code 0
  | .yield => wT 0x3B 2 0 0 0 0 0
  | .sleep a => wT 0x3B 3 0 0 0 a.code 0
  | .csrr d r => wS 0x3C 0 d.code r.code
  | .csrw r a => wS 0x3C 1 a.code r.code
  | .nop => wT 0x3D 0 0 0 0 0 0
  | .trap code => wT 0x3D 1 0 0 0 0 code.toNat
  | .bkpt => wT 0x3D 2 0 0 0 0 0
  | .phase => wT 0x3D 3 0 0 0 0 0
  | .limm imm => wK 0x3E imm.toNat
  | .trl mask s y => wTrl mask.toNat (bit s) (bit y)
  | .runStart _ _ => 0
  | .blockedRunResume _ => 0
  | .slotReturn _ _ => 0
  | .trapDeliver _ => 0
  | .faultRecordWrite _ => 0
  | .faultRingHeadWrite _ _ _ => 0
  | .priorityPromote _ => 0
  | .warpEnd _ => 0
  | .sleepExpire _ => 0
  | .recordFetch _ _ _ => 0
  | .pageWalk _ _ _ => 0
  | .copyRetire _ _ => 0
  | .chainStart _ _ => 0
  | .engineFaultPending _ _ => 0
  | .mxRetire _ => 0
  | .lkRetire _ => 0
  | .messageArrive _ => 0
  | .creditReturn _ => 0
  | .remoteHalfAccess _ _ _ => 0
  | .farArrival _ => 0
  | .queueItemDeliver _ _ => 0
  | .queueOrphan _ _ => 0
  | .sliceAccess _ => 0
  | .replicaInvalidate _ _ => 0
  | .collapseComplete _ => 0
  | .sliceWriteApply _ _ => 0
  | .channelAccess _ _ => 0
  | .torusHop _ => 0
  | .holdingBufferRelease _ _ => 0
  | .fabricAccess _ => 0
  | .opticalFlitReceive _ _ => 0
  | .wavelengthRetire _ _ _ _ => 0
  | .wavelengthTrainDone _ _ _ _ => 0
  | .wavelengthEnableWrite _ _ _ _ _ => 0
  | .routePortWrite _ _ _ => 0
  | .dieMapWrite _ _ => 0
  | .dieMapApply => 0
  | .setEvacuate _ _ _ => 0
  | .setFail _ _ _ => 0
  | .moraineGranuleBegin _ => 0
  | .moraineGranuleComplete _ => 0
  | .sliceEvacuate _ _ => 0
  | .sliceEntryMove => 0
  | .bankRetire _ _ => 0
  | .columnSteerRewrite _ => 0
  | .shootdown _ _ _ => 0
  | .shootdownComplete _ => 0
  | .launchWrite _ _ _ => 0
  | .launchRecordRead _ => 0
  | .placementEntryApply _ => 0
  | .calveCommand _ _ _ => 0
  | .returnCommand _ _ => 0
  | .graceExpire _ => 0
  | .calveSaveDone _ => 0
  | .groupResume _ _ => 0
  | .qlaneWrite _ _ _ _ => 0
  | .qrowsWrite _ _ _ _ => 0
  | .steeringRewriteDone _ _ => 0
  | .laneSelfCheckFail _ _ => 0
  | .coreOutOfService _ => 0
  | .regrsGrant _ _ => 0
  | .regrsDeny _ _ => 0
  | .clusterQuiesce _ => 0
  | .slewAdmit => 0
  | .grantBoundary => 0
  | .powerMonitorSample _ => 0
  | .tokenPass _ => 0
  | .tokenTimeout _ => 0
  | .paceWrite _ _ _ => 0
  | .paceApply _ => 0
  | .budgetTokenSend _ _ => 0
  | .budgetTokenReceive _ _ => 0
  | .supplyDroop _ _ => 0
  | .phaseAdvance _ => 0
  | .digestCompare _ _ => 0
  | .ceTailWrite _ _ _ _ => 0
  | .ceCommand _ _ => 0
  | .ceFault _ _ => 0
  | .doorbell _ _ _ => 0
  | .resolveRetryWarp _ _ _ => 0
  | .resolveEndCrew _ _ _ => 0
  | .resolveRetryEngine _ _ _ => 0
  | .resolveAbandon _ _ _ => 0
  | .resolveClearP _ _ _ => 0
  | .hostBar2Access _ _ => 0
  | .ownerClaim _ => 0
  | .ownerNameSuccessor _ _ => 0
  | .ownerRelease _ => 0
  | .handoverExpire => 0
  | .boot _ => 0
  | .spdmGetVersion => 0
  | .spdmGetCapabilities => 0
  | .spdmNegotiateAlgorithms _ _ => 0
  | .spdmGetDigests => 0
  | .spdmGetCertificate _ => 0
  | .spdmChallenge _ => 0
  | .spdmGetMeasurements _ => 0
  | .memoryScrub _ _ _ => 0
  | .registerWrite _ _ _ => 0
  | .hostDmaTransfer _ _ _ => 0
  | .opticalPartnerAttach _ _ => 0
  | .hostLinkTraining _ => 0

/-- The length in bytes of an encoded instruction (R137). -/
def Instr.size (i : Instr) : Nat := if encode i % 2 = 1 then 4 else 2

end Sys2Proof
end

