-- ==== Sys2Proof/Machine/Flags.lean ====
section
/-! DEFINITION. The sticky flags of aflags (R121, R122). -/

namespace Sys2Proof.Machine

open Sys2Proof

/-- Invalid. -/
def fNV : Flags := 0x01

/-- Divide by zero. -/
def fDZ : Flags := 0x02

/-- Overflow. -/
def fOF : Flags := 0x04

/-- Underflow. -/
def fUF : Flags := 0x08

/-- Inexact. -/
def fNX : Flags := 0x10

/-- Integer saturation. -/
def fSAT : Flags := 0x20

/-- An SE NaN block was produced or consumed. -/
def fSN : Flags := 0x40

/-- A flag under a condition. -/
def flagIf (b : Bool) (f : Flags) : Flags := if b then f else 0

/-- The flags of a list of element results: a flag is set when any element meets its condition (R122). -/
def orFlags (fs : List Flags) : Flags := fs.foldl (· ||| ·) 0

/-- aflags [6:0] (R121). -/
def aflagBits (a : BitVec 12) : Flags := BitVec.ofNat 7 a.toNat

/-- aflags with flags added; hardware never clears one (R121). -/
def addFlags (a : BitVec 12) (f : Flags) : BitVec 12 := a ||| f.setWidth 12

/-- RM, aflags [9:8] (R121). -/
def aflagRm (a : BitVec 12) : RMode :=
  match a.toNat / 2 ^ 8 % 4 with
  | 0 => .rne
  | 1 => .rz
  | 2 => .rd
  | _ => .ru

/-- FTZ, aflags [11] (R121). -/
def aflagFtz (a : BitVec 12) : Bool := a.getLsbD 11

/-- The writable bits of aflags: FTZ, RM and the flags (R207, R311). -/
def aflagMask : BitVec 12 := 0xB7F

end Sys2Proof.Machine
end

