-- ==== Sys2Proof/Machine/Access.lean ====
section
/-! DEFINITION. Reading and writing the named parts of the package state, and the package's numbering (R6, R10). -/

namespace Sys2Proof.Machine

open Sys2Proof

/-! ## Numbering (R6, R10) -/

/-- The cluster of a package core (R10). -/
def clusterOfCore (n : Nat) : Nat := n / 8

/-- The virtual die that holds a cluster (R10). -/
def dieOfCluster (c : Nat) : Nat := if c % 6 < 4 then 2 * (c / 6) else 2 * (c / 6) + 1

/-- The virtual die of a package core. -/
def dieOfCore (n : Nat) : Nat := dieOfCluster (clusterOfCore n)

/-- The first cluster of a compute die (R6). -/
def dieFirstCluster (v : Nat) : Nat := if v % 2 = 0 then 6 * (v / 2) else 6 * (v / 2) + 4

/-- The number of clusters of a compute die (R6). -/
def dieClusters (v : Nat) : Nat := if v % 2 = 0 then 4 else 2

/-- Prompt dies are the even compute dies (R6). -/
def isPrompt (v : Nat) : Bool := v % 2 == 0

/-- The engine codes of R159 for major 0x30. -/
def engCode (e : Eng) : Nat :=
  match e with
  | .cq0 => 0
  | .cq1 => 1
  | .cq2 => 2
  | .cq3 => 3
  | .mx => 4
  | .lk => 5
  | .ce => 6

/-- The width of scopes: the code of R143. -/
def scopeCode (s : Scope) : Nat :=
  match s with
  | .warp => 0
  | .crew => 1
  | .cluster => 2
  | .die => 3
  | .pair => 4
  | .package => 5
  | .fabric => 6
  | .host => 7

/-! ## Keys -/

/-- The key of a crew. -/
def crewKey (ctx id : Nat) : Nat := ctx * 2 ^ 16 + id

/-- The key of a warp. -/
def warpKey (crew idx : Nat) : Nat := crew * 16 + idx

/-- The crew key of a warp key. -/
def crewOfWarp (k : Nat) : Nat := k / 16

/-- The key of a timeline: core, context, engine code. -/
def tlKey (core ctx eng : Nat) : Nat := (core * 64 + ctx) * 8 + eng

/-- The key of a command queue: core, engine code. -/
def queueKey (core eng : Nat) : Nat := core * 8 + eng

/-! ## Parts of the state -/

/-- The warp of a key. -/
def warpAt (s : State) (k : Nat) : Option Warp := look? s.warps k

/-- Replaces a warp. -/
def setWarp (s : State) (k : Nat) (w : Warp) : State := { s with warps := put s.warps k w }

/-- Changes a warp that exists. -/
def modWarp (s : State) (k : Nat) (f : Warp → Warp) : State :=
  match warpAt s k with
  | none => s
  | some w => setWarp s k (f w)

/-- The crew of a key. -/
def crewAt (s : State) (k : Nat) : Option Crew := look? s.crews k

/-- Replaces a crew. -/
def setCrew (s : State) (k : Nat) (c : Crew) : State := { s with crews := put s.crews k c }

/-- Changes a crew that exists. -/
def modCrew (s : State) (k : Nat) (f : Crew → Crew) : State :=
  match crewAt s k with
  | none => s
  | some c => setCrew s k (f c)

/-- The key of a warp's crew. -/
def Warp.crewK (w : Warp) : Nat := crewKey w.ctx w.crew

/-- The key of a warp. -/
def Warp.key (w : Warp) : Nat := warpKey w.crewK w.idx

/-- A context. -/
def ctxAt (s : State) (c : Nat) : Ctx := look s.ctxs c Ctx.init

/-- Replaces a context. -/
def setCtx (s : State) (c : Nat) (x : Ctx) : State := { s with ctxs := putD s.ctxs c Ctx.init x }

/-- Changes a context. -/
def modCtx (s : State) (c : Nat) (f : Ctx → Ctx) : State := setCtx s c (f (ctxAt s c))

/-- A core. -/
def coreAt (s : State) (n : Nat) : Core := look s.cores n Core.init

/-- Replaces a core. -/
def setCore (s : State) (n : Nat) (c : Core) : State := { s with cores := putD s.cores n Core.init c }

/-- Changes a core. -/
def modCore (s : State) (n : Nat) (f : Core → Core) : State := setCore s n (f (coreAt s n))

/-- A quarter of a core. -/
def quarterAt (c : Core) (q : Nat) : Quarter := c.quarters.getD q Quarter.init

/-- Changes a quarter of a core. -/
def modQuarter (c : Core) (q : Nat) (f : Quarter → Quarter) : Core := { c with quarters := modAt c.quarters q f }

/-- A cluster's power state. -/
def clusterAt (s : State) (c : Nat) : Cluster := s.power.clusters.getD c (Cluster.init c)

/-- Changes a cluster's power state. -/
def modCluster (s : State) (c : Nat) (f : Cluster → Cluster) : State :=
  { s with power := { s.power with clusters := modAt s.power.clusters c f } }

/-- A timeline (R277). -/
def timelineAt (s : State) (k : Nat) : Timeline := look s.tls k Timeline.init

/-- Replaces a timeline. -/
def setTimeline (s : State) (k : Nat) (t : Timeline) : State := { s with tls := putD s.tls k Timeline.init t }

/-- The unretired commands of a queue. -/
def queueAt (s : State) (k : Nat) : List Cmd := look s.queues k []

/-- Replaces the unretired commands of a queue. -/
def setQueue (s : State) (k : Nat) (q : List Cmd) : State := { s with queues := putD s.queues k [] q }

/-- Changes the global block. -/
def modGlob (s : State) (f : Glob → Glob) : State := { s with glob := f s.glob }

/-- Changes the memory system. -/
def modMem (s : State) (f : Mem → Mem) : State := { s with mem := f s.mem }

/-- Changes the links. -/
def modLinks (s : State) (f : Links → Links) : State := { s with links := f s.links }

/-- Changes the power machinery. -/
def modPower (s : State) (f : Power → Power) : State := { s with power := f s.power }

/-- A port of the optical fabric (R68, R70). -/
def portAt (s : State) (p : Nat) : Port := look s.links.ports p Port.init

/-- Replaces a port. -/
def setPort (s : State) (p : Nat) (x : Port) : State :=
  modLinks s fun l => { l with ports := putD l.ports p Port.init x }

/-- All warps. -/
def allWarps (s : State) : List Warp := s.warps.map (·.2)

/-- All crews with their keys. -/
def allCrews (s : State) : List (Nat × Crew) := s.crews

/-- The warps of a crew in ascending index. -/
def crewWarps (s : State) (k : Nat) : List Warp := (allWarps s).filter fun w => w.crewK == k

/-- A warp holds a slot of its quarter: it has not been saved (R339, R391). -/
def WarpSt.resident (w : WarpSt) : Bool :=
  match w with
  | .saved _ => false
  | _ => true

/-- The resident warps of a quarter. -/
def quarterWarps (s : State) (core q : Nat) : List Warp :=
  (allWarps s).filter fun w => w.core == core && w.quarter == q && w.st.resident

/-- A crew's resources on its core are in use (R335): it is live. -/
def CrewSt.resident (c : CrewSt) : Bool := c == .live

/-- The live crews of a core. -/
def coreCrews (s : State) (core : Nat) : List Crew :=
  ((allCrews s).map (·.2)).filter fun c => c.core == core && c.st.resident

/-! ## Vector clocks (R365) -/

/-- An entry of a clock. -/
def vcAt (v : VClock) (d : Nat) : Nat := look v d 0

/-- The element-wise maximum of two clocks. -/
def vcMax (a b : VClock) : VClock := b.foldl (fun v e => putD v e.1 0 (max (vcAt v e.1) e.2)) a

/-- A die's clock. -/
def clockOf (s : State) (d : Nat) : VClock := look s.mem.clocks d []

/-- Replaces a die's clock. -/
def setClock (s : State) (d : Nat) (v : VClock) : State :=
  modMem s fun m => { m with clocks := putD m.clocks d [] v }

/-- Merges a clock into a die's (R365). -/
def mergeClock (s : State) (d : Nat) (v : VClock) : State := setClock s d (vcMax (clockOf s d) v)

/-- A saturating sum. -/
def satAdd (bits a b : Nat) : Nat := min (a + b) (2 ^ bits - 1)

/-- Bit i of a natural number. -/
def bit (x i : Nat) : Bool := x / 2 ^ i % 2 == 1

/-- Bits [lo + n − 1 : lo] of a natural number. -/
def bits (x lo n : Nat) : Nat := x / 2 ^ lo % 2 ^ n

end Sys2Proof.Machine
end

