-- ==== Sys2Proof/Machine/Phys.lean ====
section
/-! DEFINITION. Physical memory: regions and interleave sets, the channel location of a byte, the home slice of a
line, and reading and writing bytes at the home (R23 to R53). -/

namespace Sys2Proof.Machine

open Sys2Proof

/-! ## The physical address map (R24) -/

/-- The windows of the physical address map. -/
inductive PaKind where
  | hbm | ddr | fabric | host | reserved
  deriving DecidableEq, Repr

/-- The window of a physical address (R24). -/
def paKind (pa : Nat) : PaKind :=
  if pa < 0xC000000000 then .hbm
  else if pa < 0x10000000000 then .reserved
  else if pa < 0x50000000000 then .ddr
  else if pa < 0x4000000000000 then .reserved
  else if pa < 0x8000000000000 then .fabric
  else if pa < 0x10000000000000 then .host
  else .reserved

/-- The address has a home slice (R47). -/
def PaKind.homed (k : PaKind) : Bool := k == .hbm || k == .ddr

/-! ## Interleave sets (R26, R30) -/

/-- N of an interleave set in the table of R26. -/
def setN (i : Nat) : Nat := if i = 8 then 256 else if i = 9 then 16 else if i % 2 = 0 then 32 else 64

/-- Interleave set i at reset: RRPTR is N − 1 (R31), with N of R26's table until the boot empties a set (R27). -/
def ISet.reset (i : Nat) : ISet :=
  { rsv := false, rrptr := setN i - 1, evch := 0, stat := 0, drops := 0, evpos := 0, n := setN i, remap := [],
    moving := [], busy := false, fold := 0, gone := [], failed := [], stalled := [], mute := false, queued := [] }

/-- A set's control and table. -/
def setAtIdx (s : State) (i : Nat) : ISet := look s.mem.sets i (ISet.reset i)

/-- Changes a set. -/
def modSet (s : State) (i : Nat) (f : ISet → ISet) : State :=
  modMem s fun m => { m with sets := putD m.sets i (ISet.reset i) (f (look m.sets i (ISet.reset i))) }

/-- The number of remap-table entries T of a set (R26). -/
def setT (i : Nat) : Nat := if i = 8 then 1024 else 256

/-- Entries per channel k = T / N (R26). -/
def setK (i : Nat) (x : ISet) : Nat := if x.n = 0 then 0 else setT i / x.n

/-- Q: slots of a channel per block (R29); an empty set has none (R27). -/
def setQ (i : Nat) (x : ISet) : Nat := if x.n = 0 then 0 else setK i x + (if x.rsv then 1 else 0)

/-- The addressable capacity of one channel of a set in bytes (R23). -/
def chanCap (s : State) (i : Nat) : Nat := if i = 9 then s.glob.ddrCap * 2 ^ 30 else 2 ^ 31

/-- The blocks that a channel of a set holds. -/
def setBlocks (s : State) (i : Nat) (x : ISet) : Nat :=
  if setQ i x = 0 then 0 else chanCap s i / (setQ i x * 512)

/-- A set's capacity in frames of 1 GiB (R30). -/
def setFrames (s : State) (i : Nat) (x : ISet) : Nat := setBlocks s i x * setT i * 512 / 2 ^ 30

/-- The stacks of a set's channels in order (R26). -/
def setStacks (i : Nat) : List Nat :=
  match i with
  | 8 => [1, 2, 4, 5, 7, 8, 10, 11]
  | 9 => [12]
  | _ => if i % 2 = 0 then [3 * (i / 2)] else [3 * (i / 2) + 1, 3 * (i / 2) + 2]

/-- The global channel of a set-relative channel (R23, R26): HBM 0 to 383, DDR-5 384 to 399. -/
def globalChan (i c : Nat) : Nat :=
  if i = 9 then 384 + c else 32 * (setStacks i).getD (c / 32) 0 + c % 32

/-- A region descriptor (R25). -/
def regionDesc (s : State) (r : Nat) : Nat := (look s.mem.regions r 0).toNat

/-- The set and frame of a mapped region; none where it is treated as ABSENT (R25). -/
def regionSet (s : State) (r : Nat) : Option (Nat × Nat) :=
  let d := regionDesc s r
  let i := bits d 16 4
  let fr := bits d 0 12
  let ok := bits d 30 2 == 1 && decide (i < 10) && (if r < 768 then decide (i < 9) else i == 9) &&
    decide (fr < setFrames s i (setAtIdx s i))
  if ok then some (i, fr) else none

/-- A package of the fabric window is reachable: its route is valid and its port is up (R65, R67). -/
def routePort (s : State) (p : Nat) : Option Nat :=
  let e := (look s.links.routes p 0).toNat
  let id := s.links.fabId.toNat
  let port := bits e 0 3
  if bit id 7 && decide (bits id 0 7 ≠ p) && bit e 7 && decide (port < 6) && (portAt s port).up then some port
  else none

/-- The package number of a fabric-window address (R65). -/
def fabricPkg (pa : Nat) : Nat := (pa - 0x4000000000000) / 2 ^ 43

/-- The region check of a physical address, R45 step 4: true where it may be accessed. -/
def present (s : State) (pa : Nat) : Bool :=
  match paKind pa with
  | .hbm => (regionSet s (pa / 2 ^ 30)).isSome
  | .ddr => (regionSet s (pa / 2 ^ 30)).isSome
  | .fabric => (routePort s (fabricPkg pa)).isSome && (paKind (pa % 2 ^ 43)).homed
  | .host => true
  | .reserved => false

/-! ## The interleave (R28, R29) -/

/-- The XOR of the w-bit chunks of a value, n of them. -/
def xorChunks (w n x : Nat) : Nat :=
  match n with
  | 0 => 0
  | n + 1 => (x % 2 ^ w) ^^^ xorChunks w n (x / 2 ^ w)

/-- The remap-table index of a physical address (R28). -/
def remapIdx (i pa : Nat) : Nat :=
  let g := pa / 512
  if setT i = 256 then xorChunks 8 6 g else xorChunks 10 5 g

/-- The channel and rank that a remap entry names (R29). -/
def remapEntry (x : ISet) (e : Nat) : Nat × Nat := look x.remap e (e % x.n, e / x.n)

/-- The set-relative block of a physical address (R29). -/
def blockOf (i fr pa : Nat) : Nat := (fr * 2 ^ 30 + pa % 2 ^ 30) / (setT i * 512)

/-- The position of a granule in the move of an evacuating channel (R34): granules move in ascending set-relative
number, which within a block is ascending in entry XOR the fold of the higher address bits. The fold is the one that
the engine took when it began the block, so that a block keeps one order whatever region reaches it (R25, R36). -/
def movePos (x : ISet) (block e : Nat) : Nat :=
  block * x.moving.length + ((keysOf x.moving).filter fun f => (f ^^^ x.fold) < (e ^^^ x.fold)).length

/-- The fold of a granule's bits above the entry index, so that its entry is the low index bits XOR this. -/
def hiFold (i pa : Nat) : Nat := remapIdx i pa ^^^ (pa / 512 % setT i)

/-- The state of a granule under evacuation (R35). -/
inductive GranSt where
  | settled | notYet | moving
  deriving DecidableEq, Repr

/-- A granule's state. -/
def granState (s : State) (i fr pa : Nat) : GranSt :=
  let x := setAtIdx s i
  let e := remapIdx i pa
  match look? x.moving e with
  | none => .settled
  | some _ =>
    let p := movePos x (blockOf i fr pa) e
    if p < x.evpos then .settled else if p = x.evpos ∧ x.busy then .moving else .notYet

/-- Where the granules of an entry go next: to the slot that the entry names, or first to the one that a later
evacuation, accepted meanwhile, will move them from (R32). -/
def nextPlace (x : ISet) (e : Nat) : Nat × Nat := (firstSome (fun m => look? m e) x.queued).getD (remapEntry x e)

/-- The set-relative channel and slot rank that hold a granule now (R29, R35). -/
def granPlace (s : State) (i fr pa : Nat) : Nat × Nat :=
  let x := setAtIdx s i
  let e := remapIdx i pa
  match granState s i fr pa with
  | .settled => nextPlace x e
  | _ => look x.moving e (remapEntry x e)

/-- The key of a byte in the channels. -/
def chanKey (i c addr : Nat) : Nat := globalChan i c * 2 ^ 38 + addr

/-- The channel address of a byte (R29). -/
def chanAddr (s : State) (i fr pa rank : Nat) : Nat :=
  (blockOf i fr pa * setQ i (setAtIdx s i) + rank) * 512 + pa % 512

/-- Where a byte of a mapped region lies: its set, set-relative channel and channel key. -/
def chanOf (s : State) (pa : Nat) : Option (Nat × Nat × Nat) :=
  match regionSet s (pa / 2 ^ 30) with
  | none => none
  | some (i, fr) =>
    let p := granPlace s i fr pa
    some (i, p.1, chanKey i p.1 (chanAddr s i fr pa p.2))

/-- A byte and its poison as the channel gives them (R33, R39): a failed channel returns poison. -/
def memByte (s : State) (pa : Nat) : Byte × Bool :=
  match chanOf s pa with
  | none => (0, false)
  | some (i, c, k) =>
    (rdByte s.mem.chan k, look s.mem.chanPois (k / 32) false || (setAtIdx s i).failed.contains c)

/-- Writes one byte to its channel; a failed channel discards it (R33). -/
def memWriteByte (s : State) (pa : Nat) (b : Byte) : State :=
  match chanOf s pa with
  | none => s
  | some (i, c, k) =>
    if (setAtIdx s i).failed.contains c then s
    else modMem s fun m => { m with chan := wrByte m.chan k b }

/-- Sets the poison of the flit that holds a byte in its channel. -/
def memSetPois (s : State) (pa : Nat) (p : Bool) : State :=
  match chanOf s pa with
  | none => s
  | some (i, c, k) =>
    if (setAtIdx s i).failed.contains c then s
    else modMem s fun m => { m with chanPois := putD m.chanPois (k / 32) false p }

/-! ## Homes and lines (R47, R48) -/

/-- The slice-table index of a line (R47). -/
def sliceIdx (pa : Nat) : Nat := xorChunks 9 5 (pa / 128)

/-- The slice that an entry names. -/
def sliceEntry (s : State) (e : Nat) : Nat := look s.mem.slices.table e (e % 64)

/-- The home slice of a physical address (R47). -/
def homeSlice (s : State) (pa : Nat) : Nat := sliceEntry s (sliceIdx pa)

/-- A line held in its home slice. -/
def lineAt (s : State) (l : Nat) : Option Line := look? s.mem.lines l

/-- Holds a line. -/
def setLine (s : State) (l : Nat) (x : Line) : State := modMem s fun m => { m with lines := put m.lines l x }

/-- Releases a line. -/
def dropLine (s : State) (l : Nat) : State := modMem s fun m => { m with lines := del m.lines l }

/-- Byte i of 128 bytes. -/
def lineByte (d : BitVec 1024) (i : Nat) : Byte := BitVec.ofNat 8 (d.toNat / 2 ^ (8 * i))

/-- 128 bytes from a list. -/
def lineOfBytes (bs : List Byte) : BitVec 1024 := BitVec.ofNat 1024 (leNat bs)

/-- Replaces byte i of 128 bytes. -/
def lineSet (d : BitVec 1024) (i : Nat) (b : Byte) : BitVec 1024 :=
  let x := d.toNat
  BitVec.ofNat 1024 (x - x / 2 ^ (8 * i) % 256 * 2 ^ (8 * i) + b.toNat * 2 ^ (8 * i))

/-- The poison bits of four flits. -/
def flitBits (p : Nat → Bool) : BitVec 4 :=
  BitVec.ofNat 4 ((if p 0 then 1 else 0) + (if p 1 then 2 else 0) + (if p 2 then 4 else 0) + (if p 3 then 8 else 0))

/-- A line as its channel gives it, clean, with the poison of each flit (R33, R39, R48). -/
def fillLine (s : State) (l : Nat) : Line :=
  match chanOf s (l * 128) with
  | none => { data := 0, pois := 0, dirty := false, vec := 0 }
  | some (i, c, k) =>
    let bad := (setAtIdx s i).failed.contains c
    { data := lineOfBytes (rdBytes s.mem.chan k 128)
      pois := flitBits fun f => bad || look s.mem.chanPois (k / 32 + f) false
      dirty := false, vec := 0 }

/-- A byte and its poison at its home: the held line, else the channel. -/
def homeByte (s : State) (pa : Nat) : Byte × Bool :=
  match lineAt s (pa / 128) with
  | some x => (lineByte x.data (pa % 128), x.pois.getLsbD (pa % 128 / 32))
  | none => memByte s pa

/-- The granule of a line is being moved: its writes to memory stall (R35). -/
def lineMoving (s : State) (l : Nat) : Bool :=
  match regionSet s (l * 128 / 2 ^ 30) with
  | none => false
  | some (i, fr) => granState s i fr (l * 128) == .moving

/-- Marks flits of a line in its channel as beyond correction (R37, R38). -/
def markFlits (s : State) (l : Nat) (bad : BitVec 4) : State :=
  (List.range 4).foldl (fun s f => if bad.getLsbD f then memSetPois s (l * 128 + 32 * f) true else s) s

/-- Writes all of a line's data and poison to its channel (R35). -/
def storeLine (s : State) (l : Nat) (data : BitVec 1024) (mask : BitVec 128) (pois : BitVec 4) : State :=
  let s := (List.range 128).foldl
    (fun s i => if mask.getLsbD i then memWriteByte s (l * 128 + i) (lineByte data i) else s) s
  (List.range 4).foldl (fun s f => memSetPois s (l * 128 + 32 * f) (pois.getLsbD f)) s

/-- Writes back a line, or stalls the write-back behind the move of its granule (R35). -/
def writeBackLine (s : State) (l : Nat) (x : Line) : State :=
  match regionSet s (l * 128 / 2 ^ 30) with
  | none => s
  | some (i, fr) =>
    if granState s i fr (l * 128) = .moving then
      modSet s i fun y => { y with stalled := y.stalled ++ [(l, x.data, BitVec.allOnes 128, x.pois)] }
    else storeLine s l x.data (BitVec.allOnes 128) x.pois

/-- The flits that bytes [lo, lo + n) of a line cover, and those they cover wholly. -/
def flitTouched (lo n f : Nat) : Bool := decide (lo < 32 * f + 32) && decide (32 * f < lo + n)

def flitWhole (lo n f : Nat) : Bool := decide (lo ≤ 32 * f) && decide (32 * f + 32 ≤ lo + n)

/-- The poison of a flit after a write of bytes [lo, lo + n) with or without the mark (R39, R93, R420). -/
def flitAfter (old pois : Bool) (lo n f : Nat) : Bool :=
  if flitTouched lo n f then pois || (old && !flitWhole lo n f) else old

/-- Writes bytes within one line into a held line. -/
def lineWrite (x : Line) (lo : Nat) (bs : List Byte) (pois : Bool) : Line :=
  { x with
    data := (List.range bs.length).foldl (fun d i => lineSet d (lo + i) (bs.getD i 0)) x.data
    pois := flitBits fun f => flitAfter (x.pois.getLsbD f) pois lo bs.length f }

/-- The lines that a slice holds. -/
def sliceLines (s : State) (n : Nat) : Nat := (s.mem.lines.filter fun e => homeSlice s (e.1 * 128) == n).length

/-- A line would not find room in its slice, which holds 8 MiB (R6). -/
def sliceFull (s : State) (l : Nat) : Bool := decide (65536 ≤ sliceLines s (homeSlice s (l * 128)))

/-- An access passes through its home without a line being allocated there: its page says so (R47), or the line is not
held and its slice is full (R6). -/
def passes (s : State) (pa : Nat) (thru : Bool) : Bool := thru || ((lineAt s (pa / 128)).isNone && sliceFull s (pa / 128))

/-- Performs a write within one line at its home, for a context (R47, R48): a normal write allocates the line and leaves
it dirty; an uncached or bypass write passes through to the channel and updates a held copy. -/
def homeWrite (s : State) (pa : Nat) (bs : List Byte) (pois thru : Bool) (ctx : Option Nat := none) : State :=
  let l := pa / 128
  let lo := pa % 128
  if passes s pa thru then
    let old := (lineAt s l).getD (fillLine s l)
    let x := lineWrite old lo bs pois
    let s := match lineAt s l with
      | some _ => setLine s l x
      | none => s
    let mask := BitVec.ofNat 128 ((2 ^ bs.length - 1) * 2 ^ lo)
    (List.range 4).foldl
      (fun s f => if flitTouched lo bs.length f then memSetPois s (l * 128 + 32 * f) (x.pois.getLsbD f) else s)
      ((List.range 128).foldl
        (fun s i => if mask.getLsbD i then memWriteByte s (l * 128 + i) (lineByte x.data i) else s) s)
  else
    let x := (lineAt s l).getD (fillLine s l)
    setLine s l { lineWrite x lo bs pois with dirty := true, ctx := ctx }

/-- The bytes of a read within one line at its home, and whether any flit read is poisoned. -/
def homeRead (s : State) (pa n : Nat) : List Byte × Bool :=
  let bs := (List.range n).map fun i => homeByte s (pa + i)
  (bs.map (·.1), bs.any (·.2))

/-- A read allocates its line at the home unless the page passes through (R47). -/
def homeAlloc (s : State) (pa : Nat) (thru : Bool) : State :=
  match lineAt s (pa / 128) with
  | some _ => s
  | none => if passes s pa thru then s else setLine s (pa / 128) (fillLine s (pa / 128))

/-- The stamps of the flits of a range (R365). -/
def stampOf (s : State) (pa n : Nat) : VClock :=
  (List.range (n / 32 + 2)).foldl
    (fun v i => let f := pa / 32 + i
      if f * 32 < pa + n then vcMax v (look s.mem.stamps f []) else v) []

/-- The stamp of a flit after a write of bytes [pa, pa + n) (R365): a write of the whole flit leaves its own; one of a
part, or an atomic (`keep`), joins the stamp of the bytes or the value it leaves (R360; log 80). -/
def stampAfter (old : VClock) (pa n f : Nat) (keep : Bool) (v : VClock) : VClock :=
  if !keep && decide (pa ≤ 32 * f) && decide (32 * f + 32 ≤ pa + n) then v else vcMax old v

/-- Puts a write's stamp on the flits of a range (R365). -/
def stampFlits (s : State) (pa n : Nat) (keep : Bool) (v : VClock) : State :=
  (List.range (n / 32 + 2)).foldl
    (fun s i => let f := pa / 32 + i
      if f * 32 < pa + n then
        modMem s fun m => { m with stamps := putD m.stamps f [] (stampAfter (look m.stamps f []) pa n f keep v) }
      else s) s

/-! ## Poison of 32-byte units (R39, R76) -/

/-- The marks of 32-byte units after one write of n bytes: a unit written whole takes the write's mark, one written in
part keeps its own beside it (R39, R76, R93). -/
def unitsAfter (m : SMap Bool) (a n : Nat) (p : Bool) : SMap Bool :=
  (List.range (n / 32 + 2)).foldl (fun m i =>
    let u := (a / 32 + i) * 32
    if u < a + n then
      putD m (u / 32) false (p || (look m (u / 32) false && !(decide (a ≤ u) && decide (u + 32 ≤ a + n))))
    else m) m

/-- A write at the remote home of a fabric-window address (R65). -/
def fabricWrite (s : State) (pa : Nat) (bs : List Byte) (pois : Bool) : State :=
  modMem s fun m =>
    { m with fabric := wrBytes m.fabric pa bs, fabricPois := unitsAfter m.fabricPois pa bs.length pois }

end Sys2Proof.Machine
end

