-- ==== Sys2Proof/Machine/Trans.lean ====
section
/-! DEFINITION. What an agent that reads at once sees of memory and when it must wait, the writes of the Cirque's own
agents, and address translation (R42 to R46, R53, R66, R364 to R366). -/

namespace Sys2Proof.Machine

open Sys2Proof

/-! ## Staged writes (R364 to R366) -/

/-- The writes in a die's stage, oldest first (R364). -/
def stageOf (s : State) (d : Nat) : List Staged := look s.mem.stages d []

/-- Replaces a die's stage. -/
def setStage (s : State) (d : Nat) (x : List Staged) : State :=
  modMem s fun m => { m with stages := putD m.stages d [] x }

/-- A staged write covers a byte; an atomic's byte is not known before it has been applied. -/
def Staged.covers (x : Staged) (pa : Nat) : Bool :=
  x.atom.isNone && decide (x.pa ≤ pa) && decide (pa < x.pa + x.size)

/-- The byte that a staged write gives. -/
def Staged.byteAt (x : Staged) (pa : Nat) : Byte := BitVec.ofNat 8 (x.data / 2 ^ (8 * (pa - x.pa)))

/-- The newest staged write of a die to a byte (R364). -/
def newestStaged (s : State) (d pa : Nat) : Option Staged := firstOf (·.covers pa) (stageOf s d).reverse

/-- All staged writes with their dies. -/
def allStaged (s : State) : List (Nat × Staged) :=
  s.mem.stages.flatMap fun e => e.2.map fun x => (e.1, x)

/-- The newest staged write of a die that touches a range (R364). -/
def newestTouching (s : State) (d pa n : Nat) : Option Staged :=
  firstOf (fun x => decide (x.pa < pa + n) && decide (pa < x.pa + x.size)) (stageOf s d).reverse

/-- The writes of the stages that are not yet applied at a slice. -/
def unappliedAt (s : State) (slice : Nat) : List (Nat × Staged) :=
  (allStaged s).filter fun e => homeSlice s e.2.pa == slice

/-- The slice has applied every write that a clock covers (R365). -/
def sliceCaughtUp (s : State) (slice : Nat) (v : VClock) : Bool :=
  (unappliedAt s slice).all fun e => decide (vcAt v e.1 < e.2.num)

/-- The newest staged write of a die to a range may precede, in the order of application, a write that the die has
observed and that is not yet applied: until that one is applied, a read of the range on the die waits (R358, R361). -/
def staleStage (s : State) (d : Nat) (x : Staged) (pa n : Nat) : Bool :=
  (allStaged s).any fun e => e.1 != d && decide (e.2.pa < pa + n) && decide (pa < e.2.pa + e.2.size) &&
    decide (e.2.num ≤ vcAt (clockOf s d) e.1) && decide (vcAt x.stamp e.1 < e.2.num)

/-- A staged write holds all of a range with a known value, which a read by its die returns (R364). -/
def stageServes (s : State) (d : Nat) (x : Staged) (pa n : Nat) : Bool :=
  x.atom.isNone && decide (x.pa ≤ pa) && decide (pa + n ≤ x.pa + x.size) && !staleStage s d x pa n

/-- Of the accepted and not yet applied writes to a byte, one that no other follows (R366). -/
def acceptedOn (s : State) (pa : Nat) : Option Staged :=
  ((allStaged s).foldl (fun (c : Option (Nat × Staged)) e =>
    if e.2.accepted && e.2.covers pa then
      match c with
      | none => some e
      | some b => if e.1 = b.1 ∨ b.2.num ≤ vcAt e.2.stamp b.1 then some e else c
    else c) none).map (·.2)

/-- A byte and its poison as an agent of the Cirque reads it: an accepted write, else the home (R48, R366); a
fabric-window byte at the remote home (R65), a host byte in host memory (R24). Of bytes that an accepted, not yet applied
partial write covers the agent takes that write's mark alone, though the flit at the home is poisoned: what such a read
returns the spec leaves open (log 83). -/
def sysByte (s : State) (pa : Nat) : Byte × Bool :=
  match paKind pa with
  | .fabric => (rdByte s.mem.fabric pa, look s.mem.fabricPois (pa / 32) false)
  | .host => (rdByte s.mem.hostMem pa, false)
  | .reserved => (0, false)
  | _ =>
    match acceptedOn s pa with
    | some x => (x.byteAt pa, x.pois)
    | none => homeByte s pa

/-- A byte as an agent of a die reads it: its own die's newest staged write (R364), else at its home, else beyond the
package. -/
def dieByte (s : State) (d pa : Nat) : Byte × Bool :=
  if !(paKind pa).homed then sysByte s pa
  else match newestStaged s d pa with
    | some x => (x.byteAt pa, x.pois)
    | none => homeByte s pa

/-- Bytes and poison as the Cirque reads them. -/
def sysRead (s : State) (pa n : Nat) : List Byte × Bool :=
  let bs := (List.range n).map fun i => sysByte s (pa + i)
  (bs.map (·.1), bs.any (·.2))

/-- Bytes and poison as an agent of a die reads them. -/
def dieRead (s : State) (d pa n : Nat) : List Byte × Bool :=
  let bs := (List.range n).map fun i => dieByte s d (pa + i)
  (bs.map (·.1), bs.any (·.2))

/-- Drops the replicas of a line at once, as a write that originates in the Cirque does when its collapse is over
(R53). -/
def dropReplicas (s : State) (l : Nat) : State :=
  modMem s fun m =>
    { m with replicas := m.replicas.filter fun e => e.1 % 2 ^ 45 != l
             lines := match look? m.lines l with
               | some x => put m.lines l { x with vec := 0 }
               | none => m.lines }

/-! ## Ports and lines that hold an access back (R35, R53, R66) -/

/-- The lane accesses of a slot. -/
def Slot.accs (sl : Slot) : List LaneAcc :=
  match sl.body with
  | .access as _ => as
  | _ => []

/-- The port of a package: the old one while its accesses drain (R66). -/
def portOf (s : State) (p : Nat) : Option Nat := (look? s.links.draining p).orElse fun _ => routePort s p

/-- The fabric accesses in flight or waiting: warp, slot, lane access and package. -/
def fabricAccs (s : State) : List (Nat × Nat × LaneAcc × Nat) :=
  s.warps.flatMap fun e => e.2.slots.flatMap fun sl => sl.accs.filterMap fun a =>
    match a.loc with
    | .fabric pa => if a.done then none else some (e.1, sl.id, a, fabricPkg pa)
    | _ => none

/-- A waiting write of the Cirque's agents goes out on the port of a package (R66). -/
def Posted.onPort (s : State) (x : Posted) (p : Nat) : Bool :=
  paKind x.pa == .fabric && portOf s (fabricPkg x.pa) == portOf s p

/-- An access of an engine or of the Cirque's agents may go out at once: it has no fabric-window address, or nothing that
was injected on its port before is still in flight and its route is not changing (R66). -/
def portFree (s : State) (pa : Nat) : Bool :=
  paKind pa != .fabric ||
    ((look? s.links.draining (fabricPkg pa)).isNone &&
      (fabricAccs s).all (fun e => portOf s e.2.2.2 != portOf s (fabricPkg pa)) &&
      s.mem.posted.all fun x => !x.onPort s (fabricPkg pa))

/-- Two intervals meet. -/
def rangesMeet (a n b m : Nat) : Bool := decide (a < b + m) && decide (b < a + n)

/-- A collapse is under way on a line (R53). -/
def collapsingOn (s : State) (l : Nat) : Bool := s.mem.collapses.any fun c => c.line == l

/-- A write that started a collapse has not been applied yet: reads of its line at the home wait until it has (R53,
R367). -/
def collapsePending (s : State) (l : Nat) : Bool :=
  (allStaged s).any fun e => e.2.collapsing && e.2.pa / 128 == l

/-- A line of a range is being collapsed, or the write that started its collapse has not been performed: reads and later
writes wait (R53). -/
def collapseMeets (s : State) (pa n : Nat) : Bool :=
  (s.mem.collapses.any fun c => rangesMeet (c.line * 128) 128 pa n) ||
    (allStaged s).any fun e => e.2.collapsing && rangesMeet (e.2.pa / 128 * 128) 128 pa n

/-- A waiting write touches a line of a range. -/
def Posted.meets (x : Posted) (pa n : Nat) : Bool :=
  (paKind x.pa).homed && rangesMeet (x.pa / 128 * 128) ((x.pa % 128 + x.data.length + 127) / 128 * 128) pa n

/-- A write of a range passes through its home to a granule that is being moved: it stalls (R35). -/
def movingThru (s : State) (pa n : Nat) (thru : Bool) : Bool :=
  (List.range (n / 128 + 2)).any fun i =>
    let l := pa / 128 + i
    decide (l * 128 < pa + n) && lineMoving s l && passes s (l * 128) thru

/-- A read of a range by an agent of the Cirque must wait (R53, R66). -/
def readWaits (s : State) (pa n : Nat) : Bool :=
  match paKind pa with
  | .fabric => !portFree s pa
  | .host => false
  | .reserved => false
  | _ => collapseMeets s pa n || s.mem.posted.any fun x => x.meets pa n

/-- A write of a range by an agent of the Cirque must wait (R35, R53, R66). -/
def writeWaits (s : State) (pa n : Nat) (thru : Bool) : Bool :=
  readWaits s pa n || ((paKind pa).homed && movingThru s pa n thru)

/-- A read of a range within a line by an agent of a die must wait (R53, R66, R358, R364, R365). -/
def dieWaits (s : State) (d pa n : Nat) : Bool :=
  if !(paKind pa).homed then readWaits s pa n
  else match newestTouching s d pa n with
    | some x => !stageServes s d x pa n
    | none => readWaits s pa n || !sliceCaughtUp s (homeSlice s pa) (clockOf s d)

/-! ## Writes of the Cirque's own agents (R365) -/

/-- Writes bytes at their homes, line by line, in order of arrival and without a stamp (R365); `thru` for a page whose
lines pass through their homes (R47). -/
def sysWriteNow (s : State) (pa : Nat) (bs : List Byte) (pois thru : Bool) (ctx : Option Nat) : State :=
  match paKind pa with
  | .fabric => fabricWrite s pa bs pois
  | .host => modMem s fun m => { m with hostMem := wrBytes m.hostMem pa bs }
  | .reserved => s
  | _ =>
    ((List.range (bs.length / 128 + 2)).foldl (fun (acc : State × Nat × List Byte) _ =>
      let n := min (128 - acc.2.1 % 128) acc.2.2.length
      if n = 0 then acc
      else (dropReplicas (homeWrite acc.1 acc.2.1 (acc.2.2.take n) pois thru ctx) (acc.2.1 / 128),
        acc.2.1 + n, acc.2.2.drop n)) (s, pa, bs)).1

/-- Writes bytes of the Cirque's own agents (fault records, saved contexts, spilled stack entries, host accesses), for a
context where it is one's: at once, or as a write that waits behind a collapse (R53), behind the move of a granule (R35), or
for its port (R66). -/
def sysWrite (s : State) (pa : Nat) (bs : List Byte) (pois : Bool := false) (thru : Bool := false)
    (ctx : Option Nat := none) : State :=
  if writeWaits s pa bs.length thru then
    modMem { s with serial := s.serial + 1 } fun m =>
      { m with posted := m.posted ++ [{ pa := pa, data := bs, pois := pois, thru := thru, ser := s.serial, ctx := ctx }] }
  else sysWriteNow s pa bs pois thru ctx

/-! ## Page tables (R42, R43) -/

/-- The kinds of access that translation checks (R45). -/
inductive AccKind where
  | read | write | fetch
  deriving DecidableEq, Repr

/-- Trap cause numbers (R379). -/
def cILLEGAL_ENC : Nat := 0
def cILLEGAL_RUN : Nat := 1
def cILLEGAL_OPERAND : Nat := 2
def cHAZARD : Nat := 3
def cPRIV : Nat := 4
def cTRAP : Nat := 5
def cBKPT : Nat := 6
def cPAGE : Nat := 7
def cPROT : Nat := 8
def cALIGN : Nat := 9
def cABSENT : Nat := 10
def cPOISON : Nat := 11
def cIDX_RANGE : Nat := 12
def cTBL_STALE : Nat := 13
def cTBL_RANGE : Nat := 14
def cQUEUE_ORPHAN : Nat := 15
def cSTACK_OVF : Nat := 16
def cENGINE_FAULT : Nat := 17
def cARITH : Nat := 18
def cREG_UE : Nat := 19
def cDET_OVERLAP : Nat := 20

/-- The lowest virtual-address bit of a level's index (R42). -/
def levelShift (lv : Nat) : Nat := if lv = 0 then 16 else 12 + 9 * lv

/-- The index bits of a level (R42). -/
def levelBits (lv : Nat) : Nat := if lv = 0 then 5 else if lv = 4 then 8 else 9

/-- Fields of a page-table entry (R43). -/
def pteV (e : Nat) : Bool := bit e 0
def pteL (e : Nat) : Bool := bit e 1
def pteW (e : Nat) : Bool := bit e 2
def pteX (e : Nat) : Bool := bit e 3
def pteP (e : Nat) : Bool := bit e 4
def pteMt (e : Nat) : Nat := bits e 5 2
def pteRm (e : Nat) : Bool := bit e 7
def pteAddr (e : Nat) : Nat := bits e 8 44 * 256

/-- A malformed entry at a level (R43). -/
def pteMalformed (lv e : Nat) : Bool :=
  bits e 56 8 != 0 || pteMt e == 3 ||
  (if pteL e then decide (3 ≤ lv) || pteAddr e % 2 ^ levelShift lv != 0
   else lv == 0 || pteAddr e % (if lv = 1 then 256 else 4096) != 0)

/-- A translation: the page's virtual base, its size and the leaf entry. -/
structure Leaf where
  va : Nat
  size : Nat
  pte : Nat
  deriving DecidableEq, Repr

/-- What a translation gives: a physical address with its leaf entry, or a cause. -/
inductive Tr where
  | ok (pa pte : Nat)
  | bad (cause : Nat)
  deriving DecidableEq, Repr

/-- The walk from a level down (R42 to R45 step 2); a table address that may not be accessed raises ABSENT (R24, R25,
R67). Entries are read at their homes (R44), those at a fabric-window address at o's home (R65). A host-window address has
no home (R47), and the spec does not say what a walk does there: the model's walk reads host memory (log 81). -/
def walkFrom (s : State) (va : Nat) (lv tbl : Nat) : Leaf ⊕ Nat :=
  let ea := tbl + bits va (levelShift lv) (levelBits lv) * 8
  if !present s ea then .inr cABSENT
  else
    let r := sysRead s ea 8
    let e := leNat r.1
    if r.2 then .inr cPOISON
    else if !pteV e || pteMalformed lv e then .inr cPAGE
    else if pteL e then .inl ⟨va / 2 ^ levelShift lv * 2 ^ levelShift lv, 2 ^ levelShift lv, e⟩
    else match lv with
      | 0 => .inr cPAGE
      | n + 1 => walkFrom s va n (pteAddr e)

/-- The five-level walk of a context's table (R42). -/
def walk (s : State) (ctx va : Nat) : Leaf ⊕ Nat :=
  if bits va 56 8 ≠ 0 then .inr cPAGE else walkFrom s va 4 (ctxAt s ctx).ptRoot

/-- The walk of an address meets a table entry whose read must wait (R44, R53, R66). -/
def walkWaitsFrom (s : State) (va : Nat) (lv tbl : Nat) : Bool :=
  let ea := tbl + bits va (levelShift lv) (levelBits lv) * 8
  present s ea && (readWaits s ea 8 ||
    (let r := sysRead s ea 8
     let e := leNat r.1
     !r.2 && pteV e && !pteMalformed lv e && !pteL e &&
      (match lv with
       | 0 => false
       | n + 1 => walkWaitsFrom s va n (pteAddr e))))

/-- The walk of a context's table must wait. -/
def walkWaits (s : State) (ctx va : Nat) : Bool :=
  bits va 56 8 == 0 && walkWaitsFrom s va 4 (ctxAt s ctx).ptRoot

/-- A held entry translates an address. -/
def TlbEntry.covers (t : TlbEntry) (unit ctx va : Nat) : Bool :=
  t.unit == unit && t.ctx == ctx && decide (t.va ≤ va) && decide (va < t.va + t.size)

/-- The translation that a core uses: its TLB, the die's, or a walk of the tables as they stand (R44, R46). -/
def lookupVa (s : State) (core ctx va : Nat) : Leaf ⊕ Nat :=
  if bits va 56 8 ≠ 0 then .inr cPAGE
  else match firstOf (·.covers core ctx va) s.mem.tlb with
    | some t => .inl ⟨t.va, t.size, t.pte.toNat⟩
    | none =>
      match firstOf (·.covers (dieOfCore core) ctx va) s.mem.dieTlb with
      | some t => .inl ⟨t.va, t.size, t.pte.toNat⟩
      | none => walk s ctx va

/-- A core's translation of an address misses both TLBs, and its walk must wait. -/
def transWaits (s : State) (core ctx va : Nat) : Bool :=
  !(s.mem.tlb.any fun t => t.covers core ctx va) && !(s.mem.dieTlb.any fun t => t.covers (dieOfCore core) ctx va) &&
    walkWaits s ctx va

/-- The permission check of a leaf, R45 step 3. -/
def leafAllows (e : Nat) (k : AccKind) (priv : Bool) : Bool :=
  (priv || !pteP e) &&
  match k with
  | .read => true
  | .write => pteW e
  | .fetch => pteX e

/-- The physical address that a leaf gives. -/
def leafPa (l : Leaf) (va : Nat) : Nat := pteAddr l.pte + (va - l.va)

/-- R45 steps 2 to 4 with a given lookup. -/
def checkLeaf (s : State) (va : Nat) (k : AccKind) (priv : Bool) (r : Leaf ⊕ Nat) : Tr :=
  match r with
  | .inr c => .bad c
  | .inl l =>
    if !leafAllows l.pte k priv then .bad cPROT
    else if !present s (leafPa l va) then .bad cABSENT
    else .ok (leafPa l va) l.pte

/-- R45: alignment to the access size, translation, permission and region. -/
def translate (s : State) (core ctx va size : Nat) (k : AccKind) : Tr :=
  if va % size ≠ 0 then .bad cALIGN
  else checkLeaf s va k (ctxAt s ctx).prv (lookupVa s core ctx va)

/-- A translation by the Cirque's own agents, which walk the tables themselves. -/
def sysTranslate (s : State) (ctx va size : Nat) (k : AccKind) (priv : Bool) : Tr :=
  if va % size ≠ 0 then .bad cALIGN else checkLeaf s va k priv (walk s ctx va)

/-- The physical address of a translation. -/
def Tr.pa? (t : Tr) : Option Nat :=
  match t with
  | .ok pa _ => some pa
  | .bad _ => none

/-- A read by an agent of the Cirque at a virtual address must wait: its walk, or the bytes (R53, R66). -/
def vaWaits (s : State) (ctx va n : Nat) : Bool :=
  walkWaits s ctx va || ((sysTranslate s ctx va 1 .read true).pa?.map fun pa => readWaits s pa n).getD false

end Sys2Proof.Machine
end

