-- ==== Sys2Proof/Machine/Energy.lean ====
section
/-! DEFINITION. Energy: what instructions, commands and accesses charge to their contexts (R16, R17, R160, R416, R417). -/

namespace Sys2Proof.Machine

open Sys2Proof

/-! ## Energy (R160, R416) -/

/-- Adds pJ to a context's counter (R416). -/
def addEnergy (s : State) (ctx ctr pj : Nat) : State :=
  modCtx s ctx fun c =>
    { c with energy := putD c.energy ctr 0 (min (look c.energy ctr 0 + pj) (2 ^ 64 * 1000000 - 1)) }

/-- Charges energy beyond the core to a context (R417). -/
def chargeCtx (s : State) (ctx pj : Nat) : State :=
  let e := ((ctxAt s ctx).launch.map (·.ectr)).getD 0
  let s := addEnergy s ctx 0 pj
  if e = 0 then s else addEnergy s ctx e pj

/-- Charges an instruction or command to its cluster's allowance and its context (R160, R350, R417). -/
def charge (s : State) (core ctx pj : Nat) : State :=
  if pj = 0 then s
  else chargeCtx (modCluster s (clusterOfCore core) fun c => { c with cnt := c.cnt - pj }) ctx pj

/-- Charges bytes at a slice, at a tier, across boundaries and on a port; fractions of a pJ are dropped. -/
def chargeBytes (s : State) (ctx slice hbm ddr boundary port : Nat) : State :=
  chargeCtx s ctx (2 * slice + 28 * hbm + 48 * ddr + 24 * boundary / 10 + 12 * port)

/-- The ring boundary between two dies is in service (R7, R15, R18). -/
def ringJoins (s : State) (d e : Nat) : Bool :=
  (e == (d + 1) % 8 && s.links.ring.getLsbD d) || (d == (e + 1) % 8 && s.links.ring.getLsbD e)

/-- Charges bytes that go from a core to another (R17, R417): none within a die; over the ring boundary what goes only
there, where it is in service; else over the two spokes. -/
def chargeCores (s : State) (ctx a b n : Nat) (ring : Bool) : State :=
  if dieOfCore a = dieOfCore b then s
  else chargeBytes s ctx 0 0 0 (if ring && ringJoins s (dieOfCore a) (dieOfCore b) then n else 2 * n) 0

/-! ## Energy beyond the core (R16, R17, R417) -/

/-- The bytes that an access of n bytes at a physical address moves at its tier: a line fill, its own bytes where it
passes through, none where the line is held. -/
def tierBytes (s : State) (pa n : Nat) (thru : Bool) : Nat :=
  if passes s pa thru then n
  else match lineAt s (pa / 128) with
    | some _ => 0
    | none => 128

/-- The compute die of an HBM stack (R6). -/
def dieOfStack (n : Nat) : Nat := if n % 3 = 0 then 2 * (n / 3) else 2 * (n / 3) + 1

/-- The compute die at whose stack a physical address lies; none in the DDR-5 tier (R6, R23). -/
def tierDie (s : State) (pa : Nat) : Option Nat :=
  match chanOf s pa with
  | none => none
  | some (i, c, _) => if i = 9 then none else some (dieOfStack (globalChan i c / 32))

/-- The bytes that cross die boundaries in an access of n bytes by an agent of die d, where b bytes move at the tier (R17):
its own spoke to the slice; with a stack of another die also that die's spoke, or for a copy of two ring neighbours the
ring boundary between them; none to its own stacks. With no die the agent is the Cirque's. R17 puts copies between the two
dies of a ring boundary on it, and all traffic to HBM of another die on the spokes: that a copy from or to a neighbour's HBM
takes the ring is the model's choice (log 29). -/
def crossBytes (s : State) (d : Option Nat) (pa n b : Nat) (copy : Bool) : Nat :=
  match d, (if b = 0 then none else tierDie s pa) with
  | none, none => 0
  | none, some _ => b
  | some _, none => n
  | some d, some e => if d = e then 0 else if copy && ringJoins s d e then b else n + b

/-- Charges an access of n bytes at its home slice. -/
def chargeHome (s : State) (ctx : Nat) (d : Option Nat) (pa n : Nat) (thru copy : Bool) : State :=
  let b := tierBytes s pa n thru
  let x := crossBytes s d pa n b copy
  if paKind pa = .hbm then chargeBytes s ctx n b 0 x 0 else chargeBytes s ctx n 0 b x 0

/-- The bytes of an access beyond the package: to the host port over a spoke, or to a port over a spoke and an edge
boundary (R17, R417). -/
def chargeOut (s : State) (ctx pa n : Nat) : State :=
  match paKind pa with
  | .fabric => chargeBytes s ctx 0 0 0 (2 * n) n
  | .host => chargeBytes s ctx 0 0 0 n 0
  | _ => s


/-- A context is charged a range that an agent of a die reads or writes, line by line (R417). -/
def chargeRange (s : State) (ctx : Nat) (d : Option Nat) (pa n : Nat) (thru : Bool) : State :=
  (List.range (n / 128 + 2)).foldl (fun s i =>
    let lo := max pa ((pa / 128 + i) * 128)
    let m := min (pa + n) ((pa / 128 + i + 1) * 128) - lo
    if m = 0 then s else chargeHome s ctx d lo m thru false) s

/-- A context is charged an access of its agents of a die, none for the Cirque's: at its home slice, or beyond the package
(R417). -/
def chargeAt (s : State) (ctx : Nat) (d : Option Nat) (pa n : Nat) (thru : Bool) : State :=
  if (paKind pa).homed then chargeRange s ctx d pa n thru else chargeOut s ctx pa n

/-- A read that its home has served leaves its line there, charges its context, and its die's clock takes the stamps read
(R47, R365, R417); one that a staged write of the die served does nothing of this. -/
def homeServes (s : State) (ctx d pa n : Nat) (thru copy : Bool) : State :=
  if !(paKind pa).homed then chargeOut s ctx pa n
  else match newestTouching s d pa n with
    | some _ => s
    | none =>
      mergeClock (homeAlloc (chargeHome s ctx (some d) pa n thru copy) pa thru) d (stampOf s pa n)

/-- The pJ of an access of n bytes at a physical address by the microcode of a die, line by line (R17, R417). -/
def microPj (s : State) (d pa n : Nat) (thru : Bool) : Nat :=
  match paKind pa with
  | .fabric => 24 * (2 * n) / 10 + 12 * n
  | .host => 24 * n / 10
  | .reserved => 0
  | k =>
    ((List.range (n / 128 + 2)).map fun i =>
      let lo := max pa ((pa / 128 + i) * 128)
      let m := min (pa + n) ((pa / 128 + i + 1) * 128) - lo
      if m = 0 then 0
      else
        let b := tierBytes s lo m thru
        2 * m + (if k = .hbm then 28 else 48) * b + 24 * crossBytes s (some d) lo m b false / 10).foldl (· + ·) 0

/-- A context is charged the accesses by which the microcode of a die saves or resumes a crew: n bytes of its context area
(R417). -/
def chargeMicro (s : State) (ctx d va n : Nat) (k : AccKind) : State :=
  chargeCtx s ctx (((List.range (n / 4096)).map fun i =>
    match sysTranslate s ctx (va + 4096 * i) 1 k true with
    | .ok pa pte => microPj s d pa 4096 (pteMt pte != 0)
    | .bad _ => 0).foldl (· + ·) 0)

end Sys2Proof.Machine
end

