-- ==== Sys2Proof/Config.lean ====
section
/-! DEFINITION. What the manual leaves to the implementation or leaves open: opaque values, of which nothing can be
proved, so that a claim holds whatever they are. Each is named in the assumption log. -/

namespace Sys2Proof.Config

/-- FEXP2's result bits for an FP32 operand, where R216 gives only a bound (log 5). -/
opaque fexp2 : BitVec 32 → BitVec 32

/-- FLOG2's result bits for an FP32 operand, where R216 gives only a bound (log 5). -/
opaque flog2 : BitVec 32 → BitVec 32

/-- FSIN's result bits for an FP32 operand, where R216 gives only a bound (log 5). -/
opaque fsin : BitVec 32 → BitVec 32

/-- FCOS's result bits for an FP32 operand, where R216 gives only a bound (log 5). -/
opaque fcos : BitVec 32 → BitVec 32

/-- The n-th byte that the manual leaves unspecified, such as what a program reads from a spill area (R111)
(log 6). -/
opaque freeByte : Nat → Byte

/-- The SHA3-384 digest of the certificate chain in a slot (R430; the chain is not in the manual, log 8). -/
opaque certDigest : Nat → List Byte

/-- The certificate chain in a slot (R429, R430, log 8). -/
opaque certChain : Nat → List Byte

/-- The device's ECDSA P-384 signature over a transcript (R430, log 8). -/
opaque signature : List Byte → List Byte

/-- The SHAKE256 digest of firmware image A (false) or B (true) (R430, log 8). -/
opaque imageDigest : Bool → List Byte

/-- The fused rollback counter (R428, R430, log 8). -/
opaque rollback : Nat

end Sys2Proof.Config
end

