-- ==== Sys2Proof/Machine/IntElem.lean ====
section
/-! DEFINITION. What the integer lane instructions compute on one element (R193 to R202): from the element bits of
A, B and D, the result before reduction to the element size, and the flags. -/

namespace Sys2Proof.Machine

open Sys2Proof

/-- The element size z in bytes (R115). -/
def tySize (t : IntTy) : Nat :=
  match t with
  | .s8 => 1
  | .n8 => 1
  | .s16 => 2
  | .n16 => 2
  | .s32 => 4
  | .n32 => 4
  | .s64 => 8
  | .n64 => 8

/-- Whether a type is an s type (R115). -/
def tySigned (t : IntTy) : Bool :=
  match t with
  | .s8 => true
  | .s16 => true
  | .s32 => true
  | .s64 => true
  | _ => false

/-- The element width N in bits. -/
def tyBits (t : IntTy) : Nat := 8 * tySize t

/-- x taken as an n-bit two's-complement value (R167 `sext`). -/
def sext (n x : Nat) : Int := if 2 ^ (n - 1) ≤ x % 2 ^ n ∧ n ≠ 0 then (x % 2 ^ n : Nat) - (2 ^ n : Nat) else (x % 2 ^ n : Nat)

/-- The low n bits of an integer. -/
def wrap (n : Nat) (i : Int) : Nat := (i % (2 ^ n : Nat)).toNat

/-- V(x): an element read under its type (R193). -/
def val (t : IntTy) (x : Nat) : Int := if tySigned t then sext (tyBits t) x else (x % 2 ^ tyBits t : Nat)

/-- The smallest value of a type (R115). -/
def tyMin (t : IntTy) : Int := if tySigned t then -(2 ^ (tyBits t - 1) : Nat) else 0

/-- The largest value of a type (R115). -/
def tyMax (t : IntTy) : Int :=
  if tySigned t then (2 ^ (tyBits t - 1) : Nat) - 1 else (2 ^ tyBits t : Nat) - 1

/-- The exact value limited to the type's range, with SAT where that changes it (R116, R194). -/
def clamp (t : IntTy) (i : Int) : Nat × Flags :=
  if i < tyMin t then (wrap (tyBits t) (tyMin t), fSAT)
  else if tyMax t < i then (wrap (tyBits t) (tyMax t), fSAT)
  else (wrap (tyBits t) i, 0)

/-- An exact integer reduced to the element, without flags (R193). -/
def exact (t : IntTy) (i : Int) : Nat × Flags := (wrap (tyBits t) i, 0)

/-- Element bits without flags. -/
def plain (x : Nat) : Nat × Flags := (x, 0)

/-- A whole-element mask (R201). -/
def maskIf (t : IntTy) (b : Bool) : Nat × Flags := (if b then 2 ^ tyBits t - 1 else 0, 0)

/-- What one element of an integer instruction computes: from the elements x of A, y of B and w of D. -/
abbrev ElemOp := Nat → Nat → Nat → Nat × Flags

def eAdd (t : IntTy) : ElemOp := fun x y _ => exact t (x + y)

def eSub (t : IntTy) : ElemOp := fun x y _ => exact t ((x : Int) - y)

def eAdds (t : IntTy) : ElemOp := fun x y _ => clamp t (val t x + val t y)

def eSubs (t : IntTy) : ElemOp := fun x y _ => clamp t (val t x - val t y)

def eMul (t : IntTy) : ElemOp := fun x y _ => exact t (val t x * val t y)

/-- IMULH: the floor of the product over 2^N (R194). -/
def eMulh (t : IntTy) : ElemOp := fun x y _ => exact t (val t x * val t y / (2 ^ tyBits t : Nat))

def eMad (t : IntTy) : ElemOp := fun x y w => exact t (w + val t x * val t y)

def eMin (t : IntTy) : ElemOp := fun x y _ => plain (if val t x ≤ val t y then x else y)

def eMax (t : IntTy) : ElemOp := fun x y _ => plain (if val t y ≤ val t x then x else y)

def eAbs (t : IntTy) : ElemOp := fun x _ _ => exact t (val t x).natAbs

def eNeg (t : IntTy) : ElemOp := fun x _ _ => exact t (-val t x)

def eAnd : ElemOp := fun x y _ => plain (x &&& y)

def eOr : ElemOp := fun x y _ => plain (x ||| y)

def eXor : ElemOp := fun x y _ => plain (x ^^^ y)

/-- The bits of x that y does not hold. -/
def andNot (x y : Nat) : Nat := x ^^^ (x &&& y)

def eAndn : ElemOp := fun x y _ => plain (andNot x y)

/-- SEL: D is the bitwise mask (R195). -/
def eSel : ElemOp := fun x y w => plain ((w &&& x) ||| andNot y w)

def eMov : ElemOp := fun x _ _ => plain x

/-- MOVI: the immediate (R202). -/
def eMovi : ElemOp := fun _ y _ => plain y

/-- SHL (R196). -/
def eShl (t : IntTy) : ElemOp := fun x q _ => plain (if q < tyBits t then x * 2 ^ q % 2 ^ tyBits t else 0)

/-- SHR: always logical (R196). -/
def eShr (t : IntTy) : ElemOp := fun x q _ => plain (if q < tyBits t then x / 2 ^ q else 0)

/-- SRA: always arithmetic (R196). -/
def eSra (t : IntTy) : ElemOp := fun x q _ =>
  if q < tyBits t then exact t (sext (tyBits t) x / (2 ^ q : Nat)) else maskIf t (decide (sext (tyBits t) x < 0))

/-- ROT: left by q mod N (R196). -/
def eRot (t : IntTy) : ElemOp := fun x q _ =>
  let r := q % tyBits t
  plain (x * 2 ^ r % 2 ^ tyBits t ||| x / 2 ^ (tyBits t - r))

/-- The number of 1 bits among the low n bits. -/
def popcount (n x : Nat) : Nat :=
  match n with
  | 0 => 0
  | n + 1 => x % 2 + popcount n (x / 2)

/-- The number of 0 bits below the lowest 1 bit, n where the low n bits are zero. -/
def trailZeros (n x : Nat) : Nat :=
  match n with
  | 0 => 0
  | n + 1 => if x % 2 = 1 then 0 else 1 + trailZeros n (x / 2)

/-- The low n bits in reverse order. -/
def revBits (n x : Nat) : Nat :=
  match n with
  | 0 => 0
  | n + 1 => x % 2 * 2 ^ n + revBits n (x / 2)

def ePopc (t : IntTy) : ElemOp := fun x _ _ => plain (popcount (tyBits t) x)

def eClz (t : IntTy) : ElemOp := fun x _ _ => plain (if x = 0 then tyBits t else tyBits t - 1 - Nat.log2 x)

def eCtz (t : IntTy) : ElemOp := fun x _ _ => plain (trailZeros (tyBits t) x)

def eBrev (t : IntTy) : ElemOp := fun x _ _ => plain (revBits (tyBits t) x)

/-- The field position y[7:0] (R199). -/
def bfPos (y : Nat) : Nat := y % 256

/-- The field length c′ = min(y[15:8], N) (R199). -/
def bfLen (t : IntTy) (y : Nat) : Nat := min (y / 256 % 256) (tyBits t)

/-- The zero-extended field (R199). -/
def bfExtract (t : IntTy) (x y : Nat) : Nat :=
  if bfPos y < tyBits t then x / 2 ^ bfPos y % 2 ^ bfLen t y else 0

def eBfx (t : IntTy) : ElemOp := fun x y _ => plain (bfExtract t x y)

/-- BFXS: the sign is bit c′ − 1 of the zero-filled field (R199). -/
def eBfxs (t : IntTy) : ElemOp := fun x y _ => exact t (sext (bfLen t y) (bfExtract t x y))

/-- BFI (R199). -/
def eBfi (t : IntTy) : ElemOp := fun x y w =>
  let p := bfPos y
  let m := 2 ^ bfLen t y - 1
  plain (if p < tyBits t then (andNot w (m * 2 ^ p) ||| (x &&& m) * 2 ^ p) % 2 ^ tyBits t else w)

def eSeteq (t : IntTy) : ElemOp := fun x y _ => maskIf t (x == y)

def eSetne (t : IntTy) : ElemOp := fun x y _ => maskIf t (x != y)

def eSetlt (t : IntTy) : ElemOp := fun x y _ => maskIf t (decide (val t x < val t y))

def eSetle (t : IntTy) : ElemOp := fun x y _ => maskIf t (decide (val t x ≤ val t y))

def eSetgt (t : IntTy) : ElemOp := fun x y _ => maskIf t (decide (val t y < val t x))

def eSetge (t : IntTy) : ElemOp := fun x y _ => maskIf t (decide (val t y ≤ val t x))

def eTest (t : IntTy) : ElemOp := fun x y _ => maskIf t ((x &&& y) != 0)

/-- The index of a LEA register: 64 bits whole, else the low 32 bits extended by the type (R200). -/
def leaIndex (t : IntTy) (b : Nat) : Int :=
  if tySize t = 8 then b else if tySigned t then sext 32 b else (b % 2 ^ 32 : Nat)

/-- LEA on one register (R200). -/
def eLea (t : IntTy) : ElemOp := fun a b _ => (wrap 64 (a + leaIndex t b * tySize t), 0)

/-! ## Elements of a group value (R104, R193) -/

/-- Element k of width n (R167 `elem`). -/
def elem (n x k : Nat) : Nat := x / 2 ^ (k * n) % 2 ^ n

/-- The elements of width n, element 0 first. -/
def elems (n count x : Nat) : List Nat := (List.range count).map (elem n x)

/-- A group value from its elements, element 0 in the low bits. -/
def joinElems (n : Nat) (es : List Nat) : Nat :=
  match es with
  | [] => 0
  | e :: es => e % 2 ^ n + 2 ^ n * joinElems n es

/-- R193's loop over the elements of one lane: the result group and the flags of its elements. -/
def mapElems (n count : Nat) (op : ElemOp) (a b d : Nat) : Nat × Flags :=
  let rs := (List.range count).map fun k => op (elem n a k) (elem n b k) (elem n d k)
  (joinElems n (rs.map (·.1)), orFlags (rs.map (·.2)))

/-- A value replicated into every element (R103, R140, R202). -/
def splat (n count x : Nat) : Nat := joinElems n (List.replicate count x)

end Sys2Proof.Machine
end

