-- ==== Sys2Proof/Machine/Num.lean ====
section
/-! DEFINITION. The float formats of R117, exact arithmetic on their values, and the one rounding operation of
R136 under R120, R119 and R123. -/

namespace Sys2Proof.Machine

open Sys2Proof

/-- A float format (R117): exponent bits, fraction bits, bias; whether it has infinities, and whether it has
signalling NaNs and obeys FTZ (R118, R119: h, bf, f and d). -/
structure Fmt where
  eb : Nat
  fb : Nat
  bias : Nat
  hasInf : Bool
  ieee : Bool
  deriving DecidableEq, Repr

/-- R117's table. -/
def fmtOf (t : FltTy) : Fmt :=
  match t with
  | .h => ⟨5, 10, 15, true, true⟩
  | .bf => ⟨8, 7, 127, true, true⟩
  | .f => ⟨8, 23, 127, true, true⟩
  | .e4 => ⟨4, 3, 7, false, false⟩
  | .e5 => ⟨5, 2, 15, true, false⟩
  | .d => ⟨11, 52, 1023, true, true⟩

/-- The width of a format in bits. -/
def fmtBits (f : Fmt) : Nat := 1 + f.eb + f.fb

/-- The magnitude bits of an all-ones exponent field: infinity, where the format has one. -/
def infCode (f : Fmt) : Nat := (2 ^ f.eb - 1) * 2 ^ f.fb

/-- The magnitude bits of the largest finite value (R117). -/
def maxCode (f : Fmt) : Nat := if f.hasInf then infCode f - 1 else 2 ^ (f.eb + f.fb) - 2

/-- The canonical NaN (R117). -/
def canonNan (f : Fmt) : Nat := if f.hasInf then infCode f + 2 ^ (f.fb - 1) else 2 ^ (f.eb + f.fb) - 1

/-- The bits of a sign and a magnitude. -/
def signed (f : Fmt) (neg : Bool) (c : Nat) : Nat := if neg then 2 ^ (f.eb + f.fb) + c else c

/-- A float value: a NaN, an infinity, or (−1)^neg × m × 2^e, zero where m = 0. -/
inductive FVal where
  | nan (neg sig : Bool)
  | inf (neg : Bool)
  | fin (neg : Bool) (m : Nat) (e : Int)
  deriving DecidableEq, Repr

/-- The value of the bits of a format; with `ftz`, a subnormal of an IEEE format reads as zero (R119). -/
def unpack (f : Fmt) (ftz : Bool) (x : Nat) : FVal :=
  let neg := x / 2 ^ (f.eb + f.fb) % 2 == 1
  let c := x % 2 ^ (f.eb + f.fb)
  let fr := c % 2 ^ f.fb
  let ef := c / 2 ^ f.fb
  if maxCode f < c then
    if f.hasInf && fr == 0 then .inf neg else .nan neg (f.ieee && fr < 2 ^ (f.fb - 1))
  else if ef = 0 then
    if ftz && f.ieee then .fin neg 0 0 else .fin neg fr (1 - (f.bias : Int) - f.fb)
  else .fin neg (2 ^ f.fb + fr) ((ef : Int) - f.bias - f.fb)

def FVal.isNan (v : FVal) : Bool :=
  match v with
  | .nan _ _ => true
  | _ => false

def FVal.isSig (v : FVal) : Bool :=
  match v with
  | .nan _ s => s
  | _ => false

def FVal.isInf (v : FVal) : Bool :=
  match v with
  | .inf _ => true
  | _ => false

def FVal.isZero (v : FVal) : Bool :=
  match v with
  | .fin _ m _ => m == 0
  | _ => false

def FVal.neg (v : FVal) : Bool :=
  match v with
  | .nan n _ => n
  | .inf n => n
  | .fin n _ _ => n

/-- The value with its sign inverted. -/
def FVal.negate (v : FVal) : FVal :=
  match v with
  | .nan n s => .nan (!n) s
  | .inf n => .inf (!n)
  | .fin n m e => .fin (!n) m e

/-- Whether a discarded part, at least half an ulp by `half` and more than `half` by `more`, rounds the magnitude
up (R120). -/
def roundsUp (rm : RMode) (neg odd half more some : Bool) : Bool :=
  match rm with
  | .rne => half && (more || odd)
  | .rz => false
  | .rd => neg && some
  | .ru => !neg && some

/-- m × 2^−sh rounded to an integer, where `sticky` says that the exact value exceeds m × 2^−sh by less than one
unit of m; and whether the result is inexact. -/
def roundShift (rm : RMode) (neg sticky : Bool) (m sh : Nat) : Nat × Bool :=
  let n := m / 2 ^ sh
  let r := 2 * (m % 2 ^ sh)
  let inx := sticky || r != 0
  (if roundsUp rm neg (n % 2 == 1) (decide (2 ^ sh ≤ r)) (sticky || decide (2 ^ sh < r)) inx then n + 1 else n,
    inx)

/-- m × 2^e as an integer, exactly where e is not negative. -/
def scaleUp (m : Nat) (e : Int) : Nat := m * 2 ^ e.toNat

/-- The result of an overflow (R123): the bits beyond the largest finite value. -/
def overflowCode (f : Fmt) (rm : RMode) (sat neg : Bool) : Nat :=
  if sat then maxCode f
  else if !f.hasInf then canonNan f
  else if roundsUp rm neg true true true true then infCode f
  else maxCode f

/-- R136 `round_to`: the bits and the flags of a value rounded to a format. `sat` acts on FP8 only (R123); `ftz`
flushes results of the IEEE formats (R119); `sticky` as in `roundShift`, for a value known only to lie just above
m × 2^e. -/
def roundTo (f : Fmt) (rm : RMode) (ftz sat : Bool) (v : FVal) (sticky : Bool := false) : Nat × Flags :=
  let sat := sat && !f.ieee
  match v with
  | .nan neg sig =>
    if f.hasInf || sat then (canonNan f, flagIf sig fNV) else (signed f neg (canonNan f), fNV)
  | .inf neg =>
    if sat then (signed f neg (maxCode f), 0)
    else if f.hasInf then (signed f neg (infCode f), 0)
    else (signed f neg (canonNan f), fNV)
  | .fin neg m e =>
    if m = 0 then (signed f neg 0, 0)
    else
      let qmin : Int := 1 - (f.bias : Int) - f.fb
      let q : Int := max ((Nat.log2 m : Int) + e - f.fb) qmin
      let r :=
        if q ≤ e then roundShift rm neg sticky (m * 2 ^ (e - q).toNat) 0
        else roundShift rm neg sticky m (q - e).toNat
      let c := (q - qmin).toNat * 2 ^ f.fb + r.1
      if maxCode f < c then (signed f neg (overflowCode f rm sat neg), fOF ||| fNX)
      else if ftz && f.ieee && c != 0 && decide (c < 2 ^ f.fb) then (signed f neg 0, fUF ||| fNX)
      else (signed f neg c, flagIf r.2 fNX ||| flagIf (r.2 && decide (c < 2 ^ f.fb)) fUF)

/-! ## Exact arithmetic -/

/-- The signed integer (−1)^neg × m. -/
def sgn (neg : Bool) (m : Nat) : Int := if neg then -(m : Int) else m

/-- The exact value i × 2^e; a zero takes the sign `zneg`. -/
def ofScaled (zneg : Bool) (i : Int) (e : Int) : FVal :=
  if i = 0 then .fin zneg 0 0 else .fin (decide (i < 0)) i.natAbs e

/-- The exact sum (R213): an exact zero is +0 except in RD, and two zeros of one sign keep it. -/
def addVal (rm : RMode) (x y : FVal) : FVal × Flags :=
  let nv := flagIf (x.isSig || y.isSig) fNV
  match x, y with
  | .fin nx mx ex, .fin ny my ey =>
    if mx = 0 && my = 0 then (.fin (if nx == ny then nx else rm == .rd) 0 0, 0)
    else
      let e := min ex ey
      (ofScaled (rm == .rd) (sgn nx (scaleUp mx (ex - e)) + sgn ny (scaleUp my (ey - e))) e, 0)
  | .inf nx, .inf ny => if nx == ny then (.inf nx, 0) else (.nan false false, fNV)
  | .inf nx, .fin _ _ _ => (.inf nx, 0)
  | .fin _ _ _, .inf ny => (.inf ny, 0)
  | _, _ => (.nan false false, nv)

/-- The exact product (R213): a zero takes the XOR of the signs. -/
def mulVal (x y : FVal) : FVal × Flags :=
  let nv := flagIf (x.isSig || y.isSig) fNV
  match x, y with
  | .fin nx mx ex, .fin ny my ey => (.fin (nx != ny) (mx * my) (ex + ey), 0)
  | .inf nx, .inf ny => (.inf (nx != ny), 0)
  | .inf nx, .fin ny my _ => if my = 0 then (.nan false false, fNV) else (.inf (nx != ny), 0)
  | .fin nx mx _, .inf ny => if mx = 0 then (.nan false false, fNV) else (.inf (nx != ny), 0)
  | _, _ => (.nan false false, nv)

/-- The order of two values, none with a NaN; −0 equals +0 (R219). -/
def cmpVal (x y : FVal) : Option Ordering :=
  match x, y with
  | .nan _ _, _ => none
  | _, .nan _ _ => none
  | .inf a, .inf b => some (if a == b then .eq else if a then .lt else .gt)
  | .inf a, .fin _ _ _ => some (if a then .lt else .gt)
  | .fin _ _ _, .inf b => some (if b then .gt else .lt)
  | .fin nx mx ex, .fin ny my ey =>
    let e := min ex ey
    some (compare (sgn nx (scaleUp mx (ex - e))) (sgn ny (scaleUp my (ey - e))))

/-- The exact value of an integer. -/
def intVal (i : Int) : FVal := ofScaled false i 0

/-- A constant −8 to 7 converted exactly into a float format (R140). -/
def fltConst (f : Fmt) (i : Int) : Nat := (roundTo f .rne false false (intVal i)).1

/-- The value rounded to FP32 with RNE, subnormals exact (R136 `rne_f32`). -/
def rneF32 (v : FVal) : Nat × Flags := roundTo (fmtOf .f) .rne false false v

/-- The value of FP32 bits. -/
def f32Val (x : Nat) : FVal := unpack (fmtOf .f) false x

/-- R250 `add_f32`. -/
def addF32 (x y : Nat) : Nat × Flags :=
  let s := addVal .rne (f32Val x) (f32Val y)
  let r := rneF32 s.1
  (r.1, s.2 ||| r.2)

/-! ## Dot products (R127 to R129) -/

/-- floor(log2 |p|) of a non-zero finite value. -/
def exp2Of (m : Nat) (e : Int) : Int := (Nat.log2 m : Int) + e

/-- Truncation toward zero of m × 2^e to a multiple of 2^lsb, in units of 2^lsb (R136 `align_trunc`). -/
def alignTrunc (m : Nat) (e lsb : Int) : Nat :=
  if lsb ≤ e then m * 2 ^ (e - lsb).toNat else m / 2 ^ (lsb - e).toNat

/-- Non-zero finite products as sign, magnitude and exponent. -/
def nzFinite (ps : List FVal) : List (Bool × Nat × Int) :=
  ps.filterMap fun p =>
    match p with
    | .fin n m e => if m = 0 then none else some (n, m, e)
    | _ => none

/-- The sum of finite products in units of 2^lsb after truncation. -/
def truncSum (lsb : Int) (nz : List (Bool × Nat × Int)) : Int :=
  nz.foldl (fun s p => s + sgn p.1 (alignTrunc p.2.1 p.2.2 lsb)) 0

/-- R128 and R129 `group_sum16`: the FP32 bits and flags of one group's products, given the flags that forming
them raised and whether an operand came from a NaN block. NX and UF are taken against the exact sum (R128). -/
def groupSum (ps : List FVal) (sn : Bool) : Nat × Flags :=
  if ps.any FVal.isNan || (ps.any (· == .inf false) && ps.any (· == .inf true)) then
    (canonNan (fmtOf .f), fNV ||| flagIf sn fSN)
  else if ps.any (· == .inf false) then (signed (fmtOf .f) false (infCode (fmtOf .f)), 0)
  else if ps.any (· == .inf true) then (signed (fmtOf .f) true (infCode (fmtOf .f)), 0)
  else
    match nzFinite ps with
    | [] => (0, 0)
    | p :: nz =>
      let emax := nz.foldl (fun a q => max a (exp2Of q.2.1 q.2.2)) (exp2Of p.2.1 p.2.2)
      let emin := nz.foldl (fun a q => min a q.2.2) (min p.2.2 (emax - 38))
      let s := truncSum (emax - 38) (p :: nz)
      let exact := truncSum emin (p :: nz)
      let r := rneF32 (ofScaled false s (emax - 38))
      let inx := cmpVal (f32Val r.1) (ofScaled false exact emin) != some .eq
      (r.1, (r.2 &&& fOF) ||| flagIf inx fNX |||
        flagIf (inx && exact != 0 && decide (r.1 % 2 ^ 31 < 2 ^ 23)) fUF)

end Sys2Proof.Machine
end

