-- ==== Sys2Proof/Machine/FltElem.lean ====
section
/-! DEFINITION. What the float lane instructions compute on one element (R213 to R224): from the element bits, the
result bits and the flags. The bounded functions of R216 take a free value of Config and keep to the bound. -/

namespace Sys2Proof.Machine

open Sys2Proof

/-- The numeric modes of a warp: RM and FTZ of aflags (R120, R121). -/
structure NumMode where
  rm : RMode
  ftz : Bool
  deriving DecidableEq, Repr

/-- The element size of a float type in bits (R211). -/
def fltBits (t : FltTy) : Nat := fmtBits (fmtOf t)

/-- A result rounded to the type under the warp's modes, with the flags of the exact operation. -/
def roundOp (t : FltTy) (m : NumMode) (v : FVal × Flags) : Nat × Flags :=
  let r := roundTo (fmtOf t) m.rm m.ftz false v.1
  (r.1, v.2 ||| r.2)

/-- An operand of a lane instruction (R119). -/
def operand (t : FltTy) (m : NumMode) (x : Nat) : FVal := unpack (fmtOf t) m.ftz x

def eFadd (t : FltTy) (m : NumMode) : ElemOp := fun x y _ =>
  roundOp t m (addVal m.rm (operand t m x) (operand t m y))

def eFsub (t : FltTy) (m : NumMode) : ElemOp := fun x y _ =>
  roundOp t m (addVal m.rm (operand t m x) (operand t m y).negate)

def eFmul (t : FltTy) (m : NumMode) : ElemOp := fun x y _ =>
  roundOp t m (mulVal (operand t m x) (operand t m y))

/-- FFMA: the product is not rounded (R213). -/
def eFfma (t : FltTy) (m : NumMode) : ElemOp := fun x y w =>
  let p := mulVal (operand t m x) (operand t m y)
  let s := addVal m.rm (operand t m w) p.1
  roundOp t m (s.1, p.2 ||| s.2)

/-- The bits of an operand as FMIN and FMAX return it: a flushed subnormal is the zero it reads as (R215). -/
def asRead (t : FltTy) (m : NumMode) (x : Nat) : Nat :=
  match operand t m x with
  | .fin n 0 _ => signed (fmtOf t) n 0
  | _ => x

/-- The order of R215: −0 is less than +0. -/
def strictLt (x y : FVal) : Bool :=
  match cmpVal x y with
  | some .lt => true
  | some .eq => x.isZero && y.isZero && x.neg && !y.neg
  | _ => false

/-- FMIN, or FMAX with `big` (R215). -/
def minMax (t : FltTy) (m : NumMode) (big : Bool) (x y : Nat) : Nat × Flags :=
  let a := operand t m x
  let b := operand t m y
  let nv := flagIf (a.isSig || b.isSig) fNV
  if a.isNan && b.isNan then (canonNan (fmtOf t), nv)
  else if a.isNan then (asRead t m y, nv)
  else if b.isNan then (asRead t m x, nv)
  else if (if big then strictLt a b else strictLt b a) then (asRead t m y, nv)
  else (asRead t m x, nv)

def eFmin (t : FltTy) (m : NumMode) : ElemOp := fun x y _ => minMax t m false x y

def eFmax (t : FltTy) (m : NumMode) : ElemOp := fun x y _ => minMax t m true x y

/-- FABS: the sign bit cleared (R215). -/
def eFabs (t : FltTy) : ElemOp := fun x _ _ => plain (x % 2 ^ (fltBits t - 1))

/-- FNEG: the sign bit inverted (R215). -/
def eFneg (t : FltTy) : ElemOp := fun x _ _ => plain (x ^^^ 2 ^ (fltBits t - 1))

/-- A compare (R219): `anyNan` where any NaN sets NV; `un` is the result when unordered. -/
def fltCmp (t : FltTy) (m : NumMode) (anyNan un : Bool) (holds : Ordering → Bool) : ElemOp := fun x y _ =>
  let a := operand t m x
  let b := operand t m y
  let nv := flagIf (a.isSig || b.isSig || (anyNan && (a.isNan || b.isNan))) fNV
  let r :=
    match cmpVal a b with
    | some o => holds o
    | none => un
  (if r then 2 ^ fltBits t - 1 else 0, nv)

def eFseteq (t : FltTy) (m : NumMode) : ElemOp := fltCmp t m false false (· == .eq)

def eFsetne (t : FltTy) (m : NumMode) : ElemOp := fltCmp t m false true (· != .eq)

def eFsetlt (t : FltTy) (m : NumMode) : ElemOp := fltCmp t m true false (· == .lt)

def eFsetle (t : FltTy) (m : NumMode) : ElemOp := fltCmp t m true false (· != .gt)

def eFsetgt (t : FltTy) (m : NumMode) : ElemOp := fltCmp t m true false (· == .gt)

def eFsetge (t : FltTy) (m : NumMode) : ElemOp := fltCmp t m true false (· != .lt)

def eFsetun (t : FltTy) (m : NumMode) : ElemOp := fltCmp t m false true (fun _ => false)

/-- FCLASS: the class code (R220). -/
def eFclass (t : FltTy) : ElemOp := fun x _ _ =>
  match unpack (fmtOf t) false x with
  | .nan _ sig => plain (if sig then 8 else 9)
  | .inf n => plain (if n then 0 else 7)
  | .fin n m _ =>
    if m = 0 then plain (if n then 3 else 4)
    else if m < 2 ^ (fmtOf t).fb then plain (if n then 2 else 5)
    else plain (if n then 1 else 6)

/-- FRND: an integral value of the same format, with the sign of x (R218). A value below 1 that rounds to zero sets NX and no
UF: R218 names NV and NX only, and that R122's condition for UF does not apply is the model's choice (log 106). -/
def eFrnd (t : FltTy) (m : NumMode) : ElemOp := fun x _ _ =>
  match operand t m x with
  | .nan _ sig => (canonNan (fmtOf t), flagIf sig fNV)
  | .inf _ => plain x
  | .fin n k e =>
    if k = 0 then plain (signed (fmtOf t) n 0)
    else if 0 ≤ e then plain x
    else
      let r := roundShift m.rm n false k (-e).toNat
      ((roundTo (fmtOf t) .rne false false (.fin n r.1 0)).1, flagIf r.2 fNX)

/-! ## Conversions (R123, R222) -/

/-- Float to integer (R123). -/
def toInt (t : IntTy) (rm : RMode) (v : FVal) : Nat × Flags :=
  match v with
  | .nan _ _ => (0, fNV)
  | .inf n => (wrap (tyBits t) (if n then tyMin t else tyMax t), fNV)
  | .fin n k e =>
    let r := if 0 ≤ e then (k * 2 ^ e.toNat, false) else roundShift rm n false k (-e).toNat
    let i := sgn n r.1
    if tyMax t < i then (wrap (tyBits t) (tyMax t), fNV)
    else if i < tyMin t then (wrap (tyBits t) (tyMin t), fNV)
    else (wrap (tyBits t) i, flagIf r.2 fNX)

/-- The size of a CVT type in bytes. -/
def numSize (t : NumTy) : Nat :=
  match t with
  | .int t => tySize t
  | .flt t => fltBits t / 8

/-- A float element converted to its own type: unchanged, but a NaN becomes canonical and FTZ flushes a subnormal
(R222). -/
def sameFlt (f : Fmt) (ftz : Bool) (x : Nat) : Nat × Flags :=
  match unpack f false x with
  | .nan _ sig => (canonNan f, flagIf sig fNV)
  | .inf _ => (x, 0)
  | .fin n _ _ =>
    let c := x % 2 ^ (f.eb + f.fb)
    if ftz && f.ieee && decide (c < 2 ^ f.fb) && c != 0 then (signed f n 0, 0) else (x, 0)

/-- One element of CVT (R123, R222): FTZ acts only between h, bf, f and d. -/
def convert (src dst : NumTy) (rm : RMode) (sat ftz : Bool) (x : Nat) : Nat × Flags :=
  match src, dst with
  | .int s, .int t => plain (wrap (tyBits t) (val s x))
  | .int s, .flt t => roundTo (fmtOf t) rm false sat (intVal (val s x))
  | .flt s, .int t => toInt t rm (unpack (fmtOf s) false x)
  | .flt s, .flt t =>
    if s = t then sameFlt (fmtOf s) ftz x
    else
    let z := ftz && (fmtOf s).ieee && (fmtOf t).ieee
    roundTo (fmtOf t) rm z sat (unpack (fmtOf s) z x)

/-- One lane of CVT: n elements of `zs` bytes into n elements of `zd` bytes, the rest zero (R222). -/
def convertLane (src dst : NumTy) (rm : RMode) (sat ftz : Bool) (g a : Nat) : Nat × Flags :=
  let n := 8 * g / max (numSize src) (numSize dst)
  let rs := (List.range n).map fun k => convert src dst rm sat ftz (elem (8 * numSize src) a k)
  (joinElems (8 * numSize dst) (rs.map (·.1)), orFlags (rs.map (·.2)))

/-- F8PK on one lane: four BF16 elements of A, then four of B, saturating (R223). -/
def f8Pack (e5 : Bool) (rm : RMode) (a b : Nat) : Nat × Flags :=
  let f := fmtOf (if e5 then .e5 else .e4)
  let rs := (elems 16 4 a ++ elems 16 4 b).map fun x => roundTo f rm false true (unpack (fmtOf .bf) false x)
  (joinElems 8 (rs.map (·.1)), orFlags (rs.map (·.2)))

/-- F8UNPK on one lane: FP8 elements 4h to 4h + 3 exactly into BF16 (R224). -/
def f8Unpack (e5 h : Bool) (a : Nat) : Nat :=
  let f := fmtOf (if e5 then .e5 else .e4)
  joinElems 16 ((elems 8 4 (if h then a / 2 ^ 32 else a)).map fun x =>
    (roundTo (fmtOf .bf) .rne false false (unpack f false x)).1)

/-! ## Reciprocals and roots, rounded correctly (R216) -/

/-- The integer square root, by bits from 2^k down. -/
def isqrtFrom (k n r : Nat) : Nat :=
  match k with
  | 0 => r
  | k + 1 =>
    let r' := r + 2 ^ k
    isqrtFrom k n (if r' * r' ≤ n then r' else r)

/-- The integer square root. -/
def isqrt (n : Nat) : Nat := isqrtFrom (Nat.log2 n / 2 + 1) n 0

/-- Whether an integer is odd. -/
def oddInt (e : Int) : Bool := e % 2 != 0

/-- 1/x of a finite non-zero x, as a value with a sticky rest. -/
def recip (n : Bool) (m : Nat) (e : Int) : FVal × Bool :=
  let k := Nat.log2 m + 64
  (.fin n (2 ^ k / m) (-(k : Int) - e), 2 ^ k % m != 0)

/-- √x of a finite non-zero x, with a sticky rest. -/
def root (m : Nat) (e : Int) : FVal × Bool :=
  let m' := if oddInt e then m * 2 ^ 129 else m * 2 ^ 128
  let e' := if oddInt e then e - 129 else e - 128
  let r := isqrt m'
  (.fin false r (e' / 2), r * r != m')

/-- 1/√x of a finite non-zero x, with a sticky rest. -/
def recipRoot (m : Nat) (e : Int) : FVal × Bool :=
  let k := 2 * (Nat.log2 m / 2) + 130
  let k' := if oddInt e then k + 1 else k
  let r := isqrt (2 ^ k' / m)
  (.fin false r ((-(k' : Int) - e) / 2), r * r * m != 2 ^ k')

/-! ## Bounded functions (R216): fixed-point approximations with 2^−192 units -/

/-- The unit of the fixed-point approximations. -/
def fxBits : Nat := 192

/-- A non-negative fixed-point product. -/
def fxMul (a b : Nat) : Nat := a * b / 2 ^ fxBits

/-- Σ t^k / k! for k from `k`, with `term` the k-th term: exp(t) for `n` terms. -/
def expSum (n k term t : Nat) : Nat :=
  match n with
  | 0 => 0
  | n + 1 => term + expSum n (k + 1) (fxMul term t / (k + 1)) t

/-- ln 2 in units of 2^−192. -/
def ln2Fx : Nat := 4350955369971217654477563090224794165364344896676135745069

/-- 2^r for a fraction r in [0, 1), both in units of 2^−192. -/
def exp2Fx (r : Nat) : Nat := expSum 50 0 (2 ^ fxBits) (fxMul r ln2Fx)

/-- Σ y^(2k+1) / (2k+1), with `term` = y^(2k+1) and `y2` = y². -/
def atanhSum (n k term y2 : Nat) : Nat :=
  match n with
  | 0 => 0
  | n + 1 => term / (2 * k + 1) + atanhSum n (k + 1) (fxMul term y2) y2

/-- log2 of 1 + f for a fraction f in [0, 1), both in units of 2^−192. -/
def log2Fx (f : Nat) : Nat :=
  let y := f * 2 ^ fxBits / (2 ^ (fxBits + 1) + f)
  2 * atanhSum 66 0 y (fxMul y y) * 2 ^ fxBits / ln2Fx

/-- 2π in units of 2^−256. -/
def twoPi256 : Nat := 727543153783532648560469885555459725306786754656784859917544302235877788932370

/-- The alternating sums of sine and cosine: positive and negative parts, with `term` = t^k / k!. -/
def trigSum (n k term t : Nat) : Int :=
  match n with
  | 0 => 0
  | n + 1 =>
    let rest := trigSum n (k + 2) (fxMul (fxMul term t / (k + 1)) t / (k + 2)) t
    term - rest

/-- |x| reduced modulo 2π, in units of 2^−192; |x| is m × 2^e, at most 2^15. -/
def reduceFx (m : Nat) (e : Int) : Nat :=
  let x256 := if 0 ≤ e + 256 then m * 2 ^ (e + 256).toNat else m / 2 ^ (-(e + 256)).toNat
  x256 % twoPi256 / 2 ^ 64

/-- sin of an angle in [0, 2π), in units of 2^−192. -/
def sinFx (t : Nat) : Int := trigSum 48 1 t t

/-- cos of an angle in [0, 2π), in units of 2^−192. -/
def cosFx (t : Nat) : Int := trigSum 48 0 (2 ^ fxBits) t

/-- A finite value in units of 2^−u, rounded toward zero; none where it is not finite. -/
def inUnits (u : Int) (v : FVal) : Option Int :=
  match v with
  | .fin n m e => some (sgn n (alignTrunc m (e + u) 0))
  | _ => none

/-- The free result bits, if their value lies within `tol` of `a` (both in units of 2^−u); else the fallback, which
does. -/
def boundedBits (free fallback : Nat) (u : Int) (a : Int) (tol : Nat) : Nat :=
  match inUnits u (f32Val free) with
  | some v => if (v - a).natAbs ≤ tol then free else fallback
  | none => fallback

/-- More units than the fixed-point approximations are ever off the exact value: a bound less this admits only results
within the bound (log 5). -/
def fxSlack : Nat := 2 ^ 20

/-- FP32 bits of a fixed-point approximation a × 2^−u. -/
def nearF32 (u : Nat) (a : Int) : Nat := (rneF32 (ofScaled false a (-(u : Int)))).1

/-- A bounded function's FP32 result with its flags: whether it is exact, and otherwise NX, with UF below the smallest
normal and OF at infinity (R122, R216). -/
def approxFlags (bits : Nat) : Flags :=
  fNX ||| flagIf (decide (bits % 2 ^ 31 < 2 ^ 23)) fUF ||| flagIf (bits % 2 ^ 31 == 2 ^ 31 - 2 ^ 23) fOF

/-- x = ±m × 2^e in units of 2^−192, rounded down, and whether a part was discarded. -/
def floorFx (n : Bool) (m : Nat) (e : Int) : Int × Bool :=
  let big := alignTrunc m e (-(fxBits : Int))
  let rest := decide (e < -(fxBits : Int)) && m % 2 ^ (-(fxBits : Int) - e).toNat != 0
  (if n then (if rest then -(big : Int) - 1 else -(big : Int)) else big, rest)

/-- FEXP2 of a finite non-zero FP32 value: exact for an integer whose power is representable, else within 2 ulp
(R216). With k the integer part of x, the comparison is made in units of 2^(k − 192); below 2^−256 the bounds are −2^−149
and 2^−148. -/
def exp2F32 (n : Bool) (m : Nat) (e : Int) : Nat × Flags :=
  let free := (Config.fexp2 (BitVec.ofNat 32 (rneF32 (.fin n m e)).1)).toNat
  if 8 ≤ exp2Of m e then
    if n then (boundedBits free 0 150 1 3, fNX ||| fUF) else (infCode (fmtOf .f), fOF ||| fNX)
  else
    let x := floorFx n m e
    let k : Int := x.1 / (2 ^ fxBits : Nat)
    let r : Nat := (x.1 % (2 ^ fxBits : Nat)).toNat
    if r = 0 && !x.2 && decide (-149 ≤ k) && decide (k ≤ 127) then rneF32 (.fin false 1 k)
    else if 128 ≤ k then (infCode (fmtOf .f), fOF ||| fNX)
    else
      let q : Int := max (k - 23) (-149)
      let near := (rneF32 (.fin false (exp2Fx r) (k - fxBits))).1
      let res := boundedBits free near (fxBits - k) (exp2Fx r) (2 ^ (q - k + fxBits + 1).toNat - fxSlack)
      (res, approxFlags res)

/-- FLOG2 of a finite positive FP32 value: exact for a power of two, within 2^−22 in [0.5, 2], else within 2 ulp
(R216). -/
def log2F32 (m : Nat) (e : Int) : Nat × Flags :=
  let k := exp2Of m e
  let f := (m - 2 ^ Nat.log2 m) * 2 ^ fxBits / 2 ^ Nat.log2 m
  if f = 0 then rneF32 (intVal k)
  else
    let a : Int := k * (2 ^ fxBits : Nat) + log2Fx f
    let bits := (rneF32 (.fin false m e)).1
    let tol : Nat :=
      if decide (-1 ≤ k) && decide (k < 1) then 2 ^ (fxBits - 22) - fxSlack
      else 2 * 2 ^ (Nat.log2 a.natAbs - 23) - fxSlack
    let res := boundedBits (Config.flog2 (BitVec.ofNat 32 bits)).toNat (nearF32 fxBits a) fxBits a tol
    (res, approxFlags res)

/-- FSIN, or FCOS with `cos`, of a finite non-zero FP32 value: within 2^−22 up to 2^15, a value in [−1, 1] beyond
(R216). -/
def trigF32 (cos n : Bool) (m : Nat) (e : Int) : Nat × Flags :=
  let bits := (rneF32 (.fin n m e)).1
  let free := (if cos then Config.fcos (BitVec.ofNat 32 bits) else Config.fsin (BitVec.ofNat 32 bits)).toNat
  let res :=
    if exp2Of m e < 15 || (exp2Of m e = 15 && m == 2 ^ Nat.log2 m) then
      let t := reduceFx m e
      let a : Int := if cos then cosFx t else if n then -sinFx t else sinFx t
      boundedBits free (nearF32 fxBits a) fxBits a (2 ^ (fxBits - 22) - fxSlack)
    else boundedBits free 0 fxBits 0 (2 ^ fxBits)
  (res, approxFlags res)

/-- The functions of majors 0x1C and 0x1D (R216). -/
inductive Fn where
  | rcp | rsq | sqrt | exp2 | log2 | sin | cos
  deriving DecidableEq, Repr

/-- R217's table and R216 on an FP32 value: the FP32 bits and flags. -/
def fnF32 (fn : Fn) (v : FVal) : Nat × Flags :=
  let f := fmtOf .f
  let nan : Nat × Flags := (canonNan f, fNV)
  let rounded := fun (r : FVal × Bool) => roundTo f .rne false false r.1 r.2
  match v with
  | .nan _ sig => (canonNan f, flagIf sig fNV)
  | .inf n =>
    match fn with
    | .rcp => (signed f n 0, 0)
    | .rsq => if n then nan else (0, 0)
    | .sqrt => if n then nan else (infCode f, 0)
    | .exp2 => (if n then 0 else infCode f, 0)
    | .log2 => if n then nan else (infCode f, 0)
    | .sin => nan
    | .cos => nan
  | .fin n m e =>
    if m = 0 then
      match fn with
      | .rcp => (signed f n (infCode f), fDZ)
      | .rsq => (signed f n (infCode f), fDZ)
      | .sqrt => (signed f n 0, 0)
      | .exp2 => rneF32 (intVal 1)
      | .log2 => (signed f true (infCode f), fDZ)
      | .sin => (signed f n 0, 0)
      | .cos => rneF32 (intVal 1)
    else
      match fn with
      | .rcp => rounded (recip n m e)
      | .rsq => if n then nan else rounded (recipRoot m e)
      | .sqrt => if n then nan else rounded (root m e)
      | .exp2 => exp2F32 n m e
      | .log2 => if n then nan else log2F32 m e
      | .sin => trigF32 false n m e
      | .cos => trigF32 true n m e

/-- One element of a function of R216: h and bf are widened to FP32 and the FP32 result is rounded to the type with
RNE; the result of an IEEE type is flushed under FTZ (R119). -/
def eFn (fn : Fn) (t : FltTy) (m : NumMode) : ElemOp := fun x _ _ =>
  let r := fnF32 fn (operand t m x)
  let v := f32Val r.1
  if v.isNan then (canonNan (fmtOf t), r.2)
  else
    let p := roundTo (fmtOf t) .rne m.ftz false v
    let tiny := decide (p.1 % 2 ^ (fltBits t - 1) < 2 ^ (fmtOf t).fb)
    (p.1, r.2 ||| p.2 ||| flagIf (tiny && (r.2 &&& fNX) != 0) fUF)

end Sys2Proof.Machine
end

