-- ==== Sys2Proof/Machine/Operands.lean ====
section
/-! DEFINITION. Reading and writing the operands of an instruction: the main file, the index registers, the operand
file, the last results and constants, with the checks they bring (R99 to R106, R140, R155). -/

namespace Sys2Proof.Machine

open Sys2Proof

/-! ## Lanes -/

/-- The logical lanes 0 to 31. -/
def laneList : List Nat := List.range 32

/-- Lane l is in a mask. -/
def inMask (m : Mask) (l : Nat) : Bool := m.getLsbD l

/-- The lanes of a mask, ascending. -/
def lanesOf (m : Mask) : List Nat := laneList.filter (inMask m)

/-- The mask of the lanes with a property. -/
def maskOf (p : Nat → Bool) : Mask :=
  BitVec.ofNat 32 (laneList.foldr (fun l n => (if p l then 1 else 0) + 2 * n) 0)

/-- The lowest lane of a mask (R167 `leader`). -/
def lowest (m : Mask) : Option Nat := firstOf (inMask m) laneList

/-- The leader lane, or the lowest live lane when exec is 0 (R299). -/
def Warp.uniLane (w : Warp) : Nat := ((lowest w.exec).orElse fun _ => lowest w.live).getD 0

/-- Lane l of a register. -/
def laneAt (r : Lanes) (l : Nat) : Nat := (r.getD l 0).toNat

/-- Old lane values with the lanes of a mask replaced (R100). -/
def mergeLanes (m : Mask) (old : Lanes) (f : Nat → Nat) : Lanes :=
  laneList.map fun l => if inMask m l then BitVec.ofNat 64 (f l) else old.getD l 0

/-! ## The main file (R99, R101) -/

/-- A main register. -/
def Warp.vreg (w : Warp) (n : Nat) : Lanes := look w.main n Lanes.zero

/-- A group of main registers in one lane, lowest register in the low bits (R103, R167). -/
def Warp.group (w : Warp) (base g l : Nat) : Nat :=
  match g with
  | 0 => 0
  | g + 1 => laneAt (w.vreg base) l + 2 ^ 64 * w.group (base + 1) g l

/-- Clears the error marks of the words of a register that a mask covers (R102). -/
def clearUe (ue : SMap Mask) (r : Nat) (m : Mask) : SMap Mask := putD ue r 0 (look ue r 0 &&& ~~~m)

/-- The lanes of a register that have an uncorrectable error, operand-file entries as 64 to 69 (R102, R380). -/
def Warp.ueOf (w : Warp) (r : Nat) : Mask := if r < 64 then look w.ue r 0 else look w.run.oue (r - 64) 0

/-- Register r in lane l lies in the group that starts at the lane's base. -/
def touches (bases : List Nat) (g r l : Nat) : Bool :=
  decide (bases.getD l 64 ≤ r) && decide (r < bases.getD l 64 + g)

/-- The main registers that some lane's group holds. -/
def touched (bases : List Nat) (g : Nat) : List Nat :=
  (List.range 64).filter fun r => bases.any fun b => decide (b ≤ r) && decide (r < b + g)

/-- Writes a group in the lanes of a mask, each lane at its own base (R100, R105). -/
def Warp.writeRegs (w : Warp) (bases : List Nat) (g : Nat) (m : Mask) (vals : Nat → Nat) : Warp :=
  let rs := touched bases g
  let on := fun r => maskOf fun l => inMask m l && touches bases g r l
  { w with
    main := putAll w.main rs Lanes.zero fun r =>
      mergeLanes (on r) (w.vreg r) fun l => vals l / 2 ^ (64 * (r - bases.getD l 64)) % 2 ^ 64
    ue := if w.ue.isEmpty then w.ue else rs.foldl (fun u r => clearUe u r (on r)) w.ue }

/-! ## Index registers (R105) -/

/-- The value of xk in a lane. -/
def Warp.xval (w : Warp) (k l : Nat) : Nat := laneAt (look w.xr k Lanes.zero) l % 2 ^ 32

/-- BASE + IDX of a lane (R105). -/
def idxBase (x : Nat) : Nat := bits x 0 8 + bits x 16 8

/-- The checks of R105 for a group of g registers under allocation A. -/
def idxOk (alloc g x : Nat) : Bool :=
  decide (bits x 16 8 + g ≤ bits x 8 8) && idxBase x % g == 0 && decide (idxBase x + g ≤ alloc)

/-- The bases that v[xk] names by lane; 64, naming nothing, where the check fails (R105, R228). -/
def Warp.idxBases (w : Warp) (k g : Nat) : List Nat :=
  laneList.map fun l => let x := w.xval k l
    if idxOk w.alloc g x then idxBase x else 64

/-! ## Sources -/

/-- A constant in one element of a type (R140). -/
def constElem (t : NumTy) (k : Fin 16) : Nat :=
  match t with
  | .int t => wrap (tyBits t) ((k.val : Int) - 8)
  | .flt t => fltConst (fmtOf t) ((k.val : Int) - 8)

/-- The size of an element of a type in bits. -/
def numBits (t : NumTy) : Nat := 8 * numSize t

/-- A constant replicated over a group of g registers (R103, R140). -/
def constVal (t : NumTy) (g : Nat) (k : Fin 16) : Nat :=
  splat (numBits t) (64 * g / numBits t) (constElem t k)

/-- A source group in each lane, lane 0 first: R167 `rd`. Constants take the given type. -/
def Warp.rd (w : Warp) (o : Opnd) (g : Nat) (t : NumTy) : List Nat :=
  match o with
  | .v n => laneList.map fun l => w.group n g l
  | .o n => laneList.map fun l => laneAt (look w.run.ofile n Lanes.zero) l
  | .l0 => laneList.map fun l => laneAt (w.run.l0.getD Lanes.zero) l
  | .l1 => laneList.map fun l => laneAt (w.run.l1.getD Lanes.zero) l
  | .x k =>
    let bs := w.idxBases k g
    laneList.map fun l => if bs.getD l 64 < 64 then w.group (bs.getD l 64) g l else 0
  | .c k => List.replicate 32 (constVal t g k)

/-- A destination read as a source. -/
def dstOpnd (d : Dst) : Opnd :=
  match d with
  | .v n => .v n
  | .o n => .o n
  | .x k => .x k

/-- A single source as a 64-bit value, constants sign-extended. -/
def Warp.rd64 (w : Warp) (o : Opnd) : List Nat := w.rd o 1 (.int .s64)

/-! ## Destinations -/

/-- The bases of a destination by lane. -/
def Warp.dstBases (w : Warp) (d : Dst) (g : Nat) : List Nat :=
  match d with
  | .v n => List.replicate 32 n.val
  | .x k => w.idxBases k g
  | .o _ => List.replicate 32 64

/-- Writes an operand-file entry in the lanes of a mask and marks it written (R106). -/
def Warp.writeO (w : Warp) (n : Nat) (m : Mask) (vals : Nat → Nat) : Warp :=
  { w with
    run := { w.run with
      ofile := putD w.run.ofile n Lanes.zero (mergeLanes m (look w.run.ofile n Lanes.zero) vals)
      owr := w.run.owr ||| BitVec.ofNat 6 (2 ^ n)
      oue := if w.run.oue.isEmpty then w.run.oue else clearUe w.run.oue n m } }

/-- Writes a destination group in the active lanes (R167 `wr`). With no active lane nothing is written (R109). -/
def Warp.wr (w : Warp) (d : Dst) (g : Nat) (vals : Nat → Nat) : Warp :=
  if w.exec = 0 then w
  else match d with
    | .o n => w.writeO n w.exec vals
    | d => w.writeRegs (w.dstBases d g) g w.exec vals

/-- The 64-bit content of the lowest register of a destination in every lane (R106). That copying the word of an inactive lane
into l0 is no read of it, so that a word with an uncorrectable error raises nothing and l0 takes it without a mark, is the
model's choice (R102, log 105). -/
def Warp.lowestOf (w : Warp) (d : Dst) (g : Nat) : Lanes :=
  match d with
  | .v n => w.vreg n
  | .o n => look w.run.ofile n Lanes.zero
  | .x k =>
    let bs := w.idxBases k g
    laneList.map fun l => if bs.getD l 64 < 64 then (w.vreg (bs.getD l 64)).getD l 0 else 0

/-- The move of l0 into l1 and of a fixed-latency destination into l0 (R106). That it happens with exec = 0 too, in every lane,
though R109 changes no lane state then, is the model's choice (log 104). -/
def Warp.setLast (w : Warp) (d : Dst) (g : Nat) : Warp :=
  { w with run := { w.run with l1 := w.run.l0, l0 := some (w.lowestOf d g) } }

/-- A fixed-latency result: the destination in the active lanes, then l0 and l1 (R100, R106). The index registers that
name the destination are those before the instruction. With exec = 0 the last results move all the same (log 104). -/
def Warp.result (w : Warp) (d : Dst) (g : Nat) (vals : Nat → Nat) : Warp := (w.wr d g vals).setLast d g

/-- Where a long-latency result goes, fixed at issue (R105, R209). -/
def Warp.slotDst (w : Warp) (d : Dst) (g : Nat) : SlotDst :=
  match d with
  | .o n => .ofile n
  | d => .regs (w.dstBases d g) g

/-! ## The checks of R155 on operands -/

/-- What an instruction does with one operand: the operand, its group size, whether it reads and writes it, whether it reads
it in the leader lane only, and below which lane it writes it. -/
structure Use where
  op : Opnd
  g : Nat
  reads : Bool
  writes : Bool
  lead : Bool := false
  below : Nat := 32
  deriving DecidableEq, Repr

/-- A source at a width. -/
def src (o : Opnd) (w : Width) : Use := { op := o, g := w.regs, reads := true, writes := false }

/-- A destination at a width. -/
def dst (d : Dst) (w : Width) : Use := { op := dstOpnd d, g := w.regs, reads := false, writes := true }

/-- A destination that is also read. -/
def dstRead (d : Dst) (w : Width) : Use := { op := dstOpnd d, g := w.regs, reads := true, writes := true }

/-- A direct register lies beyond the allocation (R101). -/
def Use.beyond (u : Use) (alloc : Nat) : Bool :=
  match u.op with
  | .v n => decide (alloc < n.val + u.g)
  | _ => false

/-- An unwritten operand-file entry or a missing last result is read (R106). -/
def Use.missing (u : Use) (w : Warp) : Bool :=
  u.reads && match u.op with
    | .o n => !w.run.owr.getLsbD n.val
    | .l0 => w.run.l0.isNone
    | .l1 => w.run.l1.isNone
    | _ => false

/-- The index register of an operand that fails R105 in a lane. -/
def Use.idxFail (u : Use) (w : Warp) (l : Nat) : Option Nat :=
  match u.op with
  | .x k => if idxOk w.alloc u.g (w.xval k l) then none else some k.val
  | _ => none

/-- The registers an operand names in a lane, operand-file entries as 64 to 69 (R380). -/
def Use.regsIn (u : Use) (w : Warp) (l : Nat) : List Nat :=
  match u.op with
  | .v n => (List.range u.g).map (n.val + ·)
  | .o n => [64 + n.val]
  | .x k =>
    let x := w.xval k l
    if idxOk w.alloc u.g x then (List.range u.g).map (idxBase x + ·) else []
  | _ => []

/-- The lanes in which an operand is read, of those in which the instruction reads its sources: the leader lane alone
for one that is read there only. -/
def Use.readLanes (u : Use) (w : Warp) (lanes : Mask) : List Nat := if u.lead then [w.uniLane] else lanesOf lanes

/-- The first source word with an uncorrectable error, by lane then register (R102). Words that only l0 takes are no sources
(log 105). -/
def ueFail (w : Warp) (us : List Use) (lanes : Mask) : Option (Nat × Nat) :=
  if w.ue.isEmpty && w.run.oue.isEmpty then none
  else firstSome (fun l =>
    firstSome (fun u =>
      if u.reads && (u.readLanes w lanes).contains l then
        (firstOf (fun r => inMask (w.ueOf r) l) (u.regsIn w l)).map fun r => (l, r)
      else none) us) laneList

/-- The main registers with a long-latency write pending (R114). -/
def pendingRegs (w : Warp) : List Nat :=
  w.slots.flatMap fun sl =>
    if sl.ret then []
    else match sl.dst with
      | .regs bases g => touched ((lanesOf sl.mask).map fun l => bases.getD l 64) g
      | _ => []

/-- An access to a main register with a pending long-latency write (R114): a read in a lane in which the instruction
reads its sources, or a write in an active lane that it writes. -/
def hazard (w : Warp) (us : List Use) (lanes : Mask) : Bool :=
  let p := pendingRegs w
  let meets := fun (u : Use) (l : Nat) => (u.regsIn w l).any fun r => decide (r < 64) && p.contains r
  !p.isEmpty && us.any fun u =>
    (u.reads && (u.readLanes w lanes).any (meets u)) ||
      (u.writes && (lanesOf w.exec).any fun l => decide (l < u.below) && meets u l)

/-- A read operand-file entry has a long-latency write pending in this run (R152). -/
def interlocked (w : Warp) (us : List Use) : Bool :=
  us.any fun u =>
    match u.op with
    | .o n => u.reads && w.slots.any fun sl => !sl.ret && sl.run == w.runNo && sl.dst == .ofile n.val
    | _ => false

end Sys2Proof.Machine
end

