-- ==== Sys2Proof/Machine/Frame.lean ====
section
/-! DEFINITION. The image of a warp in its frame of the context area, written at a fault stop and at a save and read
back at a retry and at a resumption (R385, R391, R393). -/

namespace Sys2Proof.Machine

open Sys2Proof

/-- The code of a stack entry's KIND (R110). -/
def kindCode (k : StackKind) : Nat :=
  match k with
  | .path => 0
  | .join => 1
  | .call => 2
  | .trap => 3

/-- KIND from its code. -/
def kindOf (n : Nat) : StackKind :=
  match n with
  | 0 => .path
  | 1 => .join
  | 2 => .call
  | _ => .trap

/-- Word 0 of a stack entry (R110). -/
def entryWord0 (e : StackEntry) : Nat :=
  kindCode e.kind * 2 ^ 61 + (if e.tm then 2 ^ 56 else 0) + e.pc % 2 ^ 56 / 2 * 2

/-- A stack entry from its two words (R110). -/
def entryOf (w0 w1 : Nat) : StackEntry :=
  { kind := kindOf (bits w0 61 3), pc := bits w0 0 56 / 2 * 2, mask := BitVec.ofNat 32 w1, tm := bit w0 56 }

/-- The 16 bytes of a stack entry (R110). -/
def entryBytes (e : StackEntry) : List Byte := leBytes 8 (entryWord0 e) ++ leBytes 8 e.mask.toNat

/-- The run control word (R393); a TRAP that has issued is a pending control transfer (R319). -/
def runControl (r : RunState) : Nat :=
  r.owr.toNat + (if r.l0.isSome then 2 ^ 6 else 0) + (if r.l1.isSome then 2 ^ 7 else 0) + r.pos % 32 * 2 ^ 8 +
    r.taken % 8 * 2 ^ 13 + (if r.ct.isSome || r.trp.isSome then 2 ^ 16 else 0) + (if r.arv.isSome then 2 ^ 17 else 0) +
    (if r.arv = some true then 2 ^ 18 else 0)

/-- A word of the run-state image: o0 to o5, l0, l1 and the control word (R393). -/
def runWord (r : RunState) (off : Nat) : Nat :=
  let l := off % 256 / 8
  let n := off / 256
  if n < 6 then laneAt (look r.ofile n Lanes.zero) l
  else if n = 6 then laneAt (r.l0.getD Lanes.zero) l
  else if n = 7 then laneAt (r.l1.getD Lanes.zero) l
  else if off = 0x800 then runControl r
  else 0

/-- The binding of a send register as a word of a frame (log 24): bit 63 where bound, then the destination's crew and warp,
the free credits and the receive register. -/
def sendWord (c : Option Channel) : Nat :=
  match c with
  | none => 0
  | some c => 2 ^ 63 + c.dst % 2 ^ 20 * 2 ^ 8 + c.credits % 8 * 2 ^ 4 + c.rr % 4

/-- The target of a control transfer that has issued (R298); of a TRAP its handler, or the resume point of its fault stop
(R319). -/
def RunState.target (r : RunState) : Option Nat :=
  r.ct.orElse fun _ => r.trp.map fun p => if p.2 then p.1.resume else p.1.resume + 64 * p.1.cause

/-- The words at 0x4300 of a warp frame (R393). -/
def frameWords (w : Warp) : List Nat :=
  [w.exec.toNat, w.live.toNat, w.pc, if w.tm then 1 else 0, w.prio.toNat, w.aflags.toNat] ++
    w.items.map BitVec.toNat ++ [w.tcause.toNat, w.taddr.toNat, w.tinfo.toNat] ++ w.escr.map BitVec.toNat ++
    [w.stack.length + w.spilled] ++ (List.range 4).map (fun k => sendWord (look? w.send k)) ++
    [w.producer.toNat, w.prog, w.run.target.getD 0]

/-- A 64-bit word of a warp frame by its offset (R393). -/
def frameWord (w : Warp) (off : Nat) : Nat :=
  if off < 0x4000 then laneAt (w.vreg (off / 256)) (off % 256 / 8)
  else if off < 0x4100 then
    match w.stack.reverse[(off - 0x4000) / 16]? with
    | none => 0
    | some e => if off % 16 = 0 then entryWord0 e else e.mask.toNat
  else if off < 0x4300 then
    let i := off - 0x4100
    w.xval (i / 128) (i % 128 / 4) + 2 ^ 32 * w.xval (i / 128) (i % 128 / 4 + 1)
  else if off < 0x4400 then (frameWords w).getD ((off - 0x4300) / 8) 0
  else if off < 0x5000 then runWord w.run (off - 0x4400)
  else if off < 0x5400 then 0
  else match w.shadow with
    | none => 0
    | some h => runWord h.run (off - 0x5400)

/-- The bytes of a warp frame (R393). -/
def frameBytes (w : Warp) : List Byte := (List.range 0xC00).flatMap fun i => leBytes 8 (frameWord w (8 * i))

/-- Lanes from 64-bit words at an offset. -/
def lanesFrom (rd : Nat → Nat) (off : Nat) : Lanes := laneList.map fun l => BitVec.ofNat 64 (rd (off + 8 * l))

/-- A TRAP that has issued, continued at a target: a fault stop takes it for its resume point (R298, R319). -/
def trpTo (p : TrapReq × Bool) (a : Option Nat) : TrapReq × Bool :=
  if p.2 then ({ p.1 with resume := a.getD p.1.resume }, true) else p

/-- A run state from its image, with the target of its control transfer; what the image does not hold stays (R393). -/
def runFrom (rd : Nat → Nat) (off : Nat) (ct : Option Nat) (r : RunState) : RunState :=
  let c := rd (off + 0x800)
  { r with
    ofile := putAll [] (List.range 6) Lanes.zero fun i => lanesFrom rd (off + 256 * i)
    owr := BitVec.ofNat 6 c
    l0 := if bit c 6 then some (lanesFrom rd (off + 0x600)) else none
    l1 := if bit c 7 then some (lanesFrom rd (off + 0x700)) else none
    pos := bits c 8 5
    taken := bits c 13 3
    ct := if !bit c 16 then none
          else if r.trp.isSome && (ct = r.target || r.trp.any (·.2)) then r.ct
          else ct
    trp := if bit c 16 then r.trp.map fun p => trpTo p ct else none
    arv := if bit c 17 then some (bit c 18) else none }

/-- The binding of a send register from its word; credits in transit belong to it only where its destination is as it was
(log 24). -/
def sendFrom (x : Nat) (w : Warp) (k : Nat) : Option Channel :=
  let dst := w.ctx * 2 ^ 20 + bits x 8 20
  let rr := bits x 0 2
  let old := (look? w.send k).bind fun c => if c.dst = dst ∧ c.rr = rr then some c.bind else none
  if bit x 63 then some { dst := dst, rr := rr, credits := min 4 (bits x 4 3), bind := old.getD 0 } else none

/-- A warp from its frame; what the frame does not hold stays (R393). The fetched run goes where the frame's PC is
another. -/
def warpFrom (rd : Nat → Nat) (w : Warp) : Warp :=
  let wd := fun i => rd (0x4300 + 8 * i)
  let total := min (wd 17) (16 + w.spSize)
  let hw := min 16 total
  { w with
    main := putAll [] (List.range 64) Lanes.zero fun n => lanesFrom rd (256 * n)
    stack := ((List.range hw).map fun i => entryOf (rd (0x4000 + 16 * i)) (rd (0x4008 + 16 * i))).reverse
    spilled := total - hw
    xr := putAll [] (List.range 4) Lanes.zero fun k =>
      laneList.map fun l => BitVec.ofNat 64 (bits (rd (0x4100 + 128 * k + l / 2 * 8)) (32 * (l % 2)) 24)
    exec := BitVec.ofNat 32 (wd 0)
    live := BitVec.ofNat 32 (wd 1)
    pc := wd 2 / 2 * 2
    code := if wd 2 / 2 * 2 = w.pc then w.code else none
    tm := bit (wd 3) 0
    prio := BitVec.ofNat 3 (wd 4)
    aflags := BitVec.ofNat 12 (wd 5) &&& aflagMask
    items := (List.range 4).map fun i => BitVec.ofNat 64 (wd (6 + i))
    tcause := BitVec.ofNat 64 (wd 10)
    taddr := BitVec.ofNat 64 (wd 11)
    tinfo := BitVec.ofNat 64 (wd 12)
    escr := (List.range 4).map fun i => BitVec.ofNat 64 (wd (13 + i))
    send := (List.range 4).foldl (fun m k =>
      match sendFrom (wd (18 + k)) w k with
      | none => m
      | some c => put m k c) []
    producer := BitVec.ofNat 16 (wd 22)
    prog := bits (wd 23) 0 5
    framed := bits (wd 23) 0 5 != 0
    run := runFrom rd 0x4400 (some (wd 24)) w.run
    shadow := w.shadow.map fun h => { h with run := runFrom rd 0x5400 h.run.target h.run } }

/-! ## Virtual memory as the Cirque's agents see it -/

/-- Reads n bytes at a virtual address for an agent of the Cirque, 8-byte word by word; an address that does not
translate reads 0. -/
def sysReadVa (s : State) (ctx va : Nat) : Nat :=
  match sysTranslate s ctx va 8 .read true with
  | .ok pa _ => leNat (sysRead s pa 8).1
  | .bad _ => 0

/-- Every 4 KiB block of a range translates with a permission. -/
def rangeMapped (s : State) (ctx va n : Nat) (k : AccKind) : Bool :=
  (List.range (n / 4096 + 2)).all fun i =>
    let a := va / 4096 * 4096 + 4096 * i
    decide (va + n ≤ a) || (match sysTranslate s ctx a 1 k true with
      | .ok _ _ => true
      | .bad _ => false)

/-- A read of a range by an agent of the Cirque must wait, in some 4 KiB block (R53, R66). -/
def rangeWaits (s : State) (ctx va n : Nat) : Bool :=
  (List.range (n / 4096 + 2)).any fun i =>
    let a := va / 4096 * 4096 + 4096 * i
    decide (a < va + n) && vaWaits s ctx a 4096

/-- The walk of some 4 KiB block of a range must wait (R53, R66): what is written there waits by itself. -/
def rangeWalks (s : State) (ctx va n : Nat) : Bool :=
  (List.range (n / 4096 + 2)).any fun i =>
    let a := va / 4096 * 4096 + 4096 * i
    decide (a < va + n) && walkWaits s ctx a

/-- Writes bytes at a virtual address for an agent of the Cirque; blocks that do not translate are skipped. -/
def sysWriteVa (s : State) (ctx va : Nat) (bs : List Byte) : State :=
  ((List.range (bs.length / 4096 + 2)).foldl (fun (acc : State × Nat × List Byte) _ =>
    let n := min (4096 - acc.2.1 % 4096) acc.2.2.length
    if n = 0 then acc
    else
      let s' := match sysTranslate acc.1 ctx acc.2.1 1 .write true with
        | .ok pa pte => sysWrite acc.1 pa (acc.2.2.take n) false (pteMt pte != 0) (some ctx)
        | .bad _ => acc.1
      (s', acc.2.1 + n, acc.2.2.drop n)) (s, va, bs)).1

/-! ## The context area (R393) -/

/-- AO, TO, SO and the record size CRSZ of a launch (R393). -/
def areaAO (l : Launch) : Nat := 0x1000 + 0x6000 * l.wpc
def areaTO (l : Launch) : Nat := areaAO l + 0x19000 * l.accs
def areaSO (l : Launch) : Nat := areaTO l + 0x2100 * l.tbls

/-- CRSZ: the total rounded up to 4 KiB (R393). -/
def crsz (l : Launch) : Nat := (areaSO l + 0x1000 * l.spages + 16 * l.spages + 0xFFF) / 0x1000 * 0x1000

/-- The virtual address of a warp's frame, none without a launch (R393). -/
def frameVa (s : State) (w : Warp) : Option Nat :=
  let c := ctxAt s w.ctx
  c.launch.map fun l => c.caBase + w.crew * crsz l + 0x1000 + 0x6000 * w.idx

/-- Writes a warp's frame where it is mapped (R385, R391). -/
def writeFrame (s : State) (w : Warp) : State :=
  match frameVa s w with
  | none => s
  | some va => if rangeMapped s w.ctx va 0x6000 .write then sysWriteVa s w.ctx va (frameBytes w) else s

/-- The context of a warp is charged an access to its frame by the microcode of the warp's die (R417). -/
def chargeFrame (s : State) (w : Warp) (k : AccKind) : State :=
  match frameVa s w with
  | none => s
  | some va =>
    if rangeMapped s w.ctx va 0x6000 k then chargeMicro s w.ctx (dieOfCore w.core) va 0x6000 k else s

/-- A walk of the pages of a warp's frame must wait, so that it cannot be written now. -/
def frameWalks (s : State) (w : Warp) : Bool := ((frameVa s w).map fun va => rangeWalks s w.ctx va 0x6000).getD false

/-- A warp's frame cannot be read now. -/
def frameWaits (s : State) (w : Warp) : Bool := ((frameVa s w).map fun va => rangeWaits s w.ctx va 0x6000).getD false

/-- The warp as its frame now holds it, where the frame is mapped (R385, R393). -/
def readFrame (s : State) (w : Warp) : Warp :=
  match frameVa s w with
  | none => w
  | some va => if rangeMapped s w.ctx va 0x6000 .read then warpFrom (fun o => sysReadVa s w.ctx (va + o)) w else w

end Sys2Proof.Machine
end

