-- ==== Sys2Proof/Machine/Ops.lean ====
section
/-! DEFINITION. The shared operations of the machine: the reconvergence stack, taking a trap and returning from one,
fault stops, energy charges, trailers, and the issue of one instruction (R110, R111, R148 to R160, R379 to R386). -/

namespace Sys2Proof.Machine

open Sys2Proof

/-! ## Traps (R379, R380) -/

/-- A trap of a cause at the warp's instruction: taddr the instruction address, the resume point the instruction, or
the first LIMM of a chain before it (R145, R379). -/
def Warp.trap (w : Warp) (cause : Nat) : TrapReq :=
  { cause := cause, addr := BitVec.ofNat 64 w.pc, info := 0, wr := false, eng := 0, tb := 0, pos := w.run.pos,
    ret := false, slot := 0, prog := 0, lv := false, lane := 0, resume := w.pc - 4 * w.run.limm.length }

/-- A trap with a failing lane and its address (R45, R380). -/
def Warp.trapAt (w : Warp) (cause lane addr : Nat) (wr : Bool) : TrapReq :=
  { w.trap cause with addr := BitVec.ofNat 64 addr, lv := true, lane := lane, wr := wr }

/-- tinfo (R380). -/
def tinfoOf (t : TrapReq) : Word :=
  BitVec.ofNat 64 (t.info % 2 ^ 32 * 2 ^ 32 + (if t.wr then 2 ^ 29 else 0) + t.eng % 8 * 2 ^ 24 + t.tb % 16 * 2 ^ 20 +
    t.pos % 32 * 2 ^ 15 + (if t.ret then 2 ^ 14 else 0) + t.slot % 8 * 2 ^ 11 + t.prog % 32 * 2 ^ 6 +
    (if t.lv then 2 ^ 5 else 0) + t.lane % 32)

/-- What an attempted stack operation gives: the state and warp after it with the entry popped, or the trap it
raises, or nothing while its access to the spill area must wait (R53, R66). -/
inductive StackRes where
  | ok (s : State) (w : Warp) (e : Option StackEntry)
  | bad (t : TrapReq)
  | wait

/-- The virtual address of entry n of a warp's spill area (R111). -/
def spillVa (w : Warp) (n : Nat) : Nat := w.spBase + 16 * n

/-- A read of a spilled entry must wait (R53, R66, R364). -/
def spillWaits (s : State) (w : Warp) (va : Nat) : Bool :=
  transWaits s w.core w.ctx va ||
    ((translate s w.core w.ctx va 16 .read).pa?.map fun pa => dieWaits s (dieOfCore w.core) pa 16).getD false

/-- A push (R111, R167): the oldest hardware entry is spilled when all 16 are held. An entry keeps bits [55:1] of its PC
(R110). -/
def pushEntry (s : State) (w : Warp) (e : StackEntry) : StackRes :=
  if 16 + w.spSize ≤ w.stack.length + w.spilled then .bad (w.trap cSTACK_OVF)
  else if w.stack.length < 16 then .ok s { w with stack := { e with pc := e.pc % 2 ^ 56 / 2 * 2 } :: w.stack } none
  else if transWaits s w.core w.ctx (spillVa w w.spilled) then .wait
  else
    match translate s w.core w.ctx (spillVa w w.spilled) 16 .write with
    | .bad c => .bad { w.trap c with addr := BitVec.ofNat 64 (spillVa w w.spilled), wr := true }
    | .ok pa pte =>
      let old := w.stack.getLast?.getD e
      let thru := pteMt pte != 0
      .ok (sysWrite (chargeAt s w.ctx (some (dieOfCore w.core)) pa 16 thru) pa (entryBytes old) false thru (some w.ctx))
        { w with stack := { e with pc := e.pc % 2 ^ 56 / 2 * 2 } :: w.stack.dropLast, spilled := w.spilled + 1 } none

/-- A pop (R111, R167): the most recently spilled entry is refilled below the hardware entries. -/
def popEntry (s : State) (w : Warp) : StackRes :=
  match w.stack with
  | [] => .bad { w.trap cSTACK_OVF with info := 1 }
  | e :: rest =>
    if w.spilled = 0 then .ok s { w with stack := rest } (some e)
    else
      let va := spillVa w (w.spilled - 1)
      let d := dieOfCore w.core
      if spillWaits s w va then .wait
      else match translate s w.core w.ctx va 16 .read with
      | .bad c => .bad { w.trap c with addr := BitVec.ofNat 64 va }
      | .ok pa pte =>
        let r := dieRead s d pa 16
        if r.2 then .bad { w.trap cPOISON with addr := BitVec.ofNat 64 va }
        else
          let x := entryOf (leNat (r.1.take 8)) (leNat (r.1.drop 8))
          .ok (homeServes s w.ctx d pa 16 (pteMt pte != 0) false) { w with stack := rest ++ [x], spilled := w.spilled - 1 } (some e)

/-! ## Fault records (R385, R387) -/

/-- Queues a fault record of a context; it is written by a later step (R387). -/
def queueRecord (s : State) (ctx : Nat) (r : FaultRec) : State :=
  modCtx s ctx fun c => { c with waiting := c.waiting ++ [r] }

/-- A record of a warp: KIND 1 or 3 (R387). -/
def warpRecord (s : State) (w : Warp) (kind : Nat) (t : TrapReq) : FaultRec :=
  { kind := kind, crew := w.crew, vcore := ((crewAt s w.crewK).map (·.vcore)).getD 0, warp := w.idx, eng := 0,
    cause := t.cause, addr := t.addr, seq := 0, info := tinfoOf t }

/-- A fault stop (R385): the warp leaves its holder at the resume point, its frame is written and a KIND 1 record is
queued. -/
def faultStop (s : State) (k : Nat) (w : Warp) (t : TrapReq) : State :=
  let w := { w with st := .stopped, pc := t.resume, code := none, pend := none }
  queueRecord (writeFrame (chargeFrame (setWarp s k w) w .write) w) w.ctx (warpRecord s w 1 t)

/-! ## Priority and holders (R339 to R342, R351) -/

/-- Effective priority (R340, R341). -/
def Warp.effPrio (w : Warp) : Nat := if w.promoted then 8 else w.prio.toNat

/-- A warp occupies a holder: it runs, or it has ended there and its waits are not over (R339). -/
def Warp.inHolder (w : Warp) : Bool := w.st == .running || (w.st == .ended && !w.outEnd)

/-- The lowest free holder of a quarter, true for holder 1 (R339, R343). -/
def freeHolder (s : State) (core q : Nat) : Bool :=
  (quarterWarps s core q).any fun w => w.inHolder && !w.holder

/-- A run starts in the warp's holder (R340, R341): it is the latest of the run starts. -/
def startRun (s : State) (k : Nat) (w : Warp) : State :=
  setWarp { s with serial := s.serial + 1 } k
    { w with st := .running, lastStart := some s.serial, promoted := false, readyClk := 0 }

/-- The step at which a cluster's clock runs (R406 to R409). -/
def clusterRuns (s : State) (c : Nat) : Bool := (clusterAt s c).step != 0

/-- A cluster is admitted (R353): it is not quiescent. -/
def clusterAdmitted (s : State) (c : Nat) : Bool := !(clusterAt s c).quiet

/-- The run-start threshold of R351 in pJ. -/
def startThreshold (c : Cluster) (w : Warp) : Int :=
  if w.producer ≠ 0 then 0
  else if min c.pfloor 8 ≤ w.effPrio then 256 * c.lo
  else 256 * max c.hi c.lo

/-- A run start is not withheld (R351). -/
def startAllowed (s : State) (w : Warp) : Bool :=
  let c := clusterAt s (clusterOfCore w.core)
  decide (startThreshold c w ≤ c.cnt)

/-- The slots that an await mask names have returned, and with S every result of the warp (R151). -/
def Warp.awaits (w : Warp) (mask : BitVec 6) (sBit : Bool) : Bool :=
  w.slots.all fun sl =>
    sl.ret || sl.idx == 6 || (!(sBit) && !(sl.run == w.runNo && mask.getLsbD sl.idx))

/-! ## Delivery (R381) -/

/-- A warp has no long-latency result outstanding (R154, R381 step 1). -/
def Warp.drained (w : Warp) : Bool := w.slots.all fun sl => sl.ret || sl.idx == 6

/-- The handler's start: the trap mask set, the trap registers written, a new run at TVEC + 64 × cause, exec unchanged
(R381 steps 5 and 6); the restart progress is that of the interrupted run (R383). -/
def enterHandler (w : Warp) (tvec : Nat) (t : TrapReq) : Warp :=
  { w with
    tm := true, back := none, tcause := BitVec.ofNat 64 t.cause, taddr := t.addr, tinfo := tinfoOf t,
    pc := tvec + 64 * t.cause, run := RunState.start, runNo := w.runNo + 1, code := none, pend := none
    tblPages := none, progHeld := true, st := .ready }

/-- The handler starts in the warp's holder; that of a parked warp is ready for a holder (R339, R381; log 86). -/
def startHandler (s : State) (k : Nat) (w : Warp) (tvec : Nat) (t : TrapReq) : State :=
  if w.st = .running ∧ startAllowed s w = true then startRun s k (enterHandler w tvec t)
  else setWarp s k (enterHandler w tvec t)

/-- The entry that a delivered trap pushes (R381). -/
def trapEntry (w : Warp) (t : TrapReq) : StackEntry := { kind := .trap, pc := t.resume, mask := w.exec, tm := w.tm }

/-- R351 withholds the start of the handler of a warp that stays in its holder meanwhile (R339, R381). -/
def startWithheld (s : State) (w : Warp) : Bool := w.st == .running && !startAllowed s w

/-- A trap cannot be delivered now: the push of its entry, or the write of the frame of its fault stop, must wait (R53,
R66), or the start of the handler is withheld (R351). -/
def deliverWaits (s : State) (w : Warp) (t : TrapReq) : Bool :=
  if w.tm ∨ (ctxAt s w.ctx).tvec = 0 then frameWalks s w
  else match pushEntry s w (trapEntry w t) with
    | .wait => true
    | .bad _ => frameWalks s w
    | .ok _ _ _ => startWithheld s w

/-- R381 from step 2: a fault stop if traps are masked or TVEC is 0; else the run state goes to the shadow, a TRAP
entry is pushed and the handler starts. -/
def deliver (s : State) (k : Nat) (w : Warp) (t : TrapReq) : State :=
  let tvec := (ctxAt s w.ctx).tvec
  if w.tm ∨ tvec = 0 then faultStop s k w t
  else
    match pushEntry s w (trapEntry w t) with
    | .wait => setWarp s k { w with pend := some t }
    | .bad _ => faultStop s k w t
    | .ok s w' _ =>
      let h : Shadow := { run := w.run, prog := w.prog, runNo := w.runNo }
      startHandler s k { w' with shadow := some h } tvec t

/-- Raises a trap: it is delivered at once when no result is outstanding and nothing holds its delivery back, else it is
held until every long-latency instruction of the warp has completed (R381 step 1). The saved position is that of the resume
point (R145). -/
def raise (s : State) (k : Nat) (w : Warp) (t : TrapReq) : State :=
  let n := w.run.limm.length
  let w := { w with run := { w.run with pos := w.run.pos - n, limm := [] }, pc := t.resume, code := none, tblPages := none }
  if w.drained && !deliverWaits s w t then deliver s k w t else setWarp s k { w with pend := some t }

/-- Poison held against a warp, delivered at the instruction that has not issued (R386). -/
def deliverHeld (s : State) (k : Nat) (w : Warp) : State :=
  match w.held with
  | [] => s
  | t :: ts =>
    let n := w.run.limm.length
    let w := { w with held := ts, run := { w.run with pos := w.run.pos - n, limm := [] } }
    deliver s k { w with pc := w.pc - 4 * n, code := none, tblPages := none } { t with resume := w.pc - 4 * n }

/-- The delivery of poison held against a warp must wait (R53, R66). -/
def heldWaits (s : State) (w : Warp) : Bool := (w.held.head?.map (deliverWaits s w)).getD false

/-! ## Leaving a holder (R391) -/

/-- A warp leaves its holder at an instruction boundary, mid-run if need be; the LIMM words before its next instruction
are taken back (R145, R391 step 1). -/
def Warp.stopRun (w : Warp) : Warp :=
  let n := w.run.limm.length
  let w := { w with calveWait := false, tblPages := none }
  if w.st = .running then
    { w with st := .ready, pc := w.pc - 4 * n, code := none, run := { w.run with pos := w.run.pos - n, limm := [] } }
  else w

/-- A warp that a calving request lets run only while TM is 1 stops once TM is 0 (R391 step 1). -/
def Warp.calveCheck (w : Warp) : Warp := if w.calveWait && !w.tm then w.stopRun else w

/-! ## Trailers (R150, R151, R153) -/

/-- The run after a trailer whose conditions hold: the target of a control transfer or the fall-through (R153). -/
def Warp.nextRun (w : Warp) : Warp :=
  { w with pc := w.run.ct.getD (w.pc + 4), run := RunState.start, runNo := w.runNo + 1, code := none }

/-- The warp after the trailer of a JOIN, EXIT or BRK that popped a TRAP entry (R306, R382): the trap mask returns, and the
saved run continues at the resume point if the entry was the last popped. The restart progress is what a JOIN has restored,
or what the handler has left (R175, R383). -/
def Warp.trapReturn (w : Warp) (tm last : Bool) : Warp :=
  let h := w.shadow.getD { run := RunState.start, prog := w.prog, runNo := w.runNo }
  let w' := w.nextRun
  { w' with
    tm := tm, shadow := none, back := none, progHeld := false
    run := if last then h.run else w'.run }

/-- A TRAP at whose trailer nothing is outstanding: its fault stop, or its handler (R319, R381). For a TRAP that enters
the handler, `resume` holds TVEC as TRAP read it at issue; a target that its frame has named since is where the warp goes
(R298, R393). -/
def endTrap (s : State) (k : Nat) (w : Warp) (t : TrapReq) (stop : Bool) : State :=
  let w' := { w with run := RunState.start, code := none, runNo := w.runNo + 1, pend := none }
  if stop then faultStop s k w' t
  else
    let s' := startHandler s k { w' with shadow := some { run := RunState.start, prog := w.prog, runNo := w.runNo } } t.resume t
    match w.run.ct with
    | none => s'
    | some a => modWarp s' k fun x => { x with pc := a }

/-- The trailer of a TRAP cannot be completed yet: results are outstanding (R381 step 1), the frame of its fault stop
cannot be written (R53, R66), or the start of its handler is withheld (R351). -/
def endTrapWaits (s : State) (w : Warp) (stop : Bool) : Bool :=
  !w.drained || (if stop then frameWalks s w else startWithheld s w)

/-- Completes a trailer whose conditions hold (R153, R319, R342): a TRAP's handler or fault stop, once every long-latency
instruction has completed (R381 step 1); a return from a trap; or the next run. The holder is kept unless it is given
up. -/
def endTrailer (s : State) (k : Nat) (w : Warp) (keep : Bool) : State :=
  match w.run.trp with
  | some (t, stop) =>
    if endTrapWaits s w stop then setWarp s k { w with pend := some t } else endTrap s k w t stop
  | none =>
    let w' := match w.back with
      | some (tm, last) => w.trapReturn tm last
      | none => w.nextRun
    let s' := if keep then startRun s k w' else setWarp s k { w' with st := .ready }
    modWarp s' k Warp.calveCheck

/-! ## Issue (R155) -/

/-- What the run rules know of an instruction: its size in bytes, whether it is long-latency, a control transfer or
privileged, whether it may follow a LIMM, whether it is a LIMM, its energy weight, the operands it names, the octet of a command and how many of its words it reads, the lanes
whose sources it reads, the checks of order 4 that are its own, and whether these still wait for something (a record's
fetch, R184; an operand of theirs, R314), so that the later ones cannot be made yet. -/
structure Shape where
  size : Nat
  long : Bool := false
  ct : Bool := false
  priv : Bool := false
  limm : Bool := false
  isLimm : Bool := false
  weight : Nat := 4
  uses : List Use := []
  octet : Option Nat := none
  words : Nat := 8
  acts : Bool := false
  lanes : Warp → Mask := fun w => w.exec
  check : State → Warp → Option TrapReq := fun _ _ => none
  waits : State → Warp → Bool := fun _ _ => false

/-- What an instruction's effect comes to: an exact trap, a stall in place (`hold` with a first part of its work done), a blocking wait out of the holder (after a first part of
its effect), the state after it, the state after it with a trap that counts it as completed (R379), or a trap that leaves a part of its
effect done (R176). -/
inductive Eff where
  | trap (t : TrapReq)
  | part (s : State) (t : TrapReq)
  | stall
  | hold (s : State)
  | wait (b : Block)
  | waitIn (s : State) (b : Block)
  | done (s : State)
  | doneTrap (s : State) (t : TrapReq)

/-- The next instruction in the fetched run is a trailer (R149). -/
def nextIsTrl (w : Warp) (size : Nat) : Bool :=
  match w.code with
  | none => false
  | some c =>
    match c.drop (size / 2) with
    | h :: _ :: _ => h.toNat % 128 == 0x7F
    | _ => false

/-- The instruction acts: some lane is active, or it acts whatever exec holds (R155). -/
def acting (m : Shape) (w : Warp) : Bool := m.acts || w.exec != 0

/-- The uses of an instruction with those of its octet, which is read in the leader lane (R159). -/
def Shape.allUses (m : Shape) : List Use :=
  match m.octet with
  | none => m.uses
  | some c =>
    if h : c < 32 then
      [{ op := .v ⟨c, h⟩, g := 8, reads := false, writes := false },
        { op := .v ⟨c, h⟩, g := m.words, reads := true, writes := false, lead := true }] ++ m.uses
    else m.uses

/-- The index check of R105 over the operands in some lanes: the lowest failing lane. -/
def idxTrap (w : Warp) (us : List Use) (lanes : Mask) : Option TrapReq :=
  (firstSome (fun l => (firstSome (fun u => u.idxFail w l) us).map fun k => (l, k)) (lanesOf lanes)).map fun p =>
    { w.trap cIDX_RANGE with info := p.2, lv := true, lane := p.1 }

/-- The uncorrectable-error check of R102 over the sources. -/
def ueTrap (w : Warp) (us : List Use) (lanes : Mask) : Option TrapReq :=
  (ueFail w us lanes).map fun p => { w.trap cREG_UE with info := p.2, lv := true, lane := p.1 }

/-- A condition as a trap of a cause. -/
def trapIf (b : Bool) (t : TrapReq) : Option TrapReq := if b then some t else none

/-- R155's checks of orders 1 to 7, first failure first. -/
def issueTrap (s : State) (w : Warp) (i : Instr) (m : Shape) : Option TrapReq :=
  let on := acting m w
  let us := m.allUses
  let rest := on && !m.waits s w
  firstSome id
    [ trapIf ((!w.run.limm.isEmpty && !m.limm) || (m.isLimm && decide (2 ≤ w.run.limm.length))) { w.trap cILLEGAL_ENC with info := encode i },
      trapIf (decide (24 ≤ w.run.pos)) (w.trap cILLEGAL_RUN),
      trapIf (m.long && decide (6 ≤ w.run.taken)) (w.trap cILLEGAL_RUN),
      trapIf (m.ct && !nextIsTrl w m.size) (w.trap cILLEGAL_RUN),
      trapIf (m.priv && !(ctxAt s w.ctx).prv) (w.trap cPRIV),
      trapIf (us.any (·.beyond w.alloc)) (w.trap cILLEGAL_OPERAND),
      trapIf (on && us.any (·.missing w)) (w.trap cILLEGAL_OPERAND),
      if on then m.check s w else none,
      if rest then idxTrap w us (if w.exec = 0 then m.lanes w else w.exec) else none,
      if rest then ueTrap w us (m.lanes w) else none,
      trapIf (rest && (ctxAt s w.ctx).hc && hazard w us (m.lanes w)) (w.trap cHAZARD) ]

/-- The position after an instruction that has issued (R149, R150). -/
def Warp.advance (w : Warp) (m : Shape) : Warp :=
  { w with
    pc := w.pc + m.size
    code := w.code.map fun c => c.drop (m.size / 2)
    tblPages := none
    run := { w.run with
      pos := w.run.pos + 1
      taken := w.run.taken + (if m.long then 1 else 0)
      limm := if m.isLimm then w.run.limm else [] } }

/-- The instruction has issued: position, charge, and a calving stop that was waiting for TM. -/
def retire (s : State) (k : Nat) (m : Shape) : State :=
  match warpAt s k with
  | none => s
  | some w => charge (setWarp s k (w.advance m).calveCheck) w.core w.ctx m.weight

/-- A warp may issue its next instruction: it is in a holder, its clock runs, its core is in service, and no trap waits
(R339, R349, R381, R386). -/
def mayIssue (s : State) (w : Warp) : Bool :=
  w.st == .running && w.pend.isNone && w.held.isEmpty && clusterRuns s (clusterOfCore w.core) &&
    (coreAt s w.core).inService

/-- The issue of one instruction of the current warp: the checks of R155 in their order, then the stalls, then the
effect. -/
def issue (i : Instr) (m : Shape) (eff : State → Warp → Eff) (s : State) : State :=
  match warpAt s s.cur with
  | none => s
  | some w =>
    if !mayIssue s w then s
    else match issueTrap s w i m with
    | some t => raise s s.cur w t
    | none =>
      if acting m w && interlocked w m.uses then s
      else match eff s w with
      | .trap t => raise s s.cur w t
      | .part s' t =>
        match warpAt s' s.cur with
        | none => s'
        | some w' => raise s' s.cur w' t
      | .stall => s
      | .hold s' => s'
      | .wait b => setWarp s s.cur { w with st := .blocked b }
      | .waitIn s' b => modWarp s' s.cur fun w' => { w' with st := .blocked b }
      | .done s' => retire s' s.cur m
      | .doneTrap s' t =>
        let s'' := retire s' s.cur m
        match warpAt s'' s.cur with
        | none => s''
        | some w' => raise s'' s.cur w' { t with resume := w'.pc }

/-- The effect of an instruction that changes its warp only. -/
def warpEff (f : Warp → Warp) (s : State) (w : Warp) : Eff := .done (setWarp s s.cur (f w))

/-! ## Outstanding instructions (R150) -/

/-- Takes the next positional slot for a long-latency instruction with an outstanding result (R150). -/
def Warp.addSlot (w : Warp) (ord : Order) (scope : Scope) (d : SlotDst) (body : SlotBody) : Warp :=
  let w := match d with
    | .ofile n => { w with run := { w.run with owr := w.run.owr ||| BitVec.ofNat 6 (2 ^ n) } }
    | _ => w
  { w with
    slots := w.slots ++ [
      { id := w.nextSlot, run := w.runNo, idx := w.run.taken, pos := w.run.pos, ord := ord,
        scope := scope, dst := d, mask := w.exec, body := body, ret := false }]
    nextSlot := w.nextSlot + 1 }

/-- Holds an arrival or a send that earlier acquires delay; it takes no positional slot (R359). -/
def Warp.addHeld (w : Warp) (scope : Scope) (body : SlotBody) : Warp :=
  { w with
    slots := w.slots ++ [
      { id := w.nextSlot, run := w.runNo, idx := 6, pos := w.run.pos, ord := .acqRel,
        scope := scope, dst := .none, mask := w.exec, body := body, ret := false }]
    nextSlot := w.nextSlot + 1 }

/-- A long-latency instruction whose result is fixed at issue: with no active lane its slot returns at once. -/
def slotEff (d : Dst) (g : Nat) (res : State → Warp → List Nat × Flags) (s : State) (w : Warp) : Eff :=
  if w.exec = 0 then .done s
  else
    let r := res s w
    .done (setWarp s s.cur (w.addSlot .relaxed .warp (w.slotDst d g) (.value r.1 r.2)))

end Sys2Proof.Machine
end

