-- ==== Sys2Proof/Machine/Lane.lean ====
section
/-! DEFINITION. The lane instructions of majors 0x01 to 0x10 and their 16-bit forms (R191 to R203). -/

namespace Sys2Proof.Machine

open Sys2Proof

/-! ## Shared operations -/

/-- A fixed-latency element-wise operation on given source groups: results in the active lanes, l0 and l1, and the
flags of the active lanes' elements (R100, R106, R122, R193). -/
def Warp.elemwise (w : Warp) (d : Dst) (g : Nat) (t : NumTy) (op : ElemOp) (as bs : List Nat) : Warp :=
  let ds := w.rd (dstOpnd d) g t
  let n := numBits t
  let rs := laneList.map fun l =>
    if inMask w.exec l then mapElems n (64 * g / n) op (as.getD l 0) (bs.getD l 0) (ds.getD l 0) else (0, 0)
  { w.result d g (fun l => (rs.getD l (0, 0)).1) with aflags := addFlags w.aflags (orFlags (rs.map (·.2))) }

/-- The composed immediate of R144 as an unsigned 64-bit value; `f` is a field of `w` bits. -/
def immOf (ls : List (BitVec 25)) (w f : Nat) (signExt : Bool) : Nat :=
  match ls with
  | [] => if signExt then wrap 64 (sext w f) else f
  | [l1] => wrap 64 (sext (w + 25) (l1.toNat * 2 ^ w + f))
  | l0 :: l1 :: _ => wrap 64 (sext (w + 50) (l0.toNat * 2 ^ (w + 25) + l1.toNat * 2 ^ w + f))

/-- The weight of an element-wise integer instruction (R160). -/
def aluShape (f : AluOp) (weight : Nat) (rdD : Bool) : Shape :=
  { size := 4, weight := weight * f.w.regs
    uses := [src f.a f.w, src f.b f.w, if rdD then dstRead f.d f.w else dst f.d f.w] }

/-- A T-format integer instruction with two sources (R193). -/
def aluIssue (i : Instr) (f : AluOp) (weight : Nat) (rdD : Bool) (op : ElemOp) (s : State) : State :=
  let t := NumTy.int f.t
  let g := f.w.regs
  issue i (aluShape f weight rdD)
    (warpEff fun w => w.elemwise f.d g t op (w.rd f.a g t) (w.rd f.b g t)) s

/-- A unary T-format integer instruction (R193). -/
def unIssue (i : Instr) (f : AluUn) (op : ElemOp) (s : State) : State :=
  let t := NumTy.int f.t
  let g := f.w.regs
  issue i { size := 4, weight := 8 * g, uses := [src f.a f.w, dst f.d f.w] }
    (warpEff fun w => w.elemwise f.d g t op (w.rd f.a g t) []) s

/-- An I-format instruction: one register, the composed immediate in every element (R202). -/
def immIssue (i : Instr) (f : AluImm) (op : ElemOp) (s : State) : State :=
  let t := NumTy.int f.t
  let n := numBits t
  issue i { size := 4, weight := 8, limm := true, uses := [src f.a .w1, dst f.d .w1] }
    (warpEff fun w =>
      let y := splat n (64 / n) (immOf w.run.limm 10 f.imm.toNat true)
      w.elemwise f.d 1 t op (w.rd f.a 1 t) (List.replicate 32 y)) s

/-- An immediate shift: the amount is the composed immediate read as an unsigned 64-bit integer (R197). -/
def shImmIssue (i : Instr) (f : ShImm) (op : ElemOp) (s : State) : State :=
  let t := NumTy.int f.t
  let g := f.w.regs
  issue i { size := 4, weight := 8 * g, limm := true, uses := [src f.a f.w, dst f.d f.w] }
    (warpEff fun w =>
      let q := immOf w.run.limm 6 f.imm.toNat false
      w.elemwise f.d g t (fun x _ d => op x q d) (w.rd f.a g t) []) s

/-- The integer type of a 16-bit form (R146). -/
def shortTy (f : Short) : IntTy := if f.t then .s64 else .s32

/-- A 16-bit form with d as destination and first source (R146). -/
def shortIssue (i : Instr) (f : Short) (weight : Nat) (t : NumTy) (op : ElemOp) (s : State) : State :=
  issue i { size := 2, weight := weight, uses := [src (.v f.d) .w1, src (.v f.s) .w1, dst (.v f.d) .w1] }
    (warpEff fun w => w.elemwise (.v f.d) 1 t op (w.rd (.v f.d) 1 t) (w.rd (.v f.s) 1 t)) s

/-- The signed five-bit immediate of a 16-bit form in every element (R203). -/
def shortImm (f : Short) : List Nat :=
  let n := tyBits (shortTy f)
  List.replicate 32 (splat n (64 / n) (wrap n (sext 5 f.s.val)))

/-! ## Arithmetic (R194) -/

def execIadd (f : AluOp) (s : State) : Res := .next (aluIssue (.iadd f) f 8 false (eAdd f.t) s)
def execIsub (f : AluOp) (s : State) : Res := .next (aluIssue (.isub f) f 8 false (eSub f.t) s)
def execIadds (f : AluOp) (s : State) : Res := .next (aluIssue (.iadds f) f 8 false (eAdds f.t) s)
def execIsubs (f : AluOp) (s : State) : Res := .next (aluIssue (.isubs f) f 8 false (eSubs f.t) s)
def execIaddi (f : AluImm) (s : State) : Res := .next (immIssue (.iaddi f) f (eAdd f.t) s)
def execImul (f : AluOp) (s : State) : Res := .next (aluIssue (.imul f) f 16 false (eMul f.t) s)
def execImulh (f : AluOp) (s : State) : Res := .next (aluIssue (.imulh f) f 16 false (eMulh f.t) s)
def execImad (f : AluOp) (s : State) : Res := .next (aluIssue (.imad f) f 16 true (eMad f.t) s)
def execImin (f : AluOp) (s : State) : Res := .next (aluIssue (.imin f) f 8 false (eMin f.t) s)
def execImax (f : AluOp) (s : State) : Res := .next (aluIssue (.imax f) f 8 false (eMax f.t) s)
def execIabs (f : AluUn) (s : State) : Res := .next (unIssue (.iabs f) f (eAbs f.t) s)
def execIneg (f : AluUn) (s : State) : Res := .next (unIssue (.ineg f) f (eNeg f.t) s)

/-! ## Logic, select and move (R195, R202) -/

def execAnd (f : AluOp) (s : State) : Res := .next (aluIssue (.and f) f 8 false eAnd s)
def execOr (f : AluOp) (s : State) : Res := .next (aluIssue (.or f) f 8 false eOr s)
def execXor (f : AluOp) (s : State) : Res := .next (aluIssue (.xor f) f 8 false eXor s)
def execAndn (f : AluOp) (s : State) : Res := .next (aluIssue (.andn f) f 8 false eAndn s)
def execAndi (f : AluImm) (s : State) : Res := .next (immIssue (.andi f) f eAnd s)
def execOri (f : AluImm) (s : State) : Res := .next (immIssue (.ori f) f eOr s)
def execXori (f : AluImm) (s : State) : Res := .next (immIssue (.xori f) f eXor s)
def execSel (f : AluOp) (s : State) : Res := .next (aluIssue (.sel f) f 8 true eSel s)
def execMov (f : AluUn) (s : State) : Res := .next (unIssue (.mov f) f eMov s)

/-- MOVI: the immediate in every element (R202). -/
def execMovi (f : MovImm) (s : State) : Res :=
  let t := NumTy.int f.t
  let n := numBits t
  .next (issue (.movi f) { size := 4, weight := 8, limm := true, uses := [dst f.d .w1] }
    (warpEff fun w =>
      let y := splat n (64 / n) (immOf w.run.limm 10 f.imm.toNat true)
      w.elemwise f.d 1 t eMovi [] (List.replicate 32 y)) s)

/-! ## Shifts and rotates (R196, R197) -/

def execShl (f : AluOp) (s : State) : Res := .next (aluIssue (.shl f) f 8 false (eShl f.t) s)
def execShr (f : AluOp) (s : State) : Res := .next (aluIssue (.shr f) f 8 false (eShr f.t) s)
def execSra (f : AluOp) (s : State) : Res := .next (aluIssue (.sra f) f 8 false (eSra f.t) s)
def execRot (f : AluOp) (s : State) : Res := .next (aluIssue (.rot f) f 8 false (eRot f.t) s)
def execShli (f : ShImm) (s : State) : Res := .next (shImmIssue (.shli f) f (eShl f.t) s)
def execShri (f : ShImm) (s : State) : Res := .next (shImmIssue (.shri f) f (eShr f.t) s)
def execSrai (f : ShImm) (s : State) : Res := .next (shImmIssue (.srai f) f (eSra f.t) s)
def execRoti (f : ShImm) (s : State) : Res := .next (shImmIssue (.roti f) f (eRot f.t) s)

/-! ## Bits and addresses (R198 to R200) -/

def execPopc (f : AluUn) (s : State) : Res := .next (unIssue (.popc f) f (ePopc f.t) s)
def execClz (f : AluUn) (s : State) : Res := .next (unIssue (.clz f) f (eClz f.t) s)
def execCtz (f : AluUn) (s : State) : Res := .next (unIssue (.ctz f) f (eCtz f.t) s)
def execBrev (f : AluUn) (s : State) : Res := .next (unIssue (.brev f) f (eBrev f.t) s)
def execBfx (f : AluOp) (s : State) : Res := .next (aluIssue (.bfx f) f 8 false (eBfx f.t) s)
def execBfxs (f : AluOp) (s : State) : Res := .next (aluIssue (.bfxs f) f 8 false (eBfxs f.t) s)
def execBfi (f : AluOp) (s : State) : Res := .next (aluIssue (.bfi f) f 8 true (eBfi f.t) s)

/-- LEA works on whole registers; its constants are sign-extended to 64 bits (R140, R200). -/
def execLea (f : AluOp) (s : State) : Res :=
  let t := NumTy.int .s64
  let g := f.w.regs
  .next (issue (.lea f) (aluShape f 8 false)
    (warpEff fun w => w.elemwise f.d g t (eLea f.t) (w.rd f.a g t) (w.rd f.b g t)) s)

/-! ## Compares (R201) -/

def execIseteq (f : AluOp) (s : State) : Res := .next (aluIssue (.iseteq f) f 8 false (eSeteq f.t) s)
def execIsetne (f : AluOp) (s : State) : Res := .next (aluIssue (.isetne f) f 8 false (eSetne f.t) s)
def execIsetlt (f : AluOp) (s : State) : Res := .next (aluIssue (.isetlt f) f 8 false (eSetlt f.t) s)
def execIsetle (f : AluOp) (s : State) : Res := .next (aluIssue (.isetle f) f 8 false (eSetle f.t) s)
def execIsetgt (f : AluOp) (s : State) : Res := .next (aluIssue (.isetgt f) f 8 false (eSetgt f.t) s)
def execIsetge (f : AluOp) (s : State) : Res := .next (aluIssue (.isetge f) f 8 false (eSetge f.t) s)
def execItest (f : AluOp) (s : State) : Res := .next (aluIssue (.itest f) f 8 false (eTest f.t) s)

/-! ## The 16-bit forms (R146, R147, R203) -/

/-- MOV takes its source and destination in separate fields (R146). -/
def execMov16 (f : Short) (s : State) : Res :=
  let t := NumTy.int (shortTy f)
  .next (issue (.mov16 f) { size := 2, weight := 8, uses := [src (.v f.s) .w1, dst (.v f.d) .w1] }
    (warpEff fun w => w.elemwise (.v f.d) 1 t eMov (w.rd (.v f.s) 1 t) []) s)

/-- The halfword 0x0000 has no effect: it reads and writes no register, leaves l0 and l1, and counts as one
instruction of its run (R147). -/
def execZeroHalfword (s : State) : Res :=
  .next (issue .zeroHalfword { size := 2, weight := 8 } (warpEff id) s)

def execIadd16 (f : Short) (s : State) : Res :=
  .next (shortIssue (.iadd16 f) f 8 (.int (shortTy f)) (eAdd (shortTy f)) s)
def execIsub16 (f : Short) (s : State) : Res :=
  .next (shortIssue (.isub16 f) f 8 (.int (shortTy f)) (eSub (shortTy f)) s)
def execAnd16 (f : Short) (s : State) : Res := .next (shortIssue (.and16 f) f 8 (.int (shortTy f)) eAnd s)
def execOr16 (f : Short) (s : State) : Res := .next (shortIssue (.or16 f) f 8 (.int (shortTy f)) eOr s)
def execXor16 (f : Short) (s : State) : Res := .next (shortIssue (.xor16 f) f 8 (.int (shortTy f)) eXor s)
def execImul16 (f : Short) (s : State) : Res :=
  .next (shortIssue (.imul16 f) f 16 (.int (shortTy f)) (eMul (shortTy f)) s)

/-- A 16-bit form with an immediate in its s field (R203). -/
def shortImmIssue (i : Instr) (f : Short) (rdD : Bool) (op : ElemOp) (s : State) : State :=
  let t := NumTy.int (shortTy f)
  issue i { size := 2, weight := 8, uses := [if rdD then dstRead (.v f.d) .w1 else dst (.v f.d) .w1] }
    (warpEff fun w => w.elemwise (.v f.d) 1 t op (w.rd (.v f.d) 1 t) (shortImm f)) s

def execShli16 (f : Short) (s : State) : Res :=
  .next (shortImmIssue (.shli16 f) f true (fun x _ d => eShl (shortTy f) x f.s.val d) s)
def execShri16 (f : Short) (s : State) : Res :=
  .next (shortImmIssue (.shri16 f) f true (fun x _ d => eShr (shortTy f) x f.s.val d) s)
def execMovi16 (f : Short) (s : State) : Res := .next (shortImmIssue (.movi16 f) f false eMovi s)
def execIaddi16 (f : Short) (s : State) : Res :=
  .next (shortImmIssue (.iaddi16 f) f true (eAdd (shortTy f)) s)

end Sys2Proof.Machine
end

