-- ==== Sys2Proof/Machine/SeNum.lean ====
section
/-! DEFINITION. The SE family (R124 to R126) and the table arithmetic of the lookup engine (R133 to R135). -/

namespace Sys2Proof.Machine

open Sys2Proof

/-- The magnitude width m of an SE member (R124). -/
def seWidth (s : SeFmt) : Nat :=
  match s with
  | .se3 => 2
  | .se5 => 4
  | .se8 => 7

/-- The bytes of an element plane (R124). -/
def sePlane (s : SeFmt) : Nat := 4 + 4 * seWidth s

/-- An SE block: its element plane and its scale plane, each a little-endian number (R124). -/
structure SeBlock where
  plane : Nat
  scale : Nat
  deriving DecidableEq, Repr

/-- The shared exponent E. -/
def SeBlock.exp (b : SeBlock) : Nat := b.scale % 256

/-- A NaN block (R125). -/
def SeBlock.isNan (b : SeBlock) : Bool := b.exp == 0xFF

/-- The group bit of element i. -/
def SeBlock.group (b : SeBlock) (i : Nat) : Nat := b.scale / 2 ^ (8 + i / 8) % 2

/-- The sign of element i. -/
def SeBlock.sign (b : SeBlock) (i : Nat) : Bool := b.plane / 2 ^ i % 2 == 1

/-- The magnitude of element i. -/
def SeBlock.mag (s : SeFmt) (b : SeBlock) (i : Nat) : Nat := b.plane / 2 ^ (32 + seWidth s * i) % 2 ^ seWidth s

/-- The exponent of a magnitude's unit (R124). -/
def seUnit (s : SeFmt) (e g : Nat) : Int := (e : Int) - 127 - g - (seWidth s - 1 : Nat)

/-- The value of sign, magnitude, exponent and group bit (R124, R125). -/
def seVal (s : SeFmt) (neg : Bool) (mag e g : Nat) : FVal :=
  if e = 0xFF then .nan false false else .fin neg mag (seUnit s e g)

/-- R136 `se_value`. -/
def seValue (s : SeFmt) (b : SeBlock) (i : Nat) : FVal := seVal s (b.sign i) (b.mag s i) b.exp (b.group i)

/-- The magnitude that a value rounds to in units of 2^u, and whether it is inexact. -/
def seRound (rm : RMode) (u : Int) (v : FVal) : Nat × Bool :=
  match v with
  | .fin n m e => if u ≤ e then (m * 2 ^ (e - u).toNat, false) else roundShift rm n false m (u - e).toNat
  | _ => (0, false)

/-- Whether every value rounds to at most 2^m − 1 at E and γ. -/
def seFits (s : SeFmt) (rm : RMode) (e g : Nat) (vs : List FVal) : Bool :=
  vs.all fun v => decide ((seRound rm (seUnit s e g) v).1 ≤ 2 ^ seWidth s - 1)

/-- The smallest E from `e` up, at most 254, at which every value fits (R126 step 2). -/
def seExp (s : SeFmt) (rm : RMode) (vs : List FVal) (n e : Nat) : Option Nat :=
  match n with
  | 0 => none
  | n + 1 => if seFits s rm e 0 vs then some e else seExp s rm vs n (e + 1)

/-- A number from its fields of width w, field 0 lowest. -/
def packFields (w : Nat) (fs : List Nat) : Nat :=
  match fs with
  | [] => 0
  | f :: fs => f % 2 ^ w + 2 ^ w * packFields w fs

/-- R126: the block of 32 values and the flags. -/
def sePack (s : SeFmt) (rm : RMode) (vs : List FVal) : SeBlock × Flags :=
  if vs.any fun v => v.isNan || v.isInf then (⟨0, 0xFF⟩, fSN ||| fNV)
  else
    let found := seExp s rm vs 255 0
    let e := found.getD 254
    let group := fun q => (vs.drop (8 * q)).take 8
    let gs := (List.range 4).map fun q => if seFits s rm e 1 (group q) then 1 else 0
    let rs := (List.range 32).map fun i => seRound rm (seUnit s e (gs.getD (i / 8) 0)) (vs.getD i (.fin false 0 0))
    let mags := rs.map fun r => min r.1 (2 ^ seWidth s - 1)
    let signs := vs.map fun v => if v.neg then 1 else 0
    let under := (List.range 32).any fun i => (mags.getD i 0) == 0 && !(vs.getD i (.fin false 0 0)).isZero
    (⟨packFields 1 signs + 2 ^ 32 * packFields (seWidth s) mags, e + 256 * packFields 1 gs⟩,
      flagIf found.isNone fOF ||| flagIf (found.isNone || rs.any (·.2)) fNX ||| flagIf under fUF)

/-! ## Lookup tables (R133 to R135) -/

/-- The smallest Et with |a| < 2^Et for every finite activation, 0 if all are zero (R133 step 1). -/
def tableExp (as : List FVal) : Int :=
  match (nzFinite as).map fun p => exp2Of p.2.1 p.2.2 with
  | [] => 0
  | e :: es => es.foldl max e + 1

/-- a′ = trunc(a × 2^(29 − Et)); a NaN or an infinity counts as 0 (R133 step 2). -/
def tableAct (et : Int) (a : FVal) : Int :=
  match a with
  | .fin n m e => sgn n (alignTrunc m (e + 29 - et) 0)
  | _ => 0

/-- The sum of step 3 over four activations for pattern c. -/
def patternSum (c : Nat) (as : List Int) : Int :=
  match as with
  | [] => 0
  | a :: as => (if c % 2 = 1 then a else -a) + patternSum (c / 2) as

/-- The stored entries: 256 groups of eight, entry 8g + (c AND 7) for pattern c with bit 3 set (R133 step 3). -/
def tableEntries (et : Int) (as : List FVal) : List Int :=
  (List.range 256).flatMap fun g =>
    let four := ((as.drop (4 * g)).take 4).map (tableAct et)
    (List.range 8).map fun c => patternSum (c + 8) four

/-- R136 `table_entry`, over a reader of the stored words. -/
def tableEntry (stored : Nat → Int) (g c : Nat) : Int :=
  if 8 ≤ c % 16 then stored (8 * g + c % 8) else -stored (8 * g + (15 - c % 16) % 8)

/-- clamp64 of R260, with SAT where it changes the sum. -/
def clamp64 (i : Int) : Int × Flags :=
  if i < -(2 ^ 63 : Nat) then (-(2 ^ 63 : Nat), fSAT)
  else if (2 ^ 63 : Nat) - 1 < i then ((2 ^ 63 : Nat) - 1, fSAT)
  else (i, 0)

/-- TFIN's value of an integer accumulator (R261): the NaN mark of the table, the accumulator, the table exponent and
the scale. -/
def finValue (nan : Bool) (acc et : Int) (sc : FVal) : Nat × Flags :=
  match sc with
  | .nan _ sig => (canonNan (fmtOf .f), flagIf sig fNV)
  | .inf n =>
    if nan || acc = 0 then (canonNan (fmtOf .f), flagIf (acc = 0 && !nan) fNV)
    else (signed (fmtOf .f) (n != decide (acc < 0)) (infCode (fmtOf .f)), 0)
  | .fin n m e =>
    if nan then (canonNan (fmtOf .f), 0)
    else rneF32 (.fin (n != decide (acc < 0)) (acc.natAbs * m) (e + et - 29))

end Sys2Proof.Machine
end

