-- ==== Sys2Proof/Machine/Flt.lean ====
section
/-! DEFINITION. The float instructions of majors 0x1A to 0x21 and the 16-bit float forms (R211 to R227). -/

namespace Sys2Proof.Machine

open Sys2Proof

/-! ## Shared operations -/

/-- The numeric modes of a warp (R119, R120). -/
def Warp.mode (w : Warp) : NumMode := { rm := aflagRm w.aflags, ftz := aflagFtz w.aflags }

/-- The weight of a fixed-latency float instruction per register (R160). -/
def fltWeight (t : FltTy) : Nat := if t = .d then 96 else 24

/-- A T-format float instruction with two sources (R211). -/
def fltIssue (i : Instr) (f : FltOp) (rdD : Bool) (op : NumMode → ElemOp) (s : State) : State :=
  let t := NumTy.flt f.t
  let g := f.w.regs
  issue i
    { size := 4, weight := fltWeight f.t * g
      uses := [src f.a f.w, src f.b f.w, if rdD then dstRead f.d f.w else dst f.d f.w] }
    (warpEff fun w => w.elemwise f.d g t (op w.mode) (w.rd f.a g t) (w.rd f.b g t)) s

/-- A unary T-format float instruction (R211). -/
def fltUnIssue (i : Instr) (f : FltUn) (op : NumMode → ElemOp) (s : State) : State :=
  let t := NumTy.flt f.t
  let g := f.w.regs
  issue i { size := 4, weight := fltWeight f.t * g, uses := [src f.a f.w, dst f.d f.w] }
    (warpEff fun w => w.elemwise f.d g t (op w.mode) (w.rd f.a g t) []) s

/-- The group results and flags of a unary element operation in the active lanes. -/
def Warp.unResults (w : Warp) (a : Opnd) (g : Nat) (t : NumTy) (op : ElemOp) : List Nat × Flags :=
  let as := w.rd a g t
  let n := numBits t
  let rs := laneList.map fun l =>
    if inMask w.exec l then mapElems n (64 * g / n) op (as.getD l 0) 0 0 else (0, 0)
  (rs.map (·.1), orFlags (rs.map (·.2)))

/-- A long-latency function of R216: results and flags arrive when the slot returns. -/
def fnIssue (i : Instr) (f : FltUn) (fn : Fn) (s : State) : State :=
  let g := f.w.regs
  issue i { size := 4, long := true, weight := 64 * g, uses := [src f.a f.w, dst f.d f.w] }
    (slotEff f.d g fun _ w => w.unResults f.a g (.flt f.t) (eFn fn f.t w.mode)) s

/-! ## Arithmetic (R213 to R215) -/

def execFadd (f : FltOp) (s : State) : Res := .next (fltIssue (.fadd f) f false (eFadd f.t) s)
def execFsub (f : FltOp) (s : State) : Res := .next (fltIssue (.fsub f) f false (eFsub f.t) s)
def execFmul (f : FltOp) (s : State) : Res := .next (fltIssue (.fmul f) f false (eFmul f.t) s)
def execFfma (f : FltOp) (s : State) : Res := .next (fltIssue (.ffma f) f true (eFfma f.t) s)
def execFmin (f : FltOp) (s : State) : Res := .next (fltIssue (.fmin f) f false (eFmin f.t) s)
def execFmax (f : FltOp) (s : State) : Res := .next (fltIssue (.fmax f) f false (eFmax f.t) s)
def execFabs (f : FltUn) (s : State) : Res := .next (fltUnIssue (.fabs f) f (fun _ => eFabs f.t) s)
def execFneg (f : FltUn) (s : State) : Res := .next (fltUnIssue (.fneg f) f (fun _ => eFneg f.t) s)

/-! ## Functions (R216 to R218) -/

def execFrcp (f : FltUn) (s : State) : Res := .next (fnIssue (.frcp f) f .rcp s)
def execFrsq (f : FltUn) (s : State) : Res := .next (fnIssue (.frsq f) f .rsq s)
def execFsqrt (f : FltUn) (s : State) : Res := .next (fnIssue (.fsqrt f) f .sqrt s)
def execFexp2 (f : FltUn) (s : State) : Res := .next (fnIssue (.fexp2 f) f .exp2 s)
def execFlog2 (f : FltUn) (s : State) : Res := .next (fnIssue (.flog2 f) f .log2 s)
def execFsin (f : FltUn) (s : State) : Res := .next (fnIssue (.fsin f) f .sin s)
def execFcos (f : FltUn) (s : State) : Res := .next (fnIssue (.fcos f) f .cos s)
def execFrnd (f : FltUn) (s : State) : Res := .next (fltUnIssue (.frnd f) f (eFrnd f.t) s)

/-! ## Compares and classification (R219, R220) -/

def execFseteq (f : FltOp) (s : State) : Res := .next (fltIssue (.fseteq f) f false (eFseteq f.t) s)
def execFsetne (f : FltOp) (s : State) : Res := .next (fltIssue (.fsetne f) f false (eFsetne f.t) s)
def execFsetlt (f : FltOp) (s : State) : Res := .next (fltIssue (.fsetlt f) f false (eFsetlt f.t) s)
def execFsetle (f : FltOp) (s : State) : Res := .next (fltIssue (.fsetle f) f false (eFsetle f.t) s)
def execFsetgt (f : FltOp) (s : State) : Res := .next (fltIssue (.fsetgt f) f false (eFsetgt f.t) s)
def execFsetge (f : FltOp) (s : State) : Res := .next (fltIssue (.fsetge f) f false (eFsetge f.t) s)
def execFsetun (f : FltOp) (s : State) : Res := .next (fltIssue (.fsetun f) f false (eFsetun f.t) s)
def execFclass (f : FltUn) (s : State) : Res := .next (fltUnIssue (.fclass f) f (fun _ => eFclass f.t) s)

/-! ## Conversion and packing (R221 to R227) -/

/-- A CVT type is d (R160, R236). -/
def isD (t : NumTy) : Bool := t == .flt .d

/-- CVT on each active lane (R222). -/
def Warp.cvt (w : Warp) (f : CvtOp) : Warp :=
  let g := f.w.regs
  let as := w.rd f.a g f.src
  let rs := laneList.map fun l =>
    if inMask w.exec l then convertLane f.src f.dst f.rm f.sat (aflagFtz w.aflags) g (as.getD l 0) else (0, 0)
  { w.result f.d g (fun l => (rs.getD l (0, 0)).1) with aflags := addFlags w.aflags (orFlags (rs.map (·.2))) }

def execCvt (f : CvtOp) (s : State) : Res :=
  let g := f.w.regs
  .next (issue (.cvt f)
    { size := 4, weight := (if isD f.src || isD f.dst then 96 else 24) * g, uses := [src f.a f.w, dst f.d f.w] }
    (warpEff fun w => w.cvt f) s)

/-- F8PK on each active lane (R223). -/
def Warp.f8pk (w : Warp) (f : F8PkOp) : Warp :=
  let t := NumTy.flt .bf
  let as := w.rd f.a 1 t
  let bs := w.rd f.b 1 t
  let rs := laneList.map fun l =>
    if inMask w.exec l then f8Pack f.e5 (aflagRm w.aflags) (as.getD l 0) (bs.getD l 0) else (0, 0)
  { w.result f.d 1 (fun l => (rs.getD l (0, 0)).1) with aflags := addFlags w.aflags (orFlags (rs.map (·.2))) }

def execF8pk (f : F8PkOp) (s : State) : Res :=
  .next (issue (.f8pk f) { size := 4, weight := 24, uses := [src f.a .w1, src f.b .w1, dst f.d .w1] }
    (warpEff fun w => w.f8pk f) s)

def execF8unpk (f : F8UnpkOp) (s : State) : Res :=
  .next (issue (.f8unpk f) { size := 4, weight := 24, uses := [src f.a .w1, dst f.d .w1] }
    (warpEff fun w =>
      let as := w.rd f.a 1 (.flt (if f.e5 then .e5 else .e4))
      w.result f.d 1 fun l => f8Unpack f.e5 f.h (as.getD l 0)) s)

/-! ### SE blocks across a warp (R225) -/

/-- The block image in lanes 0 to 4: the element plane by 8 bytes, the scale plane in lane 4 (R225). -/
def seImageLane (b : SeBlock) (l : Nat) : Nat :=
  if l < 4 then b.plane / 2 ^ (64 * l) % 2 ^ 64
  else if l = 4 then b.scale % 2 ^ 12
  else 0

/-- The block that lanes 0 to 4 hold; bits outside the image are ignored (R225, R227). -/
def seFromLanes (m : SeFmt) (v : Nat → Nat) : SeBlock :=
  { plane := (v 0 + 2 ^ 64 * v 1 + 2 ^ 128 * v 2 + 2 ^ 192 * v 3) % 2 ^ (8 * sePlane m), scale := v 4 % 2 ^ 12 }

/-- SEPK: the FP32 values of the active lanes, +0 for the others, as one block (R226). -/
def Warp.sepkResult (w : Warp) (f : SeOp) : List Nat × Flags :=
  let as := w.rd f.a 1 (.flt .f)
  let vs := laneList.map fun l => f32Val (if inMask w.exec l then as.getD l 0 % 2 ^ 32 else 0)
  let r := sePack f.m (aflagRm w.aflags) vs
  (laneList.map (seImageLane r.1), r.2)

/-- SEPK writes those of lanes 0 to 4 that are active; with none of them active it writes nothing, but takes its slot and
sets its flags (R226). -/
def execSepk (f : SeOp) (s : State) : Res :=
  .next (issue (.sepk f) { size := 4, long := true, weight := 48, uses := [src f.a .w1, { dst f.d .w1 with below := 5 }] }
    (fun s w =>
      if w.exec = 0 then .done s
      else
        let r := w.sepkResult f
        let d := if w.exec &&& 0x1F = 0 then SlotDst.none else w.slotDst f.d 1
        let w' := w.addSlot .relaxed .warp d (.value r.1 r.2)
        .done (setWarp s s.cur { w' with
          slots := modAt w'.slots w.slots.length fun sl => { sl with mask := w.exec &&& 0x1F } })) s)

/-- SEUNPK: each active lane receives its element's value as FP32 (R227). -/
def Warp.seunpkResult (w : Warp) (f : SeOp) : List Nat × Flags :=
  let as := w.rd f.a 1 (.flt .f)
  let b := seFromLanes f.m fun l => as.getD l 0
  if b.isNan then (List.replicate 32 0x7FC00000, fSN)
  else (laneList.map fun l => (rneF32 (seValue f.m b l)).1, 0)

def execSeunpk (f : SeOp) (s : State) : Res :=
  .next (issue (.seunpk f)
    { size := 4, long := true, weight := 48, uses := [src f.a .w1, dst f.d .w1], lanes := fun _ => 0x1F }
    (slotEff f.d 1 fun _ w => w.seunpkResult f) s)

/-! ## The 16-bit float forms (R146) -/

/-- The float type of a 16-bit form (R146). -/
def shortFlt (f : Short) : FltTy := if f.t then .h else .f

/-- A 16-bit float form (R146, R213). -/
def shortFltIssue (i : Instr) (f : Short) (op : NumMode → ElemOp) (s : State) : State :=
  let t := NumTy.flt (shortFlt f)
  issue i { size := 2, weight := 24, uses := [src (.v f.d) .w1, src (.v f.s) .w1, dst (.v f.d) .w1] }
    (warpEff fun w => w.elemwise (.v f.d) 1 t (op w.mode) (w.rd (.v f.d) 1 t) (w.rd (.v f.s) 1 t)) s

def execFadd16 (f : Short) (s : State) : Res := .next (shortFltIssue (.fadd16 f) f (eFadd (shortFlt f)) s)
def execFmul16 (f : Short) (s : State) : Res := .next (shortFltIssue (.fmul16 f) f (eFmul (shortFlt f)) s)
def execFsub16 (f : Short) (s : State) : Res := .next (shortFltIssue (.fsub16 f) f (eFsub (shortFlt f)) s)

end Sys2Proof.Machine
end

