-- ==== Sys2Proof/Machine/Scratch.lean ====
section
/-! DEFINITION. The scratchpad: bytes, poison, page generations, address checks and the range scoreboard (R71 to R78,
R96 to R98). -/

namespace Sys2Proof.Machine

open Sys2Proof

/-- The key of a core scratchpad byte (R71). -/
def scrKey (core a : Nat) : Nat := core * 2 ^ 22 + a

/-- A crew's offset as a core scratchpad address (R74). -/
def Crew.addr (c : Crew) (off : Nat) : Nat := c.page * 4096 + off

/-- The size of a crew's allocation in bytes (R74). -/
def Crew.bytes (c : Crew) : Nat := c.pages * 4096

/-- The poison mark of the 32-byte unit that holds a byte (R76). -/
def scrPoison (s : State) (core a : Nat) : Bool := look s.scrPois (scrKey core a / 32) false

/-- Sets the mark of a unit. -/
def setScrPoison (s : State) (core a : Nat) (p : Bool) : State :=
  { s with scrPois := putD s.scrPois (scrKey core a / 32) false p }

/-- Bytes of a scratchpad. -/
def scrRead (s : State) (core a n : Nat) : List Byte := rdBytes s.scr (scrKey core a) n

/-- Some unit of a range is poisoned. -/
def scrAnyPoison (s : State) (core a n : Nat) : Bool :=
  (List.range (n / 32 + 2)).any fun i => decide ((a / 32 + i) * 32 < a + n) && scrPoison s core ((a / 32 + i) * 32)

/-- Writes bytes; a unit written whole loses its mark (R76). -/
def scrWrite (s : State) (core a : Nat) (bs : List Byte) : State :=
  let s := { s with scr := wrBytes s.scr (scrKey core a) bs }
  (List.range (bs.length / 32 + 2)).foldl (fun s i =>
    let u := (a / 32 + i) * 32
    if a ≤ u ∧ u + 32 ≤ a + bs.length then setScrPoison s core u false else s) s

/-- Poisons the units of a range (R93). -/
def scrSetPoison (s : State) (core a n : Nat) : State :=
  (List.range (n / 32 + 2)).foldl (fun s i =>
    let u := (a / 32 + i) * 32
    if u < a + n then setScrPoison s core u true else s) s

/-! ## Page generations (R77, R78) -/

/-- The key of a core page's generation. -/
def genKey (core page : Nat) : Nat := core * 1024 + page

/-- A page's write generation. -/
def genOf (s : State) (core page : Nat) : BitVec 16 := look s.gens (genKey core page) 0

/-- A page wraps: the table registers whose source pages include it become stale, and the wrap counter of the crew that
holds it advances (R78, R256). -/
def staleTables (s : State) (core page : Nat) : State :=
  { s with
    crews := s.crews.map fun e =>
      let c := e.2
      if c.core == core && c.st.resident && decide (c.page ≤ page) && decide (page < c.page + c.pages) then
        (e.1, { c with
          wrap := c.wrap + 1
          tables := c.tables.map fun t =>
            if t.2.src.any fun p => c.page + p.1 == page then (t.1, { t.2 with stale := true }) else t })
      else e }

/-- One event that writes a page (R77); a wrap makes the tables sourced from it stale (R78). -/
def bumpGen (s : State) (core page : Nat) : State :=
  let g := genOf s core page + 1
  let s' := { s with gens := putD s.gens (genKey core page) 0 g }
  if g = 0 then staleTables s' core page else s'

/-- One event that writes the pages of a range. -/
def bumpRange (s : State) (core a n : Nat) : State :=
  if n = 0 then s
  else (List.range ((a + n - 1) / 4096 - a / 4096 + 1)).foldl (fun s i => bumpGen s core (a / 4096 + i)) s

/-- One event that writes some pages. -/
def bumpPages (s : State) (core : Nat) (pages : List Nat) : State := pages.foldl (fun s p => bumpGen s core p) s

/-! ## Address checks (R62, R74) -/

/-- The crew that a scratchpad address of a warp names: its own, or the partner for bit 22 (R62). A partner that has exited
has no allocation (R75; log 94). -/
def halfCrew (s : State) (w : Warp) (a : Nat) : Option (Nat × Crew) :=
  match crewAt s w.crewK with
  | none => none
  | some c =>
    if bit a 22 then
      match c.partner with
      | none => none
      | some p => (crewAt s p).bind fun d => if d.st = .exited then none else some (p, d)
    else some (w.crewK, c)

/-- R74's checks of an address; a location, or the cause. -/
def scratchCheck (s : State) (w : Warp) (a size : Nat) : Loc ⊕ Nat :=
  if a % size ≠ 0 then .inr cALIGN
  else if 2 ^ 23 ≤ a then .inr cPROT
  else match halfCrew s w a with
    | none => .inr cPROT
    | some (_, c) =>
      let off := a % 2 ^ 22
      if c.bytes < off + size then .inr cPROT
      else .inl (.scratch c.core (c.addr off) (bit a 22))

/-! ## The range scoreboard (R96 to R98) -/

/-- The commands of a core that hold entries: every unretired command of its engines. -/
def coreCmds (s : State) (core : Nat) : List Cmd := (List.range 6).flatMap fun e => queueAt s (queueKey core e)

/-- The entries in use on a core. -/
def sbUsed (s : State) (core : Nat) : Nat := ((coreCmds s core).map fun c => c.entries.length).foldl (· + ·) 0

/-- Two byte intervals meet. -/
def SbEntry.meets (e : SbEntry) (lo hi : Nat) : Bool := decide (e.lo < hi) && decide (lo < e.hi)

/-- A warp access to [lo, hi) is stalled by an entry (R98): a read by a write range, a write by any. -/
def sbStalls (s : State) (core lo hi : Nat) (writes : Bool) : Bool :=
  (coreCmds s core).any fun c => c.entries.any fun e => e.meets lo hi && (writes || e.wr)

/-- An operation with these entries must wait for one that holds others (R97). -/
def sbOrdered (mine theirs : List SbEntry) : Bool :=
  mine.any fun a => theirs.any fun b => b.meets a.lo a.hi && (a.wr || b.wr)

end Sys2Proof.Machine
end

