-- ==== Sys2Proof/Machine/Order.lean ====
section
/-! DEFINITION. When an access of a warp may be performed, and when it has been performed at a scope (R171, R275,
R359 to R369). -/

namespace Sys2Proof.Machine

open Sys2Proof

/-! ## What an outstanding instruction is -/

/-- The access operation writes: a store or an atomic. -/
def AccOp.writes (o : AccOp) : Bool := o != .load

/-- The access is an atomic. -/
def AccOp.atomic (o : AccOp) : Bool := o != .load && o != .store

/-- A slot that only loads. -/
def Slot.loads (sl : Slot) : Bool :=
  match sl.body with
  | .access as _ => as.all fun a => a.op == .load
  | _ => false

/-- A slot that stores without returning a value. -/
def Slot.stores (sl : Slot) : Bool :=
  match sl.body with
  | .access as _ => as.all fun a => a.op == .store
  | _ => false

/-- A slot that is an access in the sense of R275. -/
def Slot.isAccess (sl : Slot) : Bool :=
  match sl.body with
  | .value _ _ => false
  | .accrd _ => false
  | .fence _ => false
  | _ => true

/-- A slot that acts as an acquire: later accesses wait until it returns (R359, R368). -/
def Slot.acquires (sl : Slot) : Bool :=
  match sl.body with
  | .access _ _ => (!sl.stores && sl.ord == .acqRel) || sl.ord == .sc
  | .fence k => k != .rel
  | .deq _ _ => true
  | .status _ _ _ acq => acq
  | _ => false

/-- A release fence holds every later store, atomic, send, arrival, ENQ and command (R275). -/
def Slot.holdsWrites (sl : Slot) : Bool :=
  match sl.body with
  | .fence k => k == .rel
  | _ => false

/-- A slot's accesses are releases at its scope (R359, R368). -/
def Slot.releases (sl : Slot) : Bool :=
  match sl.body with
  | .access _ _ => (!sl.loads && sl.ord == .acqRel) || sl.ord == .sc
  | .enq _ _ _ _ => true
  | .status _ _ _ acq => !acq
  | .arrive _ => true
  | _ => false

/-! ## Performed at a scope (R364, R366, R369) -/

/-- Some staged write of a warp by an instruction before `id` is not yet performed at a scope: at pair and package it
must have been accepted, at fabric and host applied. -/
def stagedBefore (s : State) (wk id sc : Nat) : Bool :=
  (allStaged s).any fun e => e.2.warp == wk && decide (e.2.slot < id) && (decide (6 ≤ sc) || !e.2.accepted)

/-- Some write that a die has observed, or performed itself, is not yet applied (R275, R368, R369). -/
def unappliedSeen (s : State) (d : Nat) : Bool :=
  (allStaged s).any fun e => decide (e.2.num ≤ vcAt (clockOf s d) e.1)

/-- The width of a scope for a warp: pair scope of a warp outside a span is die scope (R357). -/
def scopeLevel (s : State) (w : Warp) (scope : Scope) : Nat :=
  if scope = .pair ∧ ((crewAt s w.crewK).map fun c => c.span.isEmpty).getD true = true then 3 else scopeCode scope

/-- The scope of an access to the scratchpad: one wider than pair acts as pair (R172, R272). -/
def scratchScope (scope : Scope) : Scope := if 4 < scopeCode scope then .pair else scope

/-- Every earlier access of a warp has been performed at a scope (R275, R359, R369); an atomic has been at die scope once
it has entered the store stage (R364). Warp scope waits for nothing. -/
def earlierPerformed (s : State) (w : Warp) (id : Nat) (scope : Scope) : Bool :=
  let sc := scopeLevel s w scope
  sc == 0 ||
    ((w.slots.all fun sl => decide (id ≤ sl.id) || !sl.isAccess ||
        (match sl.body with
         | .access as _ => as.all fun a => a.done || a.entered
         | _ => sl.ret)) &&
      (decide (sc < 4) || !stagedBefore s w.key id sc) &&
      (decide (sc < 6) || !unappliedSeen s (dieOfCore w.core)))

/-- Every earlier long-latency read of a warp has returned its value (R275). -/
def earlierReads (w : Warp) (id : Nat) : Bool :=
  w.slots.all fun sl => decide (id ≤ sl.id) || sl.ret || sl.stores ||
    (match sl.body with
     | .value _ _ => true
     | .accrd _ => true
     | .fence _ => true
     | .arrive _ => true
     | .send _ => true
     | .enq _ _ _ _ => true
     | _ => false)

/-- The place of a sequentially consistent access or fence in the single order (R275, R368). Within a die the store stage
gives it; beyond, every store that the warp has observed and every store of its die must have been applied: R275 says so
at package scope and wider, and at pair scope, for which the spec gives the order but no wait, the model takes the same
wait (log 82). -/
def scPlace (s : State) (w : Warp) (scope : Scope) : Bool :=
  decide (scopeLevel s w scope < 4) || !unappliedSeen s (dieOfCore w.core)

/-- A FENCE's conditions (R275). -/
def fenceDone (s : State) (w : Warp) (id : Nat) (k : FenceKind) (scope : Scope) : Bool :=
  if scope = .warp then true
  else match k with
    | .rel => earlierPerformed s w id scope
    | .acq => earlierReads w id
    | .acqrel => earlierPerformed s w id scope && earlierReads w id
    | .sc => earlierPerformed s w id scope && earlierReads w id && scPlace s w scope

/-- An earlier acquire holds an access of a warp (R275, R359); an earlier release fence holds it too unless it only reads:
a load, a receive read, a DEQ or a QTRY (R275). Instructions before `id` are earlier. -/
def heldBack (w : Warp) (id : Nat) (reads : Bool) : Bool :=
  w.slots.any fun sl => decide (sl.id < id) && !sl.ret && (sl.acquires || (!reads && sl.holdsWrites))

/-! ## Same bytes (R171, R270) -/

/-- Two lane accesses touch a common byte. -/
def overlaps (a b : LaneAcc) : Bool :=
  let ov := fun (x y : Nat) => decide (x < y + b.size) && decide (y < x + a.size)
  match a.loc, b.loc with
  | .dev p _ _, .dev q _ _ => ov p q
  | .fabric p, .fabric q => ov p q
  | .host p, .host q => ov p q
  | .scratch c p _, .scratch d q _ => c == d && ov p q
  | _, _ => false

/-- No earlier access of the warp to a common byte is still to be performed (R171, R270). -/
def inByteOrder (w : Warp) (sl : Slot) (a : LaneAcc) : Bool :=
  w.slots.all fun x => x.accs.all fun b =>
    b.done || b.entered || !(decide (x.id < sl.id) || (x.id == sl.id && decide (b.lane < a.lane))) || !overlaps a b

/-- A lane access may be performed now, as far as its own warp goes (R171, R271, R359). -/
def mayPerform (s : State) (w : Warp) (sl : Slot) (a : LaneAcc) : Bool :=
  !a.done && !a.entered && !heldBack w sl.id (a.op == .load) && inByteOrder w sl a &&
    (!sl.releases || earlierPerformed s w sl.id sl.scope) &&
    (sl.ord != .sc || scPlace s w sl.scope || sl.accs.any fun b => b.done || b.entered)

/-- A store's, load's or atomic's slot may return (R171, R270): a relaxed or bypass store at once, a release or
sequentially consistent one when performed at its scope, the others when every lane's value has arrived. -/
def accessReturns (s : State) (w : Warp) (sl : Slot) : Bool :=
  if sl.stores && (sl.ord == .relaxed || sl.ord == .bypass) then true
  else
    sl.accs.all (·.done) &&
      (if sl.ord = .sc then earlierPerformed s w (sl.id + 1) sl.scope && scPlace s w sl.scope
       else !sl.stores || earlierPerformed s w (sl.id + 1) sl.scope)

/-! ## Changing a warp's outstanding instructions -/

/-- Changes the slot of a serial number. -/
def Warp.modSlot (w : Warp) (id : Nat) (f : Slot → Slot) : Warp :=
  { w with slots := w.slots.map fun sl => if sl.id = id then f sl else sl }

/-- Removes the slot of a serial number. -/
def Warp.dropSlot (w : Warp) (id : Nat) : Warp := { w with slots := w.slots.filter fun sl => sl.id != id }

/-- The slot of a serial number. -/
def Warp.slotAt (w : Warp) (id : Nat) : Option Slot := firstOf (fun sl => sl.id == id) w.slots

/-- Removes the slots that have returned and whose accesses are all performed. -/
def Warp.purge (w : Warp) : Warp :=
  { w with slots := w.slots.filter fun sl => !(sl.ret && sl.accs.all (·.done)) }

/-- Records the outcome of one lane's access. -/
def Slot.setAcc (sl : Slot) (lane : Nat) (f : LaneAcc → LaneAcc) : Slot :=
  match sl.body with
  | .access as sx => { sl with body := .access (as.map fun a => if a.lane = lane then f a else a) sx }
  | _ => sl

end Sys2Proof.Machine
end

