-- ==== Sys2Proof/Machine/MemAcc.lean ====
section
/-! DEFINITION. Lane loads and stores, compress stores and atomics at issue, and the performing of one lane's access at
its home slice, at the partner core and at a remote package (R168 to R176, R266 to R273, R358 to R371). -/

namespace Sys2Proof.Machine

open Sys2Proof

/-! ## Addresses and checks (R45, R74, R169) -/

/-- What a lane access is, apart from its lane: base operand, byte offset, size, order, scope, space, operation, and
whether it is a compress store. -/
structure MemForm where
  a : Opnd
  off : Nat
  size : Nat
  ord : Order
  scope : Scope
  scratch : Bool
  op : AccOp
  compress : Bool := false

/-- The scope that a form acts at: on the scratchpad one wider than pair acts as pair (R172, R272). -/
def formScope (scratch : Bool) (scope : Scope) : Scope := if scratch then scratchScope scope else scope

/-- The access size S of R169. -/
def accSize (t : IntTy) (w : Width) : Nat :=
  match w with
  | .w1 => tySize t
  | w => 8 * w.regs

/-- A host-window AtomicOp that PCI Express has (R272). -/
def hostAtomic (o : AccOp) : Bool :=
  match o with
  | .atomG _ .add => true
  | .atomX .xchg32 => true
  | .atomX .xchg64 => true
  | .atomX .cas32 => true
  | .atomX .cas64 => true
  | .atomG _ _ => false
  | .atomX _ => false
  | _ => true

/-- The location of a translated access (R24, R52): a bypass access passes through its home and makes no replica. -/
def locOf (pa pte : Nat) (bypass : Bool) : Loc :=
  match paKind pa with
  | .fabric => .fabric pa
  | .host => .host pa
  | k => .dev pa (if bypass ∧ pteMt pte = 0 then 1 else BitVec.ofNat 2 (pteMt pte))
      (k == .hbm && pteRm pte && pteMt pte == 0 && !bypass)

/-- One lane's checks: its location, or the cause (R45, R74, R272). -/
def checkLane (s : State) (w : Warp) (m : MemForm) (a : Nat) : Loc ⊕ Nat :=
  if m.scratch then scratchCheck s w a m.size
  else match translate s w.core w.ctx a m.size (if m.op.writes then .write else .read) with
    | .bad c => .inr c
    | .ok pa pte =>
      if paKind pa = .host ∧ !hostAtomic m.op then .inr cPROT else .inl (locOf pa pte (m.ord == .bypass))

/-- The address of a lane (R170, R270). -/
def laneAddr (w : Warp) (m : MemForm) (l : Nat) : Nat := ((w.rd64 m.a).getD l 0 + m.off) % 2 ^ 64

/-- What a failing lane leaves in taddr: its address (R45, R175), for a lane access of the scratchpad the offset (R74,
R379). -/
def failAddr (m : MemForm) (a : Nat) : Nat := if m.scratch && !m.compress then a % 2 ^ 22 else a

/-- The first failing lane of some addressed lanes, with its cause. -/
def firstFail (s : State) (w : Warp) (m : MemForm) (ls : List (Nat × Nat)) : Option TrapReq :=
  firstSome (fun p =>
    match checkLane s w m p.2 with
    | .inl _ => none
    | .inr c => some (w.trapAt c p.1 (failAddr m p.2) m.op.writes)) ls

/-- The walk of some lane's address must wait (R53, R66), so that its checks cannot be made yet. -/
def walksWait (s : State) (w : Warp) (m : MemForm) (ls : List (Nat × Nat)) : Bool :=
  !m.scratch && ls.any fun p => decide (p.2 % m.size = 0) && transWaits s w.core w.ctx p.2

/-- The location of an address that passed its checks. -/
def locAt (s : State) (w : Warp) (m : MemForm) (a : Nat) : Loc :=
  match checkLane s w m a with
  | .inl x => x
  | .inr _ => .scratch w.core 0 false

/-- The lane accesses of some addressed lanes, numbered for the ports (R66). -/
def mkAccs (s : State) (w : Warp) (m : MemForm) (ls : List (Nat × Nat)) (data data2 : Nat → Nat) : List LaneAcc :=
  ls.zipIdx.map fun p =>
    { lane := p.1.1, addr := p.1.2, loc := locAt s w m p.1.2, size := m.size, op := m.op
      data := data p.1.1 % 2 ^ (8 * m.size), data2 := data2 p.1.1 % 2 ^ (8 * m.size)
      ser := s.serial + p.2, done := false, val := 0, pois := false }

/-- A local scratchpad access of the list meets an entry of the range scoreboard (R98). -/
def accStalls (s : State) (as : List LaneAcc) : Bool :=
  as.any fun a =>
    match a.loc with
    | .scratch c p false => sbStalls s c p (p + a.size) a.op.writes
    | _ => false

/-- A new access to a package whose route is changing stalls until the old port has drained (R66). -/
def routeStalls (s : State) (as : List LaneAcc) : Bool :=
  !s.links.draining.isEmpty && as.any fun a =>
    match a.loc with
    | .fabric pa => (look? s.links.draining (fabricPkg pa)).isSome
    | _ => false

/-! ## Records of a sampled execution (R404, R405) -/

/-- The model's key of a lane's write record. -/
def sampleKey (slot lane : Nat) : Nat := 2 * (slot * 32 + lane)

/-- The write records of an issuing global store or atomic; a store's data is known at issue (R405). -/
def sampleIssue (w : Warp) (scratch : Bool) (as : List LaneAcc) : Warp :=
  match w.sample with
  | none => w
  | some p =>
    if scratch then w
    else
      let rs := (as.filter fun a => a.op.writes).map fun a =>
        { key := sampleKey w.nextSlot a.lane, va := a.addr, len := a.size
          data := if a.op.atomic then [] else leBytes a.size a.data, done := !a.op.atomic : SampleRec }
      { w with sample := some { p with recs := p.recs ++ rs } }

/-- The access is one of a shadow execution's atomics, whose write half is not performed (R404). -/
def Warp.shadowed (w : Warp) (slot lane : Nat) : Bool :=
  match w.sample with
  | none => false
  | some p => p.shadow && p.recs.any fun r => r.key == sampleKey slot lane

/-- Fills in the data of an atomic's record, or removes the record of one that met poison. -/
def Warp.sampleDone (w : Warp) (slot lane : Nat) (data : Option (List Byte)) : Warp :=
  match w.sample with
  | none => w
  | some p =>
    let k := sampleKey slot lane
    let rs := match data with
      | none => p.recs.filter fun r => r.key != k || r.done
      | some d => p.recs.map fun r => if r.key = k ∧ !r.done then { r with data := d, done := true } else r
    { w with sample := some { p with recs := rs } }

/-- A shadow execution performs no global store (R404). -/
def Warp.shadowStore (w : Warp) (m : MemForm) : Bool :=
  !m.scratch && m.op == .store && (match w.sample with
    | none => false
    | some p => p.shadow)

/-! ## Issue (R170, R175, R270) -/

/-- Of two active lanes that store to the same bytes only the higher-numbered lane's write is made (R170); accesses of
one size are aligned, so they share all their bytes or none. -/
def survivors (as : List LaneAcc) : List LaneAcc :=
  as.filter fun a => !(a.op == .store && as.any fun b => decide (a.lane < b.lane) && b.addr == a.addr)

/-- Adds the slot of a memory instruction; `held` where earlier acquires hold its accesses (R98). -/
def addAccess (s : State) (w : Warp) (m : MemForm) (d : SlotDst) (as : List LaneAcc) (sext : Bool) : State :=
  let w' := sampleIssue w m.scratch as
  let as' := if w.shadowStore m then [] else survivors as
  let id := w'.nextSlot
  let held := heldBack w' id true
  setWarp { s with serial := s.serial + as.length } s.cur
    ((w'.addSlot m.ord m.scope d (.access as' sext)).modSlot id fun sl => { sl with late := held })

/-- The effect of a lane load, store or atomic at issue (R170, R270). -/
def accessEff (m : MemForm) (dst : Warp → SlotDst) (data data2 : Warp → List Nat) (sext : Bool)
    (s : State) (w : Warp) : Eff :=
  if w.exec = 0 then .done s
  else
    let ls := (lanesOf w.exec).map fun l => (l, laneAddr w m l)
    if walksWait s w m ls then .stall
    else match firstFail s w m ls with
    | some t => .trap t
    | none =>
      let as := mkAccs s w m ls (fun l => (data w).getD l 0) (fun l => (data2 w).getD l 0)
      if (accStalls s as && !heldBack w w.nextSlot true) || routeStalls s as then .stall
      else .done (addAccess s w m (dst w) as sext)

/-- The energy weight of a memory access (R160). -/
def memWeight (scratch : Bool) (g : Nat) : Nat := (if scratch then 32 else 64) * g

/-- A lane load (R168 to R170). -/
def loadIssue (i : Instr) (f : LoadOp) (scratch : Bool) (s : State) : State :=
  let z := accSize f.t f.w
  let m : MemForm := { a := f.a, off := f.imm.val * z, size := z, ord := f.ord, scope := formScope scratch f.scope
                       scratch := scratch, op := .load }
  issue i { size := 4, long := true, weight := memWeight scratch f.w.regs, uses := [src f.a .w1, dst f.d f.w] }
    (accessEff m (fun w => w.slotDst f.d f.w.regs) (fun _ => []) (fun _ => [])
      (f.w == .w1 && tySigned f.t)) s

/-- A lane store (R168 to R170). -/
def storeIssue (i : Instr) (f : StoreOp) (scratch : Bool) (s : State) : State :=
  let z := accSize f.t f.w
  let m : MemForm := { a := f.a, off := f.imm.val * z, size := z, ord := f.ord, scope := formScope scratch f.scope
                       scratch := scratch, op := .store }
  issue i { size := 4, long := true, weight := memWeight scratch f.w.regs, uses := [src f.a .w1, src f.d f.w] }
    (accessEff m (fun _ => .none) (fun w => w.rd f.d f.w.regs (.int f.t)) (fun _ => []) false) s

def execLdg (f : LoadOp) (s : State) : Res := .next (loadIssue (.ldg f) f false s)
def execStg (f : StoreOp) (s : State) : Res := .next (storeIssue (.stg f) f false s)
def execLds (f : LoadOp) (s : State) : Res := .next (loadIssue (.lds f) f true s)
def execSts (f : StoreOp) (s : State) : Res := .next (storeIssue (.sts f) f true s)

/-- The 16-bit load: lds.s64 vd, sp[vs + 0] of order relaxed (R146). -/
def execLds16 (a d : Fin 32) (s : State) : Res :=
  let m : MemForm := { a := .v a, off := 0, size := 8, ord := .relaxed, scope := .warp, scratch := true, op := .load }
  .next (issue (.lds16 a d) { size := 2, long := true, weight := 32, uses := [src (.v a) .w1, dst (.v d) .w1] }
    (accessEff m (fun w => w.slotDst (.v d) 1) (fun _ => []) (fun _ => []) true) s)

/-- The 16-bit store: sts.s64 sp[vs + 0], vd of order relaxed (R146). -/
def execSts16 (a d : Fin 32) (s : State) : Res :=
  let m : MemForm := { a := .v a, off := 0, size := 8, ord := .relaxed, scope := .warp, scratch := true, op := .store }
  .next (issue (.sts16 a d) { size := 2, long := true, weight := 32, uses := [src (.v a) .w1, src (.v d) .w1] }
    (accessEff m (fun _ => .none) (fun w => w.rd (.v d) 1 (.int .s64)) (fun _ => []) false) s)

/-! ### Compress stores (R174 to R176) -/

/-- Some elements of a compress store, as a slot that has returned and takes no positional slot: what a faulting
execution leaves to be performed (R176); its scratchpad accesses are checked when they are performed where an earlier acquire
holds them (R98). -/
def Warp.addPartial (w : Warp) (m : MemForm) (as : List LaneAcc) : Warp :=
  if as.isEmpty then w
  else
    { w with
      slots := w.slots ++ [
        { id := w.nextSlot, run := w.runNo, idx := 6, pos := w.run.pos, ord := m.ord, scope := m.scope
          dst := .none, mask := w.exec, body := .access as false, ret := true, late := heldBack w w.nextSlot true }]
      nextSlot := w.nextSlot + 1 }

/-- The warp stands at the resume point of the trap whose handler it runs (R379, R383). -/
def Warp.atResume (w : Warp) : Bool :=
  (firstOf (fun e => e.kind == .trap) w.stack).any fun e => e.pc == w.pc - 4 * w.run.limm.length

/-- j0 of R175: the restart progress. While the warp's handler runs it is that of the interrupted instruction, and only a
compress store at the resume point consults it (R383; log 37). -/
def Warp.restart (w : Warp) : Nat := if w.progHeld && !w.atResume then 0 else w.prog

/-- The restart progress after a compress store of the run that executes (R175, R383). -/
def Warp.setRestart (w : Warp) (j : Nat) : Warp := { w with prog := j, progHeld := false, framed := w.framed && j != 0 }

/-- The elements of a compress store from the restart progress on: lane and address (R175). -/
def compressElems (w : Warp) (m : MemForm) : List (Nat × Nat) :=
  let base := laneAddr w m w.uniLane
  ((lanesOf w.exec).zipIdx.filter fun p => decide (w.restart ≤ p.2)).map fun p =>
    (p.1, (base + p.2 * m.size) % 2 ^ 64)

/-- Where the frame of a warp that has been resumed from it holds a restart progress, the progress that a completed
compress store clears is cleared there too (R383, R456; log 97). -/
def clearFrame (s : State) (w : Warp) : State :=
  match frameVa s w with
  | none => s
  | some va => if w.framed then sysWriteVa s w.ctx (va + 0x43B8) (leBytes 8 0) else s

/-- The effect of a compress store at issue: the elements before a failing one stay performed, and the restart progress
names it (R175, R176). With no active lane it completes, which clears the restart progress (R383). -/
def compressEff (m : MemForm) (data : Warp → List Nat) (s : State) (w : Warp) : Eff :=
  let es := if w.exec = 0 then [] else compressElems w m
  if walksWait s w m es || (w.framed && frameWalks s w) then .stall
  else if w.exec = 0 then .done (setWarp (clearFrame s w) s.cur (w.setRestart 0))
  else
    let dat := fun l => (data w).getD l 0
    match firstFail s w m es with
    | some t =>
      let good := es.takeWhile fun p => p.1 != t.lane
      let as := mkAccs s w m good dat (fun _ => 0)
      if (accStalls s as && !heldBack w w.nextSlot true) || routeStalls s as then .stall
      else
        let j := w.restart + good.length
        let w' := sampleIssue w m.scratch as
        let w'' := (w'.addPartial m (if w.shadowStore m then [] else as)).setRestart j
        .part (setWarp { s with serial := s.serial + as.length } s.cur w'') { t with prog := j }
    | none =>
      let as := mkAccs s w m es dat (fun _ => 0)
      if (accStalls s as && !heldBack w w.nextSlot true) || routeStalls s as then .stall
      else .done (addAccess (clearFrame s w) (w.setRestart 0) m .none as false)

/-- A compress store (R174). -/
def compressIssue (i : Instr) (f : StoreOp) (scratch : Bool) (s : State) : State :=
  let z := accSize f.t f.w
  let m : MemForm := { a := f.a, off := f.imm.val * z, size := z, ord := f.ord, scope := formScope scratch f.scope
                       scratch := scratch, op := .store, compress := true }
  issue i { size := 4, long := true, weight := memWeight scratch f.w.regs
            uses := [{ src f.a .w1 with lead := true }, src f.d f.w] }
    (compressEff m fun w => w.rd f.d f.w.regs (.int f.t)) s

def execCstg (f : StoreOp) (s : State) : Res := .next (compressIssue (.cstg f) f false s)
def execCsts (f : StoreOp) (s : State) : Res := .next (compressIssue (.csts f) f true s)

/-! ### Atomics (R266 to R270) -/

/-- A cas compares with vD and writes vD+1 (R268). -/
def isCas (op : AtomX) : Bool := op == .cas32 || op == .cas64

/-- The size of an ATOMX operation (R267). -/
def atomXSize (op : AtomX) : Nat :=
  match op with
  | .xchg64 => 8
  | .cas64 => 8
  | _ => 4

/-- The register that holds a cas's new value (R268). -/
def casNew (d : Dst) : Opnd :=
  match d with
  | .v n => if h : n.val + 1 < 32 then .v ⟨n.val + 1, h⟩ else .v n
  | d => dstOpnd d

/-- An atomic of either space (R268 to R271). -/
def atomIssue (i : Instr) (d : Dst) (a : Opnd) (imm size : Nat) (op : AccOp) (cas : Bool) (ord : Order)
    (scope : Scope) (scratch : Bool) (s : State) : State :=
  let m : MemForm := { a := a, off := imm * size, size := size, ord := ord, scope := formScope scratch scope
                       scratch := scratch, op := op }
  let more := if cas then [src (casNew d) .w1] else []
  issue i { size := 4, long := true, weight := memWeight scratch 1, uses := [src a .w1, dstRead d .w1] ++ more }
    (accessEff m (fun w => w.slotDst d 1) (fun w => w.rd64 (dstOpnd d))
      (fun w => if cas then w.rd64 (casNew d) else []) false) s

def execAtomg (f : AtomGOp) (s : State) : Res :=
  .next (atomIssue (.atomg f) f.d f.a f.imm.val (if f.wide then 8 else 4) (.atomG f.wide f.op) false f.ord f.scope
    false s)
def execAtomx (f : AtomXOp) (s : State) : Res :=
  .next (atomIssue (.atomx f) f.d f.a f.imm.val (atomXSize f.op) (.atomX f.op) (isCas f.op) f.ord f.scope false s)
def execAtoms (f : AtomSOp) (s : State) : Res :=
  match f.op with
  | .g wide op => .next (atomIssue (.atoms f) f.d f.a f.imm.val (if wide then 8 else 4) (.atomG wide op) false f.ord
      f.scope true s)
  | .x op => .next (atomIssue (.atoms f) f.d f.a f.imm.val (atomXSize op) (.atomX op) (isCas op) f.ord f.scope true s)

/-- The value an ATOMG operation writes (R269). -/
def atomGNew (op : AtomG) (n old v : Nat) : Nat :=
  match op with
  | .add => (old + v) % 2 ^ n
  | .mins => if sext n old ≤ sext n v then old else v
  | .minn => if old ≤ v then old else v
  | .maxs => if sext n v ≤ sext n old then old else v
  | .maxn => if v ≤ old then old else v
  | .and => old &&& v
  | .or => old ||| v
  | .xor => old ^^^ v

/-- The value an ATOMX operation writes (R269). -/
def atomXNew (op : AtomX) (old v v2 : Nat) : Nat :=
  match op with
  | .xchg32 => v
  | .xchg64 => v
  | .cas32 => if old = v then v2 else old
  | .cas64 => if old = v then v2 else old
  | .faddf => (addF32 old v).1
  | .fminf => (minMax .f { rm := .rne, ftz := false } false old v).1
  | .incw32 => if v ≤ old then 0 else old + 1

/-- The value that an access writes where it finds `old` (R269). -/
def newValue (a : LaneAcc) (old : Nat) : Nat :=
  match a.op with
  | .load => old
  | .store => a.data
  | .atomG _ op => atomGNew op (8 * a.size) old a.data
  | .atomX op => atomXNew op old a.data a.data2

/-! ## Homes and clocks (R364 to R367) -/

/-- Starts the collapse of a line whose replica vector is not zero (R53). -/
def startCollapse (s : State) (l : Nat) (vec : BitVec 8) : State :=
  modMem s fun m => { m with collapses := m.collapses ++ [{ line := l, wait := vec }] }

/-- The replica vector of a line. -/
def vecOf (s : State) (l : Nat) : BitVec 8 := ((lineAt s l).map (·.vec)).getD 0

/-- The key of a die replica (R52). -/
def replicaKey (d l : Nat) : Nat := d * 2 ^ 45 + l

/-- Bits of a range out of a line. -/
def lineRange (d : BitVec 1024) (lo n : Nat) : Nat := d.toNat / 2 ^ (8 * lo) % 2 ^ (8 * n)

/-- Any flit of a range within a line is poisoned. -/
def lineRangePois (p : BitVec 4) (lo n : Nat) : Bool :=
  (List.range 4).any fun f => flitTouched lo n f && p.getLsbD f

/-- The replicas that a die cache holds, and the most it can: 32 MiB on a Prompt die, 64 MiB on a Generation die (R6,
R8). -/
def dieReplicas (s : State) (d : Nat) : Nat := (s.mem.replicas.filter fun e => e.1 / 2 ^ 45 == d).length

def dieCacheLines (d : Nat) : Nat := if isPrompt d then 2 ^ 18 else 2 ^ 19

/-- The stamps of a line's flits (R365). -/
def lineStamps (s : State) (l : Nat) : List VClock := (List.range 4).map fun f => look s.mem.stamps (4 * l + f) []

/-- The stamps of the flits of a replica that a read touches (R365). -/
def Replica.stampOf (r : Replica) (lo n : Nat) : VClock :=
  (List.range 4).foldl (fun v f => if flitTouched lo n f then vcMax v (r.stamps.getD f []) else v) []

/-- A die's hit on its replica is served (R367). -/
def replicaHit (s : State) (d l : Nat) (rm : Bool) : Option Replica :=
  if !rm then none
  else match look? s.mem.replicas (replicaKey d l) with
    | none => none
    | some r =>
      if (allStaged s).any fun e => e.2.pa / 128 == l && decide (e.2.num ≤ vcAt (clockOf s d) e.1) then none
      else some r

/-- Puts a replica of a line on a die, as a read miss may do where its cache has room (R6, R52, R367). -/
def allocReplica (s : State) (d l : Nat) : State :=
  if ((allStaged s).any fun e => e.2.pa / 128 == l && e.2.accepted) || decide (dieCacheLines d ≤ dieReplicas s d) then s
  else match lineAt s l with
    | none => s
    | some x =>
      modMem (setLine s l { x with vec := x.vec ||| BitVec.ofNat 8 (2 ^ d) }) fun m =>
        { m with replicas := put m.replicas (replicaKey d l) { data := x.data, pois := x.pois, stamps := lineStamps s l } }

/-- A read of n bytes within a line by an agent of a die (R48, R52, R364 to R367): the value and poison, or none while
it must wait. A read of bytes that lie in one staged write returns them with that write's mark alone: whether a flit that
is poisoned at its home makes such a read POISON (R39 against R364) the spec leaves open (log 83). An atomic in the
stage has no value yet, so that reads of its bytes wait; so do those that a staged write of the die would serve with a value
older than one the die has observed (R358, R361). -/
def dieLoad (s : State) (ctx d pa n : Nat) (thru rm copy : Bool) : Option (State × Nat × Bool) :=
  let l := pa / 128
  match newestTouching s d pa n with
  | some x =>
    if stageServes s d x pa n then some (s, x.data / 2 ^ (8 * (pa - x.pa)) % 2 ^ (8 * n), x.pois) else none
  | none =>
    match replicaHit s d l rm with
    | some r =>
      some (mergeClock s d (r.stampOf (pa % 128) n), lineRange r.data (pa % 128) n, lineRangePois r.pois (pa % 128) n)
    | none =>
      if readWaits s pa n || !sliceCaughtUp s (homeSlice s pa) (clockOf s d) then none
      else
        let r := homeRead s pa n
        let s := homeServes s ctx d pa n thru copy
        some (if rm then allocReplica s d l else s, leNat r.1, r.2)

/-- The next number and stamp of a die's write, with the number of its last write to the same slice (R365). -/
def takeNumber (s : State) (d pa : Nat) : State × Nat × VClock × Nat :=
  let n := vcAt (clockOf s d) d + 1
  let v := putD (clockOf s d) d 0 n
  let k := d * 64 + homeSlice s pa
  let prev := look s.mem.lastTo k 0
  (modMem (setClock s d v) fun m => { m with lastTo := putD m.lastTo k 0 n }, n, v, prev)

/-- A write or an atomic of a context enters a die's stage (R364, R365). -/
def stageWrite (s : State) (ctx d pa size data : Nat) (pois : Bool) (mt : BitVec 2) (warp slot : Nat)
    (atom : Option (LaneAcc × Bool) := none) : State :=
  let r := takeNumber s d pa
  setStage r.1 d (stageOf r.1 d ++ [
    { num := r.2.1, stamp := r.2.2.1, prev := r.2.2.2, pa := pa, size := size, data := data, pois := pois, mt := mt
      warp := warp, slot := slot, atom := atom, accepted := false, collapsing := false, ctx := ctx }])

/-! ## Performing one lane's access -/

/-- Records that a lane's access has been performed, with its value and poison. -/
def doneLane (s : State) (wk slot lane v : Nat) (p : Bool) : State :=
  modWarp s wk fun w =>
    ((w.modSlot slot fun sl => sl.setAcc lane fun a => { a with done := true, val := v, pois := p }).sampleDone slot lane
      none).purge

/-- Records that an atomic lane has been performed: its record takes the value written (R405). -/
def doneAtomic (s : State) (wk slot : Nat) (a : LaneAcc) (old : Nat) (p : Bool) : State :=
  let s := if p then s
    else modWarp s wk fun w => w.sampleDone slot a.lane (some (leBytes a.size (newValue a old)))
  doneLane s wk slot a.lane old p

/-- Records that an atomic lane has entered its die's store stage (R364). -/
def enterLane (s : State) (wk slot lane : Nat) : State :=
  modWarp s wk fun w => w.modSlot slot fun sl => sl.setAcc lane fun a => { a with entered := true }

/-- A byte range's private owner: the spill area or a queue area of the context, whose content programs do not learn
(R111, R325). -/
def privateVa (s : State) (ctx va : Nat) : Bool :=
  match (ctxAt s ctx).launch with
  | none => false
  | some l =>
    let nc := ((l.levels.drop 2).map fun v => if v.dom = 7 then 1 else v.ext).foldl (· * ·) 1
    (decide (l.spbase ≤ va) && decide (va < l.spbase + 16 * l.sstk * nc * l.wpc)) ||
      l.queues.any fun q => q.1 != 0 && decide (q.2.2 ≤ va) && decide (va < q.2.2 + 32 * 2 ^ (q.2.1 + 5))

/-- n bytes that the spec leaves open (log 6). -/
def freeBytes (s : State) (n : Nat) : State × Nat :=
  ({ s with free := s.free + n }, leNat ((List.range n).map fun i => Config.freeByte (s.free + i)))

/-- What a load of a lane found, as the program reads it: an open value in a spill or queue area. -/
def programValue (s : State) (ctx : Nat) (a : LaneAcc) (v : Nat) : State × Nat :=
  if privateVa s ctx a.addr then freeBytes s a.size else (s, v)

/-- A lane access at package memory is performed (R48, R364). -/
def performDev (s : State) (w : Warp) (slot : Nat) (a : LaneAcc) (pa : Nat) (mt : BitVec 2) (rm : Bool) : State :=
  let d := dieOfCore w.core
  let thru := mt != 0
  match a.op with
  | .load =>
    match dieLoad s w.ctx d pa a.size thru rm false with
    | none => s
    | some (s, v, p) =>
      let r := programValue s w.ctx a v
      doneLane r.1 w.key slot a.lane r.2 p
  | .store =>
    doneLane (chargeHome (stageWrite s w.ctx d pa a.size a.data false mt w.key slot) w.ctx (some d) pa a.size thru false)
      w.key slot a.lane 0 false
  | _ =>
    enterLane (stageWrite s w.ctx d pa a.size 0 false mt w.key slot (some (a, w.shadowed slot a.lane))) w.key slot a.lane

/-- A lane access on a plain byte store, with the poison of 32-byte units: the memory after it, and the value found. The
write is one lane's: lanes of one instruction that together write a unit are a partial write each (log 84). -/
def accessBytes (m : Memory) (pois : SMap Bool) (k : Nat) (a : LaneAcc) (suppress : Bool) :
    Memory × SMap Bool × Nat × Bool :=
  let old := leNat (rdBytes m k a.size)
  let p := look pois (k / 32) false || look pois ((k + a.size - 1) / 32) false
  match a.op with
  | .load => (m, pois, old, p)
  | .store => (wrBytes m k (leBytes a.size a.data), unitsAfter pois k a.size false, 0, false)
  | _ => if p || suppress then (m, pois, old, p) else (wrBytes m k (leBytes a.size (newValue a old)), pois, old, false)

/-- A host-window access goes out through the host port (R24, R272, R369). An AtomicOp that completes with error status
changes nothing and counts as poison (R272, R273). -/
def performHost (s : State) (w : Warp) (slot : Nat) (a : LaneAcc) (pa : Nat) : State :=
  let s := chargeBytes s w.ctx 0 0 0 a.size 0
  if a.op.atomic && s.mem.hostErr then doneAtomic (modMem s fun m => { m with hostErr := false }) w.key slot a 0 true
  else
    let r := accessBytes s.mem.hostMem [] pa a (w.shadowed slot a.lane)
    let s := modMem s fun m => { m with hostMem := r.1 }
    let v := if a.op.writes && !a.op.atomic then (s, r.2.2.1) else programValue s w.ctx a r.2.2.1
    if a.op.atomic then doneAtomic v.1 w.key slot a v.2 r.2.2.2 else doneLane v.1 w.key slot a.lane v.2 r.2.2.2

/-- A fabric-window access at its remote home (R65, R66, R369). -/
def performFabric (s : State) (w : Warp) (slot : Nat) (a : LaneAcc) (pa : Nat) : State :=
  let r := accessBytes s.mem.fabric s.mem.fabricPois pa a (w.shadowed slot a.lane)
  let s := chargeBytes (modMem s fun m => { m with fabric := r.1, fabricPois := r.2.1 }) w.ctx 0 0 0 (2 * a.size) a.size
  let v := if a.op.writes && !a.op.atomic then (s, r.2.2.1) else programValue s w.ctx a r.2.2.1
  if a.op.atomic then doneAtomic v.1 w.key slot a v.2 r.2.2.2 else doneLane v.1 w.key slot a.lane v.2 r.2.2.2

/-- No other performed write of the slot lies on the scratchpad page: the page's generation advances once for an
execution (R77, R176). -/
def firstOnPage (sl : Slot) (core p : Nat) : Bool :=
  sl.accs.all fun b =>
    !(b.done && !b.pois) || (match b.loc with
      | .scratch c q _ => c != core || q / 4096 != p / 4096
      | _ => true)

/-- A scratchpad access is performed at its bank (R63, R76, R77, R272). -/
def performScratch (s : State) (w : Warp) (sl : Slot) (a : LaneAcc) (core p : Nat) : State :=
  let r := accessBytes s.scr s.scrPois (scrKey core p) a false
  let s := { s with scr := r.1, scrPois := r.2.1 }
  let s := if a.op.writes && !r.2.2.2 && firstOnPage sl core p then bumpGen s core (p / 4096) else s
  doneLane s w.key sl.id a.lane r.2.2.1 r.2.2.2

/-- The slot and lane access of a request, where the warp's own order lets it be performed. -/
def laneRequest (s : State) (wk slot lane : Nat) : Option (Warp × Slot × LaneAcc) :=
  match warpAt s wk with
  | none => none
  | some w =>
    match w.slotAt slot with
    | none => none
    | some sl =>
      match firstOf (fun a => a.lane == lane) sl.accs with
      | none => none
      | some a => if mayPerform s w sl a then some (w, sl, a) else none

/-- A staged write of a die. -/
def stagedAt (s : State) (d num : Nat) : Option Staged := firstOf (fun x => x.num == num) (stageOf s d)

/-- Changes a staged write. -/
def modStaged (s : State) (d num : Nat) (f : Staged → Staged) : State :=
  setStage s d ((stageOf s d).map fun x => if x.num = num then f x else x)

/-- A write that started a collapse on the line, and that this write need not precede (R365), has not been applied: the
write waits behind it (R53). -/
def behindCollapse (s : State) (d : Nat) (x : Staged) : Bool :=
  (allStaged s).any fun e => e.2.collapsing && e.2.pa / 128 == x.pa / 128 &&
    !(if e.1 = d then decide (x.num < e.2.num) else decide (x.num ≤ vcAt e.2.stamp d))

/-- A staged write arrives at its home slice (R53, R366): it is accepted at once, or starts the collapse of the line's
replicas; it waits behind a collapse under way. -/
def arriveStaged (s : State) (d num : Nat) : State :=
  match stagedAt s d num with
  | none => s
  | some x =>
    let l := x.pa / 128
    if x.accepted || x.collapsing || collapsingOn s l || behindCollapse s d x then s
    else if vecOf s l = 0 then modStaged s d num fun y => { y with accepted := true }
    else startCollapse (modStaged s d num fun y => { y with collapsing := true }) l (vecOf s l)

/-- The n-th waiting write of the Cirque's agents may be performed: nothing holds its line or its port back, and no older one
of the line or the port waits (R35, R53, R66). -/
def postedReady (s : State) (n : Nat) (x : Posted) : Bool :=
  let older := s.mem.posted.take n
  match paKind x.pa with
  | .fabric =>
    (fabricAccs s).all (fun e => portOf s e.2.2.2 != portOf s (fabricPkg x.pa) || decide (x.ser < e.2.2.1.ser)) &&
      older.all fun y => !y.onPort s (fabricPkg x.pa)
  | .host => true
  | .reserved => true
  | _ =>
    !collapseMeets s x.pa x.data.length && !movingThru s x.pa x.data.length x.thru &&
      older.all fun y => !y.meets x.pa x.data.length

/-- A waiting write of the Cirque's agents is performed where it may be (R35, R53, R66). -/
def performPosted (s : State) (n : Nat) : State :=
  match s.mem.posted[n]? with
  | none => s
  | some x =>
    if postedReady s n x then
      sysWriteNow (modMem s fun m => { m with posted := m.posted.eraseIdx n }) x.pa x.data x.pois x.thru x.ctx
    else s

/-- SLICE_ACCESS (R48): a lane's access, a staged write's arrival, or a waiting write of the Cirque's agents, at its home
slice. -/
def execSliceAccess (r : SliceReq) (s : State) : Res :=
  match r with
  | .staged d num => .next (arriveStaged s d num)
  | .posted n => .next (performPosted s n)
  | .lane wk slot lane =>
    match laneRequest s wk slot lane with
    | none => .next s
    | some (w, sl, a) =>
      match a.loc with
      | .dev pa mt rm => .next (performDev s w sl.id a pa mt rm)
      | .host pa => .next (performHost s w sl.id a pa)
      | _ => .next s

/-- Every earlier remote-half access of a warp has been performed (R63). -/
def remoteInOrder (w : Warp) (sl : Slot) (lane : Nat) : Bool :=
  w.slots.all fun x => x.accs.all fun b =>
    b.done || (match b.loc with
      | .scratch _ _ true => !(decide (x.id < sl.id) || (x.id == sl.id && decide (b.lane < lane)))
      | _ => true)

/-- REMOTE_HALF_ACCESS (R63, R98, R365): a pair-window access at the partner core. -/
def execRemoteHalfAccess (wk slot lane : Nat) (s : State) : Res :=
  match laneRequest s wk slot lane with
  | none => .next s
  | some (w, sl, a) =>
    match a.loc with
    | .scratch core p true =>
      if !remoteInOrder w sl lane || sbStalls s core p (p + a.size) a.op.writes then .next s
      else
        let d := dieOfCore w.core
        let e := dieOfCore core
        let s := mergeClock s e (clockOf s d)
        let s := performScratch s w sl a core p
        .next (chargeCores (if a.op == .store then s else mergeClock s d (clockOf s e)) w.ctx w.core core a.size true)
    | _ => .next s

/-- Route changes whose old port has drained are over (R66). -/
def drainRoutes (s : State) : State :=
  let left := (fabricAccs s).map (·.2.2.2)
  modLinks s fun l => { l with draining := l.draining.filter fun e => left.contains e.1 }

/-- The lane access that an atomic of another package is (R65). -/
def inAtomic (op : AccOp) (n v v2 : Nat) : LaneAcc :=
  { lane := 0, addr := 0, loc := .fabric 0, size := n, op := op, data := v % 2 ^ (8 * n), data2 := v2 % 2 ^ (8 * n), ser := 0,
    done := false, val := 0, pois := false }

/-- The reply to an access of another package (R65). -/
def replyTo (s : State) (port v : Nat) (p : Bool) : State := modLinks s fun l => { l with reply := some (port, v, p) }

/-- An atomic of another package at its home slice (R65, R272, R273). -/
def inboundAtomic (s : State) (port o : Nat) (a : LaneAcc) : State :=
  let r := homeRead s o a.size
  let s := replyTo (homeAlloc s o false) port (leNat r.1) r.2
  if r.2 then s else sysWriteNow s o (leBytes a.size (newValue a (leNat r.1))) false false none

/-- An access of another package is performed at its home slice here, from applied values (R65, R369). One to an address that
no mapped region holds finds poison and stores nothing (log 78). -/
def performInbound (s : State) (port o : Nat) (r : InReq) : State :=
  if !((paKind o).homed && present s o) then replyTo s port 0 true
  else match r with
    | .load n =>
      let v := homeRead s o n
      replyTo (homeAlloc s o false) port (leNat v.1) v.2
    | .store bs p => replyTo (sysWriteNow s o bs p false none) port 0 false
    | .atomG wide op v => inboundAtomic s port o (inAtomic (.atomG wide op) (if wide then 8 else 4) v 0)
    | .atomX op v v2 => inboundAtomic s port o (inAtomic (.atomX op) (atomXSize op) v v2)

/-- The bytes that an access of another package reads or writes. -/
def inSize (r : InReq) : Nat :=
  match r with
  | .load n => n
  | .store bs _ => bs.length
  | .atomG wide _ _ => if wide then 8 else 4
  | .atomX op _ _ => atomXSize op

/-- The oldest access of another package that has arrived on a port is performed, where nothing holds its line back (R53,
R65, R66). -/
def inboundTurn (s : State) (port : Nat) : State :=
  match firstOf (fun e => e.1 == port) s.links.inbound with
  | none => s
  | some e =>
    if readWaits s e.2.1 (inSize e.2.2) then s
    else performInbound (modLinks s fun l => { l with inbound := l.inbound.erase e }) port e.2.1 e.2.2

/-- FABRIC_ACCESS (R65, R66): the oldest access injected on a port is performed at its destination; with none to go out, the
oldest that has come in on the port is performed here. -/
def execFabricAccess (port : Nat) (s : State) : Res :=
  let ready := (fabricAccs s).filter fun e =>
    portOf s e.2.2.2 == some port && (laneRequest s e.1 e.2.1 e.2.2.1.lane).isSome &&
      s.mem.posted.all fun x => !x.onPort s e.2.2.2 || decide (e.2.2.1.ser < x.ser)
  match sortBy (fun x y => decide (x.2.2.1.ser ≤ y.2.2.1.ser)) ready with
  | [] => .next (inboundTurn s port)
  | (wk, slot, a, _) :: _ =>
    match warpAt s wk, a.loc with
    | some w, .fabric pa => .next (drainRoutes (performFabric s w slot a pa))
    | _, _ => .next s

/-! ## Staged writes at their slices (R53, R365, R366) -/

/-- A line's collapse is over: its vector is zero, and the write that started it is accepted (R53, R366). Until that write
has been applied, reads and later writes of the line wait (R53). -/
def endCollapse (s : State) (l : Nat) : State :=
  let s := modMem s fun m => { m with collapses := m.collapses.filter fun c => c.line != l }
  let s := match lineAt s l with
    | none => s
    | some x => setLine s l { x with vec := 0 }
  modMem s fun m =>
    { m with stages := m.stages.map fun e => (e.1, e.2.map fun x =>
        if x.collapsing && x.pa / 128 == l then { x with accepted := true } else x) }

/-- REPLICA_INVALIDATE (R53, R367): a die drops its replica for all its cores at once and acknowledges. -/
def execReplicaInvalidate (line die : Nat) (s : State) : Res :=
  if s.mem.collapses.any fun c => c.line == line && c.wait.getLsbD die then
    .next (modMem s fun m =>
      { m with
        replicas := del m.replicas (replicaKey die line)
        collapses := m.collapses.map fun c =>
          if c.line = line then { c with wait := c.wait &&& ~~~(BitVec.ofNat 8 (2 ^ die)) } else c })
  else .next s

/-- COLLAPSE_COMPLETE (R53): the last acknowledgement has arrived. -/
def execCollapseComplete (line : Nat) (s : State) : Res :=
  if s.mem.collapses.any fun c => c.line == line && c.wait == 0 then .next (endCollapse s line) else .next s

/-- The slice may apply a die's accepted write (R35, R365). -/
def mayApply (s : State) (d : Nat) (x : Staged) : Bool :=
  x.accepted && !(passes s x.pa (x.mt != 0) && lineMoving s (x.pa / 128)) &&
    (unappliedAt s (homeSlice s x.pa)).all fun e =>
      if e.1 = d then decide (x.num ≤ e.2.num) else decide (vcAt x.stamp e.1 < e.2.num)

/-- A write leaves its die's stage. -/
def unstage (s : State) (die num : Nat) : State := setStage s die ((stageOf s die).filter fun y => y.num != num)

/-- An atomic is performed at its home slice (R48, R272, R273, R365): the value found goes to the warp, and its die's
clock takes the stamps read; on poison, or with the write half suppressed (R404), memory is not updated. In a spill or
queue area the value found is an open one (R111, R325). -/
def applyAtomic (s : State) (die : Nat) (x : Staged) (a : LaneAcc) (suppress : Bool) : State :=
  let ctx := x.ctx
  let thru := x.mt != 0
  let r := homeRead s x.pa a.size
  let s := chargeHome s ctx (some die) x.pa a.size thru false
  let s := unstage (mergeClock (homeAlloc s x.pa thru) die (stampOf s x.pa a.size)) die x.num
  let v := programValue s ctx a (leNat r.1)
  if r.2 || suppress then doneAtomic v.1 x.warp x.slot a v.2 r.2
  else
    let s := homeWrite v.1 x.pa (leBytes a.size (newValue a v.2)) false thru (some ctx)
    doneAtomic (stampFlits s x.pa a.size true x.stamp) x.warp x.slot a v.2 false

/-- SLICE_WRITE_APPLY (R48, R365): a slice applies a die's write, whose flits keep its stamp, or performs its atomic; it
leaves the stage. -/
def execSliceWriteApply (die num : Nat) (s : State) : Res :=
  match stagedAt s die num with
  | none => .next s
  | some x =>
    if !mayApply s die x then .next s
    else match x.atom with
      | some (a, suppress) => .next (applyAtomic s die x a suppress)
      | none =>
        let s := homeWrite s x.pa (leBytes x.size x.data) x.pois (x.mt != 0) (some x.ctx)
        .next (unstage (stampFlits s x.pa x.size false x.stamp) die num)

end Sys2Proof.Machine
end

