-- ==== Sys2Proof/Machine/Special.lean ====
section
/-! DEFINITION. RDS and WRS: the special registers, and sending and receiving messages (R58 to R61, R108, R109,
R204 to R210). -/

namespace Sys2Proof.Machine

open Sys2Proof

/-! ## Cores of a context (R12, R14, R333) -/

/-- The live width of a core, 0 out of service or on a die that is not ready (R333, R427). -/
def liveWidth (s : State) (n : Nat) : Nat :=
  if (coreAt s n).inService && s.glob.ready.getLsbD (dieOfCore n) then (coreAt s n).width else 0

/-- The ring position of a virtual die under REFL and ROT (R12). -/
def ringPos (refl : Bool) (rot : Nat) (v : Nat) : Nat :=
  if refl then (2 * rot + 8 - v) % 8 else (v + 2 * rot) % 8

/-- A die whose position a pending die-map write would change (R14). -/
def dieHeld (s : State) (v : Nat) : Bool :=
  match s.glob.dmPend with
  | none => false
  | some (refl, rot) => ringPos refl rot.toNat v != ringPos s.glob.refl s.glob.rot.toNat v

/-- A context's eligible cores, ascending (R333). -/
def eligibleCores (s : State) (ctx : Nat) : List Nat :=
  let cs := (ctxAt s ctx).clusters
  (List.range 192).filter fun n =>
    cs.getLsbD (clusterOfCore n) && liveWidth s n != 0 && !dieHeld s (dieOfCore n)

/-! ## Reading (R205) -/

/-- A crew's virtual core, s18. -/
def vcoreOf (s : State) (w : Warp) : Nat := ((crewAt s w.crewK).map (·.vcore)).getD 0

/-- A special register's value in a lane; the receive registers are read by `rdsRecv` (R108, R205). -/
def specialVal (s : State) (w : Warp) (sp l : Nat) : Nat :=
  match sp with
  | 0 => l
  | 1 => w.idx
  | 2 => w.crew
  | 3 => w.exec.toNat
  | 4 | 5 | 6 | 7 => (w.items.getD (sp - 4) 0).toNat
  | 8 | 9 | 10 | 11 => w.xval (sp - 8) l
  | 12 => s.time % 2 ^ 64
  | 13 => (clusterAt s (clusterOfCore w.core)).cycles / 10 % 2 ^ 64
  | 14 => w.prio.toNat
  | 15 => w.aflags.toNat
  | 16 => (eligibleCores s w.ctx).length
  | 17 => liveWidth s w.core
  | 18 => vcoreOf s w
  | 19 => dieOfCore w.core
  | 24 | 25 | 26 | 27 => ((look? w.send (sp - 24)).map (·.credits)).getD 0
  | 28 => (ctxAt s w.ctx).phase % 2 ^ 32
  | 29 => w.tcause.toNat
  | 30 => w.taddr.toNat
  | 31 => w.tinfo.toNat
  | _ => 0

/-- RDS of a receive register (R60, R204). -/
def isRecv (sp : Nat) : Bool := decide (20 ≤ sp) && decide (sp < 24)

/-- A send register. -/
def isSend (sp : Nat) : Bool := decide (24 ≤ sp) && decide (sp < 28)

/-- A warp that can still send: it has not ended and is not in a fault stop (R60, R291). -/
def Warp.canProduce (w : Warp) : Bool :=
  match w.st with
  | .ended => false
  | .stopped => false
  | .saved stopped => !stopped
  | _ => true

/-- A receive register is orphaned (R60, R291): a channel has been bound into it, no warp that can still send has one,
and no message for it waits or is on its way. -/
def recvOrphan (s : State) (w : Warp) (k : Nat) : Bool :=
  let wk := w.key
  w.recvBound.getLsbD k &&
    !((allWarps s).any fun x => x.canProduce && x.send.any fun c => c.2.dst == wk && c.2.rr == k) &&
    (look w.recv k []).isEmpty &&
    !(s.links.msgs.any fun m => m.dst == wk && m.rr == k) &&
    !((allWarps s).any fun x => x.slots.any fun sl =>
      match sl.body with
      | .send m => m.dst == wk && m.rr == k
      | _ => false)

/-- Consumes the oldest message of a receive register: its credit starts back (R59, R60). -/
def consume (s : State) (w : Warp) (k : Nat) (m : Msg) (rest : List Msg) : State × Warp :=
  (modLinks s fun l => { l with credits := l.credits ++ [(m.src, m.sr, m.bind)] },
    { w with recv := putD w.recv k [] rest })

/-- The payload of a message: the active lanes' values in ascending lane, padded with zero bytes to whole flits (R58). -/
def packLanes (mask : Mask) (vals : List Nat) : List Byte :=
  let bs := (lanesOf mask).flatMap fun l => leBytes 8 (vals.getD l 0)
  bs ++ List.replicate ((32 - bs.length % 32) % 32) 0

/-- The flits of a message: its header and its payload (R58). -/
def Msg.flits (m : Msg) : Nat := 1 + m.data.length / 32

/-- The values a receiver takes from a message: zero where the sender's lane was inactive (R60). -/
def Msg.laneVals (m : Msg) : List Nat :=
  laneList.map fun l =>
    if inMask m.mask l then leNat ((m.data.drop (8 * ((lanesOf m.mask).filter fun k => k < l).length)).take 8) else 0

/-- RDS of a receive register (R60): the warp blocks while there is no message to consume, or while an earlier acquire
holds its accesses (R359). -/
def rdsRecv (d : Dst) (k : Nat) (s : State) (w : Warp) : Eff :=
  if w.exec = 0 then .done s
  else if heldBack w w.nextSlot true then .wait (.recv k)
  else
    match look w.recv k [] with
    | [] => if recvOrphan s w k then .trap { w.trap cQUEUE_ORPHAN with info := 0x10 + k } else .wait (.recv k)
    | m :: rest =>
      let r := consume s w k m rest
      .done (setWarp r.1 s.cur (r.2.addSlot .relaxed .warp (r.2.slotDst d 1) (.recv m.laneVals)))

/-- RDS (R204, R205). That of an unbound send register raises ILLEGAL_OPERAND, as a write of it does (log 91). -/
def execRds (d : Dst) (sp : Fin 32) (s : State) : Res :=
  let n := sp.val
  .next (issue (.rds d sp)
    { size := 4, long := isRecv n, uses := [dst d .w1]
      check := fun _ w => trapIf (isSend n && (look? w.send (n - 24)).isNone) (w.trap cILLEGAL_OPERAND) }
    (fun s w =>
      if isRecv n then rdsRecv d (n - 20) s w
      else .done (setWarp s s.cur (w.result d 1 fun l => specialVal s w n l))) s)

/-! ## Writing (R207) -/

/-- A special that WRS may write (R108). -/
def writable (sp : Nat) : Bool :=
  sp == 3 || (decide (8 ≤ sp) && decide (sp < 12)) || sp == 14 || sp == 15 || isSend sp

/-- Writes a uniform special from the leader lane's value, or an index register per lane (R207, R299). -/
def Warp.writeSpecial (w : Warp) (sp : Nat) (vals : List Nat) : Warp :=
  let u := vals.getD w.uniLane 0
  match sp with
  | 3 => { w with exec := BitVec.ofNat 32 u &&& w.live }
  | 14 => { w with prio := BitVec.ofNat 3 u }
  | 15 => { w with aflags := BitVec.ofNat 12 u &&& aflagMask }
  | _ =>
    let k := sp - 8
    { w with xr := putD w.xr k Lanes.zero
               (mergeLanes w.exec (look w.xr k Lanes.zero) fun l => vals.getD l 0 % 2 ^ 24) }

/-- The destination of a channel has exited (R59). -/
def destGone (s : State) (dst : Nat) : Bool :=
  match warpAt s dst with
  | none => true
  | some w => w.st == .ended

/-- A message leaves its sender (R58, R61, R365); its flits cross to the die of its destination (R17). -/
def inject (s : State) (m : Msg) (core : Nat) : State :=
  let s := match warpAt s m.dst with
    | none => s
    | some w => chargeCores s w.ctx core w.core (32 * m.flits) false
  modLinks s fun l => { l with msgs := l.msgs ++ [{ m with vc := clockOf s (dieOfCore core) }] }

/-- WRS of a send register (R59): one credit is taken and the active lanes' values leave as one message; an earlier
acquire holds it (R359). -/
def sendMsg (k : Nat) (vals : List Nat) (s : State) (w : Warp) : Eff :=
  match look? w.send k with
  | none => .trap (w.trap cILLEGAL_OPERAND)
  | some c =>
    if destGone s c.dst then .trap { w.trap cQUEUE_ORPHAN with info := 0x10 + c.rr }
    else if c.credits = 0 then .stall
    else
      let m : Msg := { src := w.key, sr := k, dst := c.dst, rr := c.rr, mask := w.exec
                       data := packLanes w.exec vals, bind := c.bind, vc := [] }
      let w' := { w with send := put w.send k { c with credits := c.credits - 1 } }
      let waits := heldBack w w.nextSlot false || w.slots.any fun sl =>
        match sl.body with
        | .send x => x.sr == k
        | _ => false
      if waits then .done (setWarp s s.cur (w'.addHeld .fabric (.send m)))
      else .done (inject (setWarp s s.cur w') m w.core)

/-- WRS (R204, R207 to R209). -/
def execWrs (a : Opnd) (sp : Fin 32) (s : State) : Res :=
  let n := sp.val
  .next (issue (.wrs a sp)
    { size := 4, uses := [{ src a .w1 with lead := n == 3 || n == 14 || n == 15 }]
      check := fun _ w =>
        trapIf (!writable n || (isSend n && (look? w.send (n - 24)).isNone)) (w.trap cILLEGAL_OPERAND) }
    (fun s w =>
      if w.exec = 0 then .done s
      else if isSend n then sendMsg (n - 24) (w.rd64 a) s w
      else .done (setWarp s s.cur (w.writeSpecial n (w.rd64 a)))) s)

/-! ## Messages in transit (R59, R61) -/

/-- Removes the element of an index. -/
def dropAt {α : Type} (l : List α) (i : Nat) : List α := l.take i ++ l.drop (i + 1)

/-- MESSAGE_ARRIVE (R61, R365): message k, the oldest of its channel in transit, arrives whole. -/
def execMessageArrive (k : Nat) (s : State) : Res :=
  match s.links.msgs[k]? with
  | none => .next s
  | some m =>
    if (s.links.msgs.take k).any fun x => x.src == m.src && x.sr == m.sr then .next s
    else
      let s := modLinks s fun l => { l with msgs := dropAt l.msgs k }
      match warpAt s m.dst with
      | none => .next s
      | some w =>
        let s := mergeClock s (dieOfCore w.core) m.vc
        .next (setWarp s m.dst { w with recv := put w.recv m.rr (look w.recv m.rr [] ++ [m]) })

/-- CREDIT_RETURN (R59): credit k in transit reaches its sender's channel, if the binding still stands. -/
def execCreditReturn (k : Nat) (s : State) : Res :=
  match s.links.credits[k]? with
  | none => .next s
  | some (src, sr, bind) =>
    let s := modLinks s fun l => { l with credits := dropAt l.credits k }
    match warpAt s src with
    | none => .next s
    | some w =>
      match look? w.send sr with
      | none => .next s
      | some c =>
        if c.bind = bind then .next (setWarp s src { w with send := put w.send sr { c with credits := c.credits + 1 } })
        else .next s

end Sys2Proof.Machine
end

