-- ==== Sys2Proof/Machine/Sched.lean ====
section
/-! DEFINITION. When a class B instruction's wait is over, which warps are ready, and which of them a free run holder
takes (R150, R151, R277, R295, R320, R339 to R342, R346, R351, R353). -/

namespace Sys2Proof.Machine

open Sys2Proof

/-! ## Conditions of class B instructions -/

/-- The ce ring of a context on a die (R280). -/
def ringAt (s : State) (ctx die : Nat) : CeRing := look (ctxAt s ctx).rings die CeRing.init

/-- The timeline that a warp names (R276, R284). -/
def warpTimeline (s : State) (w : Warp) (e : Eng) : Timeline :=
  match e with
  | .ce => (ringAt s w.ctx (dieOfCore w.core)).tl
  | e => timelineAt s (tlKey w.core w.ctx (engCode e))

/-- TLWAIT's wait is over (R277). -/
def Timeline.reached (t : Timeline) (n : Nat) : Bool :=
  decide (n ≤ t.t) || (t.p != 0 && decide (t.p ≤ n) && decide (t.p ≤ t.t + 1))

/-- The phase of a barrier of a warp's crew (R292). -/
def barPhase (s : State) (w : Warp) (b : Nat) : Bool :=
  match crewAt s w.crewK with
  | none => false
  | some c => match c.bars[b]? with
    | none => false
    | some x => x.ph

/-- No command that a warp has had accepted is unretired (R320). -/
def noCommands (s : State) (w : Warp) : Bool :=
  (coreCmds s w.core).all fun c => c.warp != w.key

/-- PHASE's first wait is over (R320 step 1). -/
def phaseQuiet (s : State) (w : Warp) : Bool := earlierPerformed s w w.nextSlot .package && noCommands s w

/-- The condition that a suspended warp waits for holds (R150, R339). REGRS and SLEEP end by events of their own. -/
def blockMet (s : State) (w : Warp) (b : Block) : Bool :=
  match b with
  | .timeline e n => (warpTimeline s w e).reached n
  | .barrier n tok => barPhase s w n != tok
  | .slots => w.drained
  | .regrs _ => false
  | .sleep _ => false
  | .recv k => !heldBack w w.nextSlot true && (!(look w.recv k []).isEmpty || recvOrphan s w k)
  | .commit => phaseQuiet s w
  | .phase p => decide (p < (ctxAt s w.ctx).phase)
  | .done => true

/-! ## Holders (R339 to R342) -/

/-- A quarter's steering is being rewritten: no warp takes a holder (R346). -/
def rewriting (s : State) (core q : Nat) : Bool :=
  let x := quarterAt (coreAt s core) q
  x.pendLive.isSome || x.pendRows.isSome

/-- A quarter has a free run holder that may be taken (R339, R346, R349). -/
def holderFree (s : State) (core q : Nat) : Bool :=
  decide (((quarterWarps s core q).filter Warp.inHolder).length < 2) && !rewriting s core q &&
    (coreAt s core).inService && clusterRuns s (clusterOfCore core)

/-- A calving request keeps the warp from a holder: its core is being vacated and no trap handler of it runs on
(R391). -/
def calveHolds (s : State) (w : Warp) : Bool :=
  (ctxAt s w.ctx).vacating.contains w.core && !w.calveWait

/-- A region of the warp's crew is still to be reloaded: no warp of the crew issues (R266). -/
def reloading (s : State) (w : Warp) : Bool :=
  (queueAt s (queueKey w.core 4)).any fun c => c.reload && c.crew == w.crewK

/-- The warp would start a run, or resume a suspended instruction: its own conditions hold (R151, R266, R340). -/
def Warp.wants (s : State) (w : Warp) : Bool :=
  !reloading s w && match w.st with
  | .ready => true
  | .blocked b => blockMet s w b
  | .parked mask sBit => w.held.isEmpty && w.awaits mask sBit
  | _ => false

/-- A resumption of a suspended instruction is no run start (R340). -/
def WarpSt.isBlocked (w : WarpSt) : Bool :=
  match w with
  | .blocked _ => true
  | _ => false

/-- A warp is ready (R340, R351, R353). -/
def readyFor (s : State) (w : Warp) : Bool :=
  w.wants s && w.pend.isNone && clusterAdmitted s (clusterOfCore w.core) && !calveHolds s w &&
    (w.st.isBlocked || startAllowed s w)

/-- The ready warps of a quarter. -/
def readyWarps (s : State) (core q : Nat) : List Warp := (quarterWarps s core q).filter (readyFor s)

/-- Warp a comes no later than warp b in the order of R340. -/
def before (a b : Warp) : Bool :=
  if a.effPrio ≠ b.effPrio then decide (b.effPrio < a.effPrio)
  else
    match a.lastStart, b.lastStart with
    | none, none => decide (a.slot ≤ b.slot)
    | none, some _ => true
    | some _, none => false
    | some x, some y => decide (x < y) || (x == y && decide (a.slot ≤ b.slot))

/-- The ready warp that a free holder takes (R340). -/
def firstReady (s : State) (core q : Nat) : Option Warp :=
  (readyWarps s core q).foldl (fun (c : Option Warp) w =>
    match c with
    | none => some w
    | some x => if before x w then some x else some w) none

/-- Some ready warp of the quarter has a strictly higher effective priority (R342). -/
def outranked (s : State) (w : Warp) : Bool :=
  (readyWarps s w.core w.quarter).any fun x => x.key != w.key && decide (w.effPrio < x.effPrio)

/-- A trailer whose conditions hold lets its warp keep the holder (R342, R346, R351, R391). -/
def keepsHolder (s : State) (w : Warp) (y : Bool) : Bool :=
  !y && !w.run.yld && !outranked s w && startAllowed s w && !rewriting s w.core w.quarter && !calveHolds s w &&
    (coreAt s w.core).inService

/-! ## The events of the holders -/

/-- RUN_START (R340): a free holder takes the first ready warp; a parked one completes its trailer and starts its next
run. -/
def execRunStart (core quarter : Nat) (s : State) : Res :=
  if !holderFree s core quarter then .next s
  else match firstReady s core quarter with
    | none => .next s
    | some w =>
      let h := freeHolder s core quarter
      match w.st with
      | .ready => .next (startRun s w.key { w with holder := h })
      | .parked _ _ => .next (endTrailer s w.key { w with st := .running, holder := h, promoted := false, readyClk := 0 } true)
      | _ => .next s

/-- BLOCKED_RUN_RESUME (R339, R340): the suspended warp takes a holder and meets its instruction again; one whose wait
has completed the instruction continues after it. -/
def execBlockedRunResume (k : Nat) (s : State) : Res :=
  match warpAt s k with
  | none => .next s
  | some w =>
    if holderFree s w.core w.quarter && w.st.isBlocked && (firstReady s w.core w.quarter).map (·.key) == some k then
      .next (setWarp s k
        { w with st := .running, holder := freeHolder s w.core w.quarter, promoted := false, readyClk := 0 })
    else .next s

/-- The clocks of a warp as its cluster's clock advances (R341): one that is ready without a holder counts them; one that
R351 withholds, or whose cluster is not admitted, neither counts nor loses its count; any other starts again. -/
def Warp.countReady (s : State) (w : Warp) (tenths : Nat) : Warp :=
  if w.inHolder || !w.wants s || w.pend.isSome || calveHolds s w then { w with readyClk := 0 }
  else if readyFor s w then { w with readyClk := w.readyClk + tenths }
  else w

/-- PRIORITY_PROMOTE (R341): a warp that has stayed ready for 4,096 clocks without a holder is promoted. -/
def execPriorityPromote (k : Nat) (s : State) : Res :=
  match warpAt s k with
  | none => .next s
  | some w =>
    if readyFor s w && !w.inHolder && decide (40960 ≤ w.readyClk) then .next (setWarp s k { w with promoted := true })
    else .next s

/-- TRAP_DELIVER (R381, R386): a trap that waited for outstanding results is delivered, or the oldest poison held against
a warp that is in a holder or parked. -/
def execTrapDeliver (k : Nat) (s : State) : Res :=
  match warpAt s k with
  | none => .next s
  | some w =>
    match w.pend with
    | some t =>
      if !w.drained then .next s
      else match w.run.trp with
        | some (t', stop) => .next (if endTrapWaits s w stop then s else endTrap s k w t' stop)
        | none => .next (if deliverWaits s w t then s else deliver s k { w with pend := none } t)
    | none =>
      let there := match w.st with
        | .running => true
        | .parked _ _ => true
        | _ => false
      if there && w.drained && !heldWaits s w then .next (deliverHeld s k w) else .next s

end Sys2Proof.Machine
end

