-- ==== Sys2Proof/Machine/Ctl.lean ====
section
/-! DEFINITION. Control transfers, mask instructions, trailers, LIMM, flags, warp requests, context registers, NOP, TRAP,
BKPT and PHASE (R110, R111, R151, R153, R298 to R320). -/

namespace Sys2Proof.Machine

open Sys2Proof

/-! ## Targets -/

/-- The fall-through: the run start after the trailer of a 32-bit control transfer (R302). -/
def fallThrough (w : Warp) : Nat := (w.pc + 8) % 2 ^ 64

/-- A PC-relative target of an n-bit halfword offset (R298). -/
def target (w : Warp) (n : Nat) (off : Nat) : Nat := wrap 64 (w.pc + 2 * sext n off)

/-- The warp with its next run's start (R153). -/
def Warp.goto (w : Warp) (pc : Nat) : Warp := { w with run := { w.run with ct := some pc } }

/-- The issue of a control transfer. -/
def ctIssue (i : Instr) (uses : List Use) (acts : Bool) (lanes : Warp → Mask)
    (check : State → Warp → Option TrapReq) (eff : State → Warp → Eff) (s : State) : State :=
  issue i { size := 4, ct := true, uses := uses, acts := acts, lanes := lanes, check := check } eff s

/-- No checks of its own. -/
def noCheck (_ : State) (_ : Warp) : Option TrapReq := none

/-- The lane in which a warp-uniform operand is read (R299). -/
def uniMask (w : Warp) : Mask := maskOf fun l => l == w.uniLane

/-- A warp-uniform operand as an unsigned 64-bit value (R299). -/
def Warp.uni (w : Warp) (a : Opnd) : Nat := (w.rd64 a).getD w.uniLane 0

/-- The active lanes with p(l) = 1 (R300). -/
def predMask (w : Warp) (a : Opnd) (z : Bool) : Mask :=
  let v := w.rd64 a
  maskOf fun l => inMask w.exec l && ((v.getD l 0 != 0) != z)

/-! ## Branches (R301, R302) -/

def execBra (off : BitVec 22) (s : State) : Res :=
  .next (ctIssue (.bra off) [] true (fun w => w.exec) noCheck
    (warpEff fun w => w.goto (target w 22 off.toNat)) s)

/-- A BRC condition over the active lanes (R301). -/
def brcTaken (c : BrCond) (w : Warp) (a : Opnd) : Bool :=
  let p := predMask w a false
  match c with
  | .any => p != 0
  | .all => p == w.exec
  | .none => p == 0
  | .nall => p != w.exec

/-- BRC (R301). It decides where the warp goes whatever exec holds, so it acts with exec = 0. -/
def execBrc (off : BitVec 16) (a : Opnd) (c : BrCond) (s : State) : Res :=
  .next (ctIssue (.brc off a c) [src a .w1] true (fun w => w.exec) noCheck
    (warpEff fun w => w.goto (if brcTaken c w a then target w 16 off.toNat else fallThrough w)) s)

/-- A push as the effect of a control transfer: its fault is exact (R111, R298). -/
def pushEff (e : Warp → StackEntry) (f : Warp → Warp) (s : State) (w : Warp) : Eff :=
  match pushEntry s w (e w) with
  | .wait => .stall
  | .bad t => .trap t
  | .ok s' w' _ => .done (setWarp s' s.cur (f w'))

/-- BRX (R302). -/
def execBrx (off : BitVec 16) (a : Opnd) (z : Bool) (s : State) : Res :=
  .next (ctIssue (.brx off a z) [src a .w1] true (fun w => w.exec) noCheck
    (fun s w =>
      let t := predMask w a z
      let n := w.exec &&& ~~~t
      let tgt := target w 16 off.toNat
      if t = 0 then warpEff (fun w => w.goto (fallThrough w)) s w
      else if n = 0 then warpEff (fun w => w.goto tgt) s w
      else pushEff (fun w => { kind := .path, pc := fallThrough w, mask := n, tm := false })
        (fun w => { w with exec := t }.goto tgt) s w) s)

/-- PJ (R303). -/
def execPj (off : BitVec 22) (s : State) : Res :=
  .next (ctIssue (.pj off) [] true (fun w => w.exec) noCheck
    (pushEff (fun w => { kind := .join, pc := target w 22 off.toNat, mask := w.exec, tm := false })
      (fun w => w.goto (fallThrough w))) s)

/-! ## Calls (R305) -/

/-- A CALL entry and the way to its target. -/
def callEff (tgt : Warp → Nat) : State → Warp → Eff :=
  pushEff (fun w => { kind := .call, pc := fallThrough w, mask := w.exec, tm := false }) (fun w => w.goto (tgt w))

def execCall (off : BitVec 22) (s : State) : Res :=
  .next (ctIssue (.call off) [] true (fun w => w.exec) noCheck (callEff fun w => target w 22 off.toNat) s)

/-- An odd code address raises ALIGN exactly, with taddr the address (R305). -/
def oddTarget (w : Warp) (a : Nat) : Option TrapReq :=
  trapIf (a % 2 == 1) (w.trapAt cALIGN w.uniLane a false)

def execCallr (a : Opnd) (s : State) : Res :=
  .next (ctIssue (.callr a) [src a .w1] true uniMask noCheck
    (fun s w =>
      match oddTarget w (w.uni a) with
      | some t => .trap t
      | none => callEff (fun _ => w.uni a) s w) s)

/-- JMPR (R305). In a trap handler it is the return elsewhere of R383, which leaves the restart progress to the next compress
store (log 37). -/
def execJmpr (a : Opnd) (s : State) : Res :=
  .next (ctIssue (.jmpr a) [src a .w1] true uniMask noCheck
    (fun s w =>
      match oddTarget w (w.uni a) with
      | some t => .trap t
      | none => warpEff (fun w => { w.goto (w.uni a) with progHeld := false }) s w) s)

/-! ## JOIN, EXIT and BRK (R304, R306, R307) -/

/-- The effect of a popped entry (R306): its PC, exec = MASK AND live, and for a TRAP entry the return to come. -/
def Warp.popped (w : Warp) (e : StackEntry) : Warp :=
  { w with
    exec := e.mask &&& w.live
    run := { w.run with ct := some e.pc }
    back := if e.kind = .trap then some (e.tm, true) else w.back.map fun r => (r.1, false) }

/-- Resolves an empty mask (R306): pops until an entry gives a nonzero mask; if the stack empties, exec becomes the live
mask. -/
def resolveMask (fuel : Nat) (s : State) (w : Warp) : StackRes :=
  if w.exec ≠ 0 then .ok s w none
  else
    match fuel, w.stack with
    | 0, _ => .ok s { w with exec := w.live } none
    | _, [] => .ok s { w with exec := w.live } none
    | n + 1, _ =>
      match popEntry s w with
      | .wait => .wait
      | .bad t => .bad t
      | .ok s' w' (some e) => resolveMask n s' (w'.popped e)
      | .ok s' w' none => .ok s' w' none

/-- Pops enough for any stack (R111). -/
def stackFuel (w : Warp) : Nat := 17 + w.spilled

/-- A resolution as an effect, with what becomes of the warp then. -/
def resolveEff (s : State) (k : Nat) (w : Warp) (f : Warp → Warp := id) : Eff :=
  match resolveMask (stackFuel w) s w with
  | .wait => .stall
  | .bad t => .trap t
  | .ok s' w' _ => .done (setWarp s' k (f w'))

/-- A JOIN that pops a TRAP entry restores the restart progress from the shadow, where the warp goes on at the resume point
(R175, R382). -/
def Warp.joined (w : Warp) : Warp :=
  match w.back, w.shadow with
  | some (_, true), some h => { w with prog := h.prog }
  | _, _ => w

/-- JOIN (R306). -/
def execJoin (s : State) : Res :=
  .next (ctIssue .join [] true (fun w => w.exec) noCheck
    (fun s w =>
      match popEntry s w with
      | .wait => .stall
      | .bad t => .trap t
      | .ok s' w' (some e) => resolveEff s' s.cur (w'.popped e) Warp.joined
      | .ok s' w' none => .done (setWarp s' s.cur w')) s)

/-- The queues and channels of an exiting warp (R290, R307): it produces for none and sends on none. -/
def Warp.disconnect (w : Warp) : Warp := { w with producer := 0, send := [] }

/-- The warp ends (R307): it issues nothing more, and its TRAP entries and shadow are discarded. -/
def Warp.endNow (w : Warp) : Warp :=
  { w with st := .ended, stack := [], spilled := 0, shadow := none, back := none, pend := none, code := none }

/-- Poison held against a warp that ends becomes KIND 3 records (R386). -/
def reportHeld (s : State) (k : Nat) (w : Warp) : State :=
  w.held.foldl (fun s t => queueRecord s w.ctx (warpRecord s w 3 t)) (setWarp s k { w with held := [] })

/-- The execution of a sampled item has writes that are still to be performed, so that its records are not complete, or
has not been decided (R405). -/
def Warp.sampleOpen (w : Warp) : Bool :=
  match w.sample with
  | none => false
  | some p => p.waiting || p.recs.any fun r => !r.done

/-- EXIT (R307). Its warp's sampled execution ends with it (R404). -/
def exitEff (finish : State → Warp → State × Warp) (s : State) (w : Warp) : Eff :=
  if w.exec = 0 then warpEff (fun w => w.goto (fallThrough w)) s w
  else if w.sampleOpen then .stall
  else
    let r := finish s w
    let w' : Warp := { r.2 with live := r.2.live &&& ~~~w.exec, exec := 0 }
    if w'.live ≠ 0 then resolveEff r.1 s.cur (w'.goto (fallThrough w))
    else .done (setWarp r.1 s.cur w'.endNow)

/-- A spilled entry n of a warp, or the trap that reading it raises (R111). -/
def readSpilled (s : State) (w : Warp) (n : Nat) : StackEntry ⊕ TrapReq :=
  match translate s w.core w.ctx (spillVa w n) 16 .read with
  | .bad c => .inr { w.trap c with addr := BitVec.ofNat 64 (spillVa w n) }
  | .ok pa _ =>
    let r := dieRead s (dieOfCore w.core) pa 16
    if r.2 then .inr { w.trap cPOISON with addr := BitVec.ofNat 64 (spillVa w n) }
    else .inl (entryOf (leNat (r.1.take 8)) (leNat (r.1.drop 8)))

/-- The spilled PATH entries above the topmost JOIN, looking from entry n − 1 down; ILLEGAL_OPERAND where a CALL or TRAP
entry or the end of the stack comes first (R304). -/
def spilledPaths (s : State) (w : Warp) (n : Nat) : List (Nat × StackEntry) ⊕ TrapReq :=
  match n with
  | 0 => .inr (w.trap cILLEGAL_OPERAND)
  | n + 1 =>
    match readSpilled s w n with
    | .inr t => .inr t
    | .inl e =>
      match e.kind with
      | .join => .inl []
      | .path =>
        match spilledPaths s w n with
        | .inr t => .inr t
        | .inl l => .inl ((n, e) :: l)
      | _ => .inr (w.trap cILLEGAL_OPERAND)

/-- The search of the spilled entries for the topmost JOIN, or the rewriting of those above it, must wait (R53, R66). -/
def spilledWaits (s : State) (w : Warp) (n : Nat) : Bool :=
  match n with
  | 0 => false
  | n + 1 =>
    spillWaits s w (spillVa w n) ||
      (match readSpilled s w n with
       | .inl e => e.kind == .path && spilledWaits s w n
       | .inr _ => false)

/-- The state after the spilled entries of a search have been read at their homes (R47, R417). -/
def spilledServed (s : State) (w : Warp) (l : List (Nat × StackEntry)) : State :=
  l.foldl (fun s e =>
    match translate s w.core w.ctx (spillVa w e.1) 16 .read with
    | .bad _ => s
    | .ok pa pte => homeServes s w.ctx (dieOfCore w.core) pa 16 (pteMt pte != 0) false) s

/-- Rewrites spilled entries without the lanes of a mask; a fault changes nothing (R111, R304). -/
def rewriteSpilled (s : State) (w : Warp) (b : Mask) (l : List (Nat × StackEntry)) : State ⊕ TrapReq :=
  match l with
  | [] => .inl s
  | (n, e) :: l =>
    match translate s w.core w.ctx (spillVa w n) 16 .write with
    | .bad c => .inr { w.trap c with addr := BitVec.ofNat 64 (spillVa w n), wr := true }
    | .ok pa pte =>
      let thru := pteMt pte != 0
      rewriteSpilled (sysWrite (chargeAt s w.ctx (some (dieOfCore w.core)) pa 16 thru) pa
        (entryBytes { e with mask := e.mask &&& ~~~b }) false thru (some w.ctx)) w b l

/-- The number of PATH entries above the topmost JOIN among hardware entries: `some (n, true)` when the JOIN is there,
`some (n, false)` when all are PATH, none when a CALL or TRAP entry comes first. -/
def pathsAbove (l : List StackEntry) : Option (Nat × Bool) :=
  match l with
  | [] => some (0, false)
  | e :: l =>
    match e.kind with
    | .join => some (0, true)
    | .path => (pathsAbove l).map fun p => (p.1 + 1, p.2)
    | _ => none

/-- Removes lanes from the first n entries. -/
def clearPaths (b : Mask) (n : Nat) (l : List StackEntry) : List StackEntry :=
  (l.take n).map (fun e => { e with mask := e.mask &&& ~~~b }) ++ l.drop n

/-- BRK's own check (R155, R304): the topmost JOIN with PATH entries alone above it. A spill fault met in the search is
none of order 4 (R111). -/
def brkCheck (s : State) (w : Warp) : Option TrapReq :=
  match pathsAbove w.stack with
  | none => some (w.trap cILLEGAL_OPERAND)
  | some (_, true) => none
  | some (_, false) =>
    if spilledWaits s w w.spilled then none
    else match spilledPaths s w w.spilled with
    | .inr t => trapIf (t.cause == cILLEGAL_OPERAND) t
    | .inl _ => none

/-- BRK (R304). -/
def brkEff (a : Opnd) (z : Bool) (s : State) (w : Warp) : Eff :=
  let b := predMask w a z
  let fin := fun (s' : State) (w' : Warp) =>
    resolveEff s' s.cur ({ w' with exec := w'.exec &&& ~~~b }.goto (fallThrough w))
  match pathsAbove w.stack with
  | none => .trap (w.trap cILLEGAL_OPERAND)
  | some (n, true) => fin s { w with stack := clearPaths b n w.stack }
  | some (n, false) =>
    if spilledWaits s w w.spilled then .stall
    else match spilledPaths s w w.spilled with
    | .inr t => .trap t
    | .inl l =>
      match rewriteSpilled (spilledServed s w l) w b l with
      | .inr t => .trap t
      | .inl s' => fin s' { w with stack := clearPaths b n w.stack }

/-- BRK's own check waits for the spilled entries that it reads. -/
def brkWaits (s : State) (w : Warp) : Bool :=
  match pathsAbove w.stack with
  | some (_, false) => spilledWaits s w w.spilled
  | _ => false

def execBrk (a : Opnd) (z : Bool) (s : State) : Res :=
  .next (issue (.brk a z) { size := 4, ct := true, uses := [src a .w1], acts := true, check := brkCheck, waits := brkWaits }
    (brkEff a z) s)

/-! ## Masks (R308) -/

/-- The value MSKRD reads (R308). -/
def maskVal (w : Warp) (sel : MskSel) : Nat :=
  match sel with
  | .exec => w.exec.toNat
  | .live => w.live.toNat
  | .top => (w.stack.head?.map fun e => e.mask.toNat).getD 0
  | .depth => w.stack.length + w.spilled

def execMskrd (d : Dst) (sel : MskSel) (s : State) : Res :=
  .next (issue (.mskrd d sel) { size := 4, uses := [dst d .w1] }
    (warpEff fun w => w.result d 1 fun _ => maskVal w sel) s)

def execMskwr (a : Opnd) (s : State) : Res :=
  .next (issue (.mskwr a) { size := 4, uses := [src a .w1], acts := true, lanes := uniMask }
    (warpEff fun w => { w with exec := BitVec.ofNat 32 (w.uni a) &&& w.live }) s)

def execMskand (a : Opnd) (s : State) : Res :=
  .next (issue (.mskand a) { size := 4, uses := [src a .w1] }
    (warpEff fun w => { w with exec := predMask w a false }) s)

/-! ## Trailers and LIMM (R144, R145, R151, R309, R342) -/

/-- TRL (R151, R309): its conditions hold and the run ends, or the warp leaves its holder and parks. It is not counted
among the run's instructions, and it may not follow a LIMM (R145). -/
def execTrl (mask : BitVec 6) (sBit y : Bool) (s : State) : Res :=
  match warpAt s s.cur with
  | none => .next s
  | some w =>
    if !mayIssue s w then .next s
    else if !w.run.limm.isEmpty then
      .next (raise s s.cur w { w.trap cILLEGAL_ENC with info := encode (.trl mask sBit y) })
    else if w.awaits mask sBit then .next (endTrailer s s.cur w (keepsHolder s w y))
    else .next (setWarp s s.cur { w with st := .parked mask sBit })

/-- LIMM (R144). -/
def execLimm (imm : BitVec 25) (s : State) : Res :=
  .next (issue (.limm imm) { size := 4, limm := true, isLimm := true }
    (warpEff fun w => { w with run := { w.run with limm := w.run.limm ++ [imm] } }) s)

/-! ## Flags (R311, R312) -/

def execFlgrd (d : Dst) (b : Opnd) (s : State) : Res :=
  .next (issue (.flgrd d b) { size := 4, uses := [{ src b .w1 with lead := true }, dst d .w1] }
    (fun s w =>
      if w.exec = 0 then .done s
      else
        let m := BitVec.ofNat 12 (w.uni b) &&& 0x7F
        .done (setWarp s s.cur { w.result d 1 (fun _ => w.aflags.toNat) with aflags := w.aflags &&& ~~~m })) s)

def execFlgwr (a b : Opnd) (s : State) : Res :=
  .next (issue (.flgwr a b)
    { size := 4, uses := [{ src a .w1 with lead := true }, { src b .w1 with lead := true }] }
    (fun s w =>
      if w.exec = 0 then .done s
      else
        let m := BitVec.ofNat 12 (w.uni b) &&& aflagMask
        .done (setWarp s s.cur { w with aflags := (w.aflags &&& ~~~m) ||| (BitVec.ofNat 12 (w.uni a) &&& m) })) s)

/-- TFENCE (R312). -/
def execTfence (s : State) : Res :=
  .next (issue .tfence { size := 4, acts := true }
    (fun s w =>
      if !w.drained then .wait .slots
      else
        let e := aflagBits w.aflags &&& (ctxAt s w.ctx).trapen
        if e ≠ 0 ∧ !w.tm then .doneTrap s { w.trap cARITH with info := e.toNat } else .done s) s)

/-! ## Warp requests (R313 to R315) -/

def execPrio (a : Opnd) (s : State) : Res :=
  .next (issue (.prio a) { size := 4, uses := [src a .w1], acts := true, lanes := uniMask }
    (warpEff fun w => { w with prio := BitVec.ofNat 3 (w.uni a) }) s)

def execYield (s : State) : Res :=
  .next (issue .yield { size := 4, acts := true }
    (warpEff fun w => { w with run := { w.run with yld := true } }) s)

/-- Live lanes of a quarter (R344). -/
def liveLanes (q : Quarter) : Nat := popcount 32 q.live.toNat

/-- A quarter's fold, 0 with no live lane (R333, R344). -/
def foldOf (q : Quarter) : Nat :=
  let l := liveLanes q
  if l = 0 then 0 else (32 + l - 1) / l

/-- Rows in service per physical lane (R345): four banks times 32 times the fewest live blocks of any bank. -/
def rowsOf (q : Quarter) : Nat :=
  let b := fun i => popcount 8 (q.rows.toNat / 2 ^ (8 * i))
  128 * min (min (b 0) (b 1)) (min (b 2) (b 3))

/-- A quarter as a steering change leaves it (R346). -/
def Quarter.after (q : Quarter) : Quarter :=
  { q with live := q.pendLive.getD q.live, rows := q.pendRows.getD q.rows, pendLive := none, pendRows := none
           stat := 0 }

/-- The capacity that a quarter's lanes and rows give, in warp registers (R112, R345). -/
def Quarter.room (q : Quarter) : Nat :=
  let f := foldOf q
  if f = 0 then 0 else 16 * (rowsOf q / (16 * f))

/-- A quarter's capacity in warp registers (R112, R345): while its steering is rewritten, no more than the new steering
gives, so that what is granted meanwhile fits when it takes effect (R346). -/
def capacity (q : Quarter) : Nat := min q.room q.after.room

/-- The allocations of a quarter's resident warps, without one of them. -/
def usedRegs (s : State) (core q : Nat) (without : Nat) : Nat :=
  ((quarterWarps s core q).map fun w => if w.key = without then 0 else w.alloc).foldl (· + ·) 0

/-- A new allocation fits the warp's quarter (R112). -/
def regsFit (s : State) (w : Warp) (size : Nat) : Bool :=
  decide (usedRegs s w.core w.quarter w.key + size ≤ capacity (quarterAt (coreAt s w.core) w.quarter))

/-- A pending long-latency write loses the registers at or beyond an allocation (R314). -/
def Slot.shrink (sl : Slot) (size : Nat) : Slot :=
  match sl.dst with
  | .regs bases g => { sl with dst := .regs (bases.map fun b => if b + g ≤ size then b else 64) g }
  | _ => sl

/-- The new allocation is in force (R112): registers beyond it are discarded, new ones read zero without error. -/
def Warp.resize (w : Warp) (size : Nat) : Warp :=
  { w with
    alloc := size
    main := w.main.filter fun e => decide (e.1 < min w.alloc size)
    ue := w.ue.filter fun e => decide (e.1 < min w.alloc size)
    slots := if size < w.alloc then w.slots.map (·.shrink size) else w.slots }

/-- The sizes REGRS accepts (R314). -/
def regSizeOk (n : Nat) : Bool := n == 16 || n == 32 || n == 48 || n == 64

/-- A destination register at or beyond a limit, in some active lane. -/
def dstBeyond (w : Warp) (d : Dst) (n : Nat) : Bool :=
  match d with
  | .v r => decide (n ≤ r.val)
  | .x k => (lanesOf w.exec).any fun l =>
    let x := w.xval k l
    idxOk w.alloc 1 x && decide (n ≤ idxBase x)
  | .o _ => false

/-- The instruction that a warp waits at, as fetched: its destination operand (REGRS writes one when settled). -/
def regrsDst (w : Warp) : Option Dst :=
  match w.code with
  | some (h0 :: h1 :: _) =>
    match decode [h0, h1] with
    | some (.regrs d _, _) => some d
    | _ => none
  | _ => none

/-- Settles a waiting REGRS with a status (R314): the instruction completes, and the warp waits for a holder. Its status goes to
l0 as at `regrsEff` (log 103). -/
def settleRegrs (s : State) (w : Warp) (size status : Nat) : State :=
  match regrsDst w with
  | none => s
  | some d =>
    let w' := w.result d 1 fun _ => status
    let w'' := if status = 0 then w'.resize size else w'
    retire (setWarp s w.key { w'' with st := .blocked .done }) w.key { size := 4, weight := 4 }

/-- The warps of a quarter that wait in REGRS with their sizes; one that a calving request holds stays unissued (R391). -/
def regrsWaiters (s : State) (core q : Nat) : List (Warp × Nat) :=
  (quarterWarps s core q).filterMap fun w =>
    match w.st with
    | .blocked (.regrs n) => if calveHolds s w then none else some (w, n)
    | _ => none

/-- The order in which waiting requests are examined: descending prio, then the lowest slot (R354). -/
def regrsBefore (a b : Warp × Nat) : Bool :=
  decide (b.1.prio.toNat < a.1.prio.toNat) || (a.1.prio == b.1.prio && decide (a.1.slot ≤ b.1.slot))

/-- Examines some waiting requests in order, and grants each one that fits (R354). -/
def grantRegrs (s : State) (ps : List (Warp × Nat)) : State :=
  (sortBy regrsBefore ps).foldl (fun s p => if regsFit s p.1 p.2 then settleRegrs s p.1 p.2 0 else s) s

/-- Capacity of a quarter has come free: its waiting requests are examined (R354). -/
def examineRegrs (s : State) (core q : Nat) : State := grantRegrs s (regrsWaiters s core q)

/-- REGRS (R112, R314, R354): a request that needs no capacity is settled at once, and what it frees is offered to those
that wait; another is examined in its place among them, and waits where it does not fit. R106 names fixed-latency and
long-latency instructions only: that REGRS, of class B, moves l0 to l1 and puts its status register into l0 is the model's
choice (log 103). -/
def regrsEff (d : Dst) (a : Opnd) (s : State) (w : Warp) : Eff :=
  let n := w.uni a
  let give := fun (s : State) => setWarp s s.cur ((w.result d 1 fun _ => 0).resize n)
  if n ≤ w.alloc then .done (examineRegrs (give s) w.core w.quarter)
  else
    let s' := grantRegrs s ((regrsWaiters s w.core w.quarter).filter fun p => regrsBefore p (w, n))
    if regsFit s' w n then .done (give s') else .waitIn s' (.regrs n)

/-- REGRS checks its size before it waits for capacity, but not before its size has arrived (R152, R314). -/
def regrsShape (d : Dst) (a : Opnd) : Shape :=
  let us := [src a .w1, dst d .w1]
  { size := 4, uses := us, acts := true, lanes := uniMask
    waits := fun _ w => interlocked w us
    check := fun _ w =>
      let n := w.uni a
      trapIf (!interlocked w us && (!regSizeOk n || dstBeyond w d (min w.alloc n))) (w.trap cILLEGAL_OPERAND) }

def execRegrs (d : Dst) (a : Opnd) (s : State) : Res := .next (issue (.regrs d a) (regrsShape d a) (regrsEff d a) s)

/-- REGRS_GRANT (R354): the waiting requests are examined in order, and each one that fits is granted. -/
def execRegrsGrant (core quarter : Nat) (s : State) : Res := .next (examineRegrs s core quarter)

/-- REGRS_DENY (R355): every resident warp of the quarter waits in REGRS and none fits; the lowest prio is denied, ties
to the highest slot. -/
def execRegrsDeny (core quarter : Nat) (s : State) : Res :=
  let ws := regrsWaiters s core quarter
  if ws.length = (quarterWarps s core quarter).length ∧ !ws.any fun p => regsFit s p.1 p.2 then
    match (sortBy regrsBefore ws).getLast? with
    | none => .next s
    | some p => .next (settleRegrs s p.1 p.2 1)
  else .next s

/-- SLEEP (R315). -/
def execSleep (a : Opnd) (s : State) : Res :=
  .next (issue (.sleep a) { size := 4, uses := [src a .w1], acts := true, lanes := uniMask }
    (fun s w =>
      let n := min (w.uni a) 0xFFFFFFFF
      if n = 0 then .done s else .wait (.sleep (s.time + n))) s)

/-- SLEEP_EXPIRE (R315): the delay has passed, and the SLEEP is complete. -/
def execSleepExpire (k : Nat) (s : State) : Res :=
  match warpAt s k with
  | none => .next s
  | some w =>
    match w.st with
    | .blocked (.sleep t) =>
      if t ≤ s.time then .next (retire (setWarp s k { w with st := .blocked .done }) k { size := 4, weight := 4 })
      else .next s
    | _ => .next s

/-! ## Context registers (R316 to R318) -/

/-- CTXCTL (R318). -/
def ctxctlOf (c : Ctx) : Nat :=
  (if c.bke then 8 else 0) + (if c.det then 4 else 0) + (if c.prv then 2 else 0) + (if c.hc then 1 else 0)

/-- The value of a CSR (R317). -/
def csrVal (s : State) (w : Warp) (r : Csr) : Nat :=
  let c := ctxAt s w.ctx
  match r with
  | .ctxctl => ctxctlOf c
  | .trapen => c.trapen.toNat
  | .tvec => c.tvec
  | .grace => c.grace
  | .wstat => if w.tm then 1 else 0
  | .escr k => (w.escr.getD k.val 0).toNat

/-- A context after a write of a context-scope register (R317, R318). -/
def Ctx.writeCsr (c : Ctx) (r : Csr) (v : Nat) : Ctx :=
  match r with
  | .ctxctl => { c with bke := bit v 3, hc := bit v 0 }
  | .trapen => { c with trapen := BitVec.ofNat 7 v }
  | .tvec => { c with tvec := bits v 12 44 * 4096 }
  | .grace => { c with grace := min (v % 1024) 1000 }
  | _ => c

/-- A TRAP entry stands on the warp's stack (R382). -/
def Warp.inTrap (w : Warp) : Bool := w.shadow.isSome || w.stack.any fun e => e.kind == .trap

/-- A warp after a write of a warp-scope register; a write of 0 to TM under a TRAP entry is ignored (R317, R382). -/
def Warp.writeCsr (w : Warp) (r : Csr) (v : Nat) : Warp :=
  match r with
  | .wstat => { w with tm := bit v 0 || (w.tm && w.inTrap) }
  | .escr k => { w with escr := setAt w.escr k.val (BitVec.ofNat 64 v) }
  | _ => w

def execCsrr (d : Dst) (r : Csr) (s : State) : Res :=
  .next (issue (.csrr d r) { size := 4, priv := true, uses := [dst d .w1] }
    (fun s w => .done (setWarp s s.cur (w.result d 1 fun _ => csrVal s w r))) s)

def execCsrw (r : Csr) (a : Opnd) (s : State) : Res :=
  .next (issue (.csrw r a) { size := 4, priv := true, uses := [{ src a .w1 with lead := true }] }
    (fun s w =>
      if w.exec = 0 then .done s
      else
        let v := w.uni a
        .done (modCtx (setWarp s s.cur (w.writeCsr r v)) w.ctx fun c => c.writeCsr r v)) s)

/-! ## NOP, TRAP, BKPT and PHASE (R319, R320) -/

def execNop (s : State) : Res := .next (issue .nop { size := 4, acts := true } (warpEff id) s)

/-- TRAP (R319): with traps unmasked its entry is pushed at issue; otherwise its trailer makes a fault stop. -/
def trapEff (code : BitVec 6) (s : State) (w : Warp) : Eff :=
  let t := { w.trap cTRAP with info := code.toNat, resume := fallThrough w }
  let tvec := (ctxAt s w.ctx).tvec
  if w.tm ∨ tvec = 0 then warpEff (fun w => { w with run := { w.run with trp := some (t, true) } }) s w
  else
    pushEff (fun w => { kind := .trap, pc := fallThrough w, mask := w.exec, tm := false })
      (fun w => { w with run := { w.run with trp := some ({ t with resume := tvec }, false) } }) s w

def execTrap (code : BitVec 6) (s : State) : Res :=
  .next (ctIssue (.trap code) [] true (fun w => w.exec) noCheck (trapEff code) s)

def execBkpt (s : State) : Res :=
  .next (issue .bkpt { size := 4, acts := true }
    (fun s w => if (ctxAt s w.ctx).bke then .doneTrap s (w.trap cBKPT) else .done s) s)

/-- The writes of a phase that a warp held in PHASE acquires (R397): every die's clock reaches every other's. -/
def joinClocks (s : State) : State :=
  let v := (List.range 8).foldl (fun v d => vcMax v (clockOf s d)) []
  (List.range 8).foldl (fun s d => setClock s d v) s

/-- PHASE in deterministic mode (R320): it waits, commits once, and waits for the next phase. A sampled execution ends
at it (R404). -/
def phaseEff (finish : State → Warp → State × Warp) (s : State) (w : Warp) : Eff :=
  let c := ctxAt s w.ctx
  if !c.det then .done s
  else match w.run.commit with
    | none =>
      if !phaseQuiet s w || w.sampleOpen then .wait .commit
      else
        let r := finish s w
        let w' : Warp := { r.2 with run := { r.2.run with commit := some c.phase }, committed := c.phase + 1 }
        .waitIn (setWarp r.1 s.cur w') (.phase c.phase)
    | some p =>
      if c.phase ≤ p then .wait (.phase p)
      else .done (setWarp s s.cur { w with run := { w.run with commit := none } })

end Sys2Proof.Machine
end

