-- ==== Sys2Proof/Machine/Sync.lean ====
section
/-! DEFINITION. Fences, timelines and barriers (R274 to R279, R284, R292 to R297). -/

namespace Sys2Proof.Machine

open Sys2Proof

/-! ## The command octet (R159) -/

/-- Word i of the octet based at vC, in the leader lane. -/
def octWord (w : Warp) (c : Fin 4) (i : Nat) : Nat := laneAt (w.vreg (8 * c.val + i)) w.uniLane

/-- The base register of an octet. -/
def octBase (c : Fin 4) : Nat := 8 * c.val

/-! ## Fences (R274, R275) -/

/-- FENCE (R274, R275): its slot returns when its conditions hold; it acts whatever exec holds. -/
def execFence (k : FenceKind) (scope : Scope) (s : State) : Res :=
  .next (issue (.fence k scope) { size := 4, long := true, acts := true }
    (warpEff fun w => w.addSlot .relaxed scope .none (.fence k)) s)

/-! ## Timelines (R276 to R279) -/

/-- TLWAIT (R277). -/
def tlwaitEff (e : Eng) (n : Opnd) (s : State) (w : Warp) : Eff :=
  if w.exec = 0 then .done s
  else
    let n := w.uni n
    let t := warpTimeline s w e
    if !t.reached n then .wait (.timeline e n)
    else if t.p ≠ 0 ∧ t.p ≤ n then .trap { w.trap cENGINE_FAULT with eng := engCode e, info := t.p }
    else .done s

def execTlwait (e : Eng) (n : Opnd) (s : State) : Res :=
  .next (issue (.tlwait e n) { size := 4, weight := 16, uses := [{ src n .w1 with lead := true }] } (tlwaitEff e n) s)

/-- TLRD (R279): T, or the fault mark P, as read at issue. -/
def execTlrd (e : Eng) (d : Dst) (fault : Bool) (s : State) : Res :=
  .next (issue (.tlrd e d fault) { size := 4, long := true, weight := 16, uses := [dst d .w1] }
    (slotEff d 1 fun s w =>
      let t := warpTimeline s w e
      (List.replicate 32 (if fault then t.p else t.t), 0)) s)

/-! ## Barriers (R292 to R297) -/

/-- A barrier of a crew. -/
def barAt (s : State) (ck b : Nat) : Option Barrier :=
  match crewAt s ck with
  | none => none
  | some c => c.bars[b]?

/-- Changes a barrier of a crew. -/
def modBar (s : State) (ck b : Nat) (f : Barrier → Barrier) : State :=
  modCrew s ck fun c => { c with bars := modAt c.bars b f }

/-- The warps of a crew that wait on a barrier are released by the completion of the phase they wait for: their
instruction is complete, and they wait for a holder (R295). -/
def releaseWaiters (s : State) (ck b : Nat) (ph : Bool) : State :=
  (crewWarps s ck).foldl (fun s w =>
    match w.st with
    | .blocked (.barrier n tok) =>
      if n = b ∧ tok ≠ ph then
        retire (setWarp s w.key { w with st := .blocked .done, run := { w.run with arv := none } }) w.key
          { size := 4, weight := 16 }
      else s
    | _ => s) s

/-- A phase completes: PH flips, and early far arrivals count in the next (R295, R296). -/
def completePhase (s : State) (ck b : Nat) (x : Barrier) : State :=
  let y := { x with ph := !x.ph, arrivals := 0, farGot := x.farNext, farNext := [], posted := false }
  releaseWaiters (modBar s ck b fun _ => y) ck b y.ph

/-- The key of a crew. -/
def Crew.key (c : Crew) : Nat := crewKey c.ctx c.id

/-- The keys of the other crews of a crew's span. -/
def spanOthers (c : Crew) : List Nat := c.span.filter fun i => i != c.key

/-- Charges a far arrival, one header flit, to a crew: over the ring boundary to the partner die (R17, R64). -/
def chargeFar (s : State) (c : Crew) (dst : Nat) : State :=
  match crewAt s dst with
  | none => s
  | some d => chargeCores s c.ctx c.core d.core 32 true

/-- Posts a far arrival to every other crew of the span (R296). -/
def postFar (s : State) (c : Crew) (b : Nat) (ph : Bool) : State :=
  (spanOthers c).foldl (fun s i =>
    modLinks { chargeFar s c i with serial := s.serial + 1 } fun l =>
      { l with far := l.far ++ [
          { dst := i, src := c.key, core := c.core, bar := b, ph := ph
            vc := clockOf s (dieOfCore c.core), ser := s.serial }] }) s

/-- Completes the phase of a barrier whose arrivals, and for a span barrier the far arrivals, are all there (R295,
R296). -/
def barSettle (s : State) (ck b : Nat) : State :=
  match crewAt s ck, barAt s ck b with
  | some c, some x =>
    if x.arrivals < x.count then s
    else if !x.far then completePhase s ck b x
    else
      let s := if x.posted then s else modBar (postFar s c b x.ph) ck b fun y => { y with posted := true }
      if (spanOthers c).all fun i => x.farGot.contains i then completePhase s ck b { x with posted := true } else s
  | _, _ => s

/-- Counts one arrival (R295). -/
def countArrival (s : State) (ck b : Nat) : State :=
  barSettle (modBar s ck b fun x => { x with arrivals := x.arrivals + 1 }) ck b

/-- The scope of an arrival: on a span barrier the codes 0 to 3 act as pair scope (R297). -/
def arriveScope (s : State) (ck b : Nat) (scope : Scope) : Scope :=
  if (barAt s ck b).any (·.far) ∧ scopeCode scope < 4 then .pair else scope

/-- The arrival of a warp's instruction `id` may count: its release holds, and no earlier acquire or fence holds it
(R297, R359). -/
def mayArrive (s : State) (w : Warp) (id : Nat) (scope : Scope) : Bool :=
  !heldBack w id false && earlierPerformed s w id scope

/-- An arrival: counted at once, or held until its release holds (R297). -/
def arrive (s : State) (w : Warp) (b : Nat) (scope : Scope) : State :=
  let sc := arriveScope s w.crewK b scope
  if mayArrive s w w.nextSlot sc then countArrival (setWarp s s.cur w) w.crewK b
  else setWarp s s.cur (w.addHeld sc (.arrive b))

/-- The barrier word's reserved bits, and FAR and COUNT outside BARINIT (R293). -/
def barWordBad (x : Nat) (init : Bool) : Bool := if init then x / 2 ^ 10 != 0 else x / 2 ^ 4 != 0

/-- BARINIT's refusals (R294). -/
def barInitBad (s : State) (w : Warp) (x : Nat) : Bool :=
  let n := bits x 4 5
  let b := x % 16
  n == 0 || decide (16 < n) || (bit x 9 && (crewAt s w.crewK).all fun c => c.span.isEmpty) ||
    (barAt s w.crewK b).any (fun y => y.arrivals != 0) ||
    (crewWarps s w.crewK).any fun y =>
      match y.st with
      | .blocked (.barrier k _) => k == b
      | _ => false

/-- The shape of a barrier instruction. -/
def barShape (c : Fin 4) (uses : List Use) (bad : State → Warp → Nat → Bool) : Shape :=
  { size := 4, weight := 16, octet := some (octBase c), words := 1, uses := uses
    check := fun s w => trapIf (bad s w (octWord w c 0)) (w.trap cILLEGAL_OPERAND) }

def execBarinit (c : Fin 4) (s : State) : Res :=
  .next (issue (.barinit c) (barShape c [] fun s w x => barWordBad x true || barInitBad s w x)
    (fun s w =>
      if w.exec = 0 then .done s
      else
        let x := octWord w c 0
        .done (modBar s w.crewK (x % 16) fun y =>
          { y with count := bits x 4 5, far := bit x 9, ph := false, arrivals := 0, farGot := [], farNext := []
                   posted := false })) s)

def execBararv (d : Dst) (c : Fin 4) (scope : Scope) (s : State) : Res :=
  .next (issue (.bararv d c scope) (barShape c [dst d .w1] fun _ _ x => barWordBad x false)
    (fun s w =>
      if w.exec = 0 then .done s
      else
        let b := octWord w c 0 % 16
        let tok := if barPhase s w b then 1 else 0
        .done (arrive s (w.result d 1 fun _ => tok) b scope)) s)

def execBarwait (n : Opnd) (c : Fin 4) (scope : Scope) (s : State) : Res :=
  .next (issue (.barwait n c scope)
    (barShape c [{ src n .w1 with lead := true }] fun _ _ x => barWordBad x false)
    (fun s w =>
      if w.exec = 0 then .done s
      else
        let b := octWord w c 0 % 16
        let tok := bit (w.uni n) 0
        if barPhase s w b ≠ tok then .done s else .wait (.barrier b tok)) s)

/-- BARARVW (R295): it arrives once, and then waits; interrupted in the wait, it has already arrived. -/
def bararvwEff (c : Fin 4) (scope : Scope) (s : State) (w : Warp) : Eff :=
  if w.exec = 0 then .done s
  else
    let b := octWord w c 0 % 16
    let tok := w.run.arv.getD (barPhase s w b)
    let s' := if w.run.arv.isSome then s
      else arrive s { w with run := { w.run with arv := some tok } } b scope
    match warpAt s' s.cur with
    | none => .done s'
    | some w' =>
      if barPhase s' w' b ≠ tok then .done (setWarp s' s.cur { w' with run := { w'.run with arv := none } })
      else .waitIn s' (.barrier b tok)

def execBararvw (c : Fin 4) (scope : Scope) (s : State) : Res :=
  .next (issue (.bararvw c scope) (barShape c [] fun _ _ x => barWordBad x false) (bararvwEff c scope) s)

/-- Every remote-half write from the posting core to the receiving core that issued before a far arrival has been
performed (R64). -/
def farBehindWrites (s : State) (m : FarMsg) (dstCore : Nat) : Bool :=
  (allWarps s).all fun w => w.core != m.core || w.slots.all fun sl => sl.accs.all fun a =>
    a.done || !a.op.writes || decide (m.ser ≤ a.ser) || (match a.loc with
      | .scratch c _ true => c != dstCore
      | _ => true)

/-- FAR_ARRIVAL (R64, R296, R365): far arrival k reaches its crew's barrier; one for the following phase is held, one for
a barrier with FAR = 0 is discarded. -/
def execFarArrival (k : Nat) (s : State) : Res :=
  match s.links.far[k]? with
  | none => .next s
  | some m =>
    match crewAt s m.dst with
    | none => .next (modLinks s fun l => { l with far := dropAt l.far k })
    | some c =>
      if !farBehindWrites s m c.core || (s.links.far.take k).any fun x => x.dst == m.dst && x.src == m.src then .next s
      else
        let s := modLinks s fun l => { l with far := dropAt l.far k }
        let s := mergeClock s (dieOfCore c.core) m.vc
        match barAt s m.dst m.bar with
        | none => .next s
        | some x =>
          if !x.far then .next s
          else if x.ph = m.ph then
            .next (barSettle (modBar s m.dst m.bar fun y => { y with farGot := y.farGot ++ [m.src] }) m.dst m.bar)
          else .next (modBar s m.dst m.bar fun y => { y with farNext := y.farNext ++ [m.src] })

end Sys2Proof.Machine
end

