-- ==== Sys2Proof/Machine/Queue.lean ====
section
/-! DEFINITION. Work-item queues: DEQ, QTRY, ENQ and QBIND, where items go and who may take them, orphaned queues, and
the sampled re-execution of items (R285 to R291, R337, R338, R398, R403 to R405). -/

namespace Sys2Proof.Machine

open Sys2Proof

/-! ## Queues of a context -/

/-- An unbound queue (R325). -/
def Queue.empty : Queue :=
  { cls := 0, logcap := 0, closed := false, everProd := false, items := [], tickets := [], appended := 0, shadow := [] }

/-- A queue of a context. -/
def queueOf (s : State) (ctx qb : Nat) : Queue := look (ctxAt s ctx).queues qb Queue.empty

/-- Replaces a queue of a context. -/
def setQueueOf (s : State) (ctx qb : Nat) (q : Queue) : State :=
  modCtx s ctx fun c => { c with queues := put c.queues qb q }

/-- The items of a subqueue or segment. -/
def Queue.sub (q : Queue) (i : Nat) : List Item := look q.items i []

/-- Replaces the items of a subqueue or segment. -/
def Queue.setSub (q : Queue) (i : Nat) (l : List Item) : Queue := { q with items := putD q.items i [] l }

/-- H: the clusters that hold a live crew of the launch, ascending (R337). -/
def liveClusters (s : State) (ctx : Nat) : List Nat :=
  let cs := ((allCrews s).filter fun e => e.2.ctx == ctx && e.2.st.resident).map fun e => clusterOfCore e.2.core
  (List.range 24).filter fun c => cs.contains c

/-- The subqueue of a tile by the slice-table entry of its address: the entry's slice under the current table (R337). -/
def tileSub (s : State) (ctx tile : Nat) : Option Nat :=
  let slice := sliceEntry s tile
  let d := slice % 8
  let pc := dieFirstCluster d + slice / 8 % dieClusters d
  let h := liveClusters s ctx
  if h.contains pc then some pc else h[slice % h.length]?

/-- The segments a DEQ on a die tries, in order (R338). -/
def segmentOrder (v : Nat) : List Nat :=
  [v, (v + 1) % 8, (v + 7) % 8, (v + 2) % 8, (v + 6) % 8, (v + 3) % 8, (v + 5) % 8, (v + 4) % 8]

/-- The subqueues or segments that a warp sees, in the order it tries them (R287, R338). -/
def visibleSubs (q : Queue) (w : Warp) : List Nat :=
  if q.cls = 1 then [clusterOfCore w.core] else segmentOrder (dieOfCore w.core)

/-- An item is deliverable in a phase (R398). -/
def deliverable (c : Ctx) (i : Item) : Bool := !c.det || decide (i.phase ≤ c.phase)

/-- The queue holds no item that a warp may see (R287, R291). -/
def Queue.noneVisible (q : Queue) (w : Warp) : Bool :=
  (visibleSubs q w).all (fun i => (q.sub i).isEmpty) && (look q.shadow (clusterOfCore w.core) []).isEmpty

/-- A queue is orphaned for a reader (R291). -/
def queueOrphan (s : State) (w : Warp) (qb : Nat) : Bool :=
  let q := queueOf s w.ctx qb
  q.everProd && !q.closed && q.noneVisible w &&
    !((allWarps s).any fun x => x.ctx == w.ctx && x.canProduce && x.producer.getLsbD qb)

/-! ## Sampled re-execution (R403 to R405) -/

/-- An item is selected for re-execution: in deterministic mode alone (R395, R403). -/
def selected (c : Ctx) (qb num : Nat) : Bool :=
  c.det && c.smp && leNat (shake256 (leBytes 8 c.seed.toNat ++ leBytes 1 qb ++ leBytes 8 num) 2) % 2 ^ 10 == 0

/-- The next cluster after one in ascending order with wrap, if another holds a live crew (R403). -/
def shadowCluster (h : List Nat) (c : Nat) : Option Nat :=
  (firstOf (fun x => decide (c < x)) h).orElse fun _ => firstOf (fun x => x != c) h

/-- The bytes of a write record (R405). -/
def SampleRec.bytes (r : SampleRec) : List Byte := leBytes 8 r.va ++ leBytes 4 r.len ++ r.data

/-- The digest of an execution (R405). -/
def digestOf (p : Sample) : List Byte := shake256 (p.recs.flatMap SampleRec.bytes) 16

/-- A warp's sampled execution ends: its digest is kept (R404, R405). -/
def finishSample (s : State) (w : Warp) : State × Warp :=
  match w.sample with
  | none => (s, w)
  | some p =>
    (modCtx s w.ctx fun c =>
      { c with digests := c.digests ++ [
          { qb := p.qb, num := p.num, shadow := p.shadow, crew := w.crew, hash := digestOf p }] },
      { w with sample := none })

/-- EXIT (R307); the sampled execution ends with it (R404). -/
def execExit (s : State) : Res :=
  .next (ctIssue .exit [] true (fun w => w.exec) noCheck (exitEff finishSample) s)

/-- PHASE (R319, R320). -/
def execPhase (s : State) : Res :=
  .next (issue .phase { size := 4, acts := true } (phaseEff finishSample) s)

/-! ## Taking an item (R287, R338) -/

/-- The status word of R286. -/
def statusWord (ticket sdie stat : Nat) : Nat := ticket % 2 ^ 32 * 2 ^ 32 + sdie % 8 * 2 ^ 8 + stat % 4

/-- The outcome of a DEQ or QTRY: still waiting, or a status word with what it delivers. -/
inductive Took where
  | wait
  | orphan
  | got (s : State) (w : Warp) (word : Nat) (item : Option Item)

/-- Removes the first deliverable item of a list. -/
def takeFirst (c : Ctx) (l : List Item) : Option (Item × List Item) :=
  match l with
  | [] => none
  | i :: l => if deliverable c i then some (i, l) else (takeFirst c l).map fun p => (p.1, i :: p.2)

/-- The first deliverable item in the order in which a warp tries subqueues, its place, and the queue without it. -/
def takeVisible (c : Ctx) (q : Queue) (subs : List Nat) : Option (Nat × Item × Queue) :=
  firstSome (fun i => (takeFirst c (q.sub i)).map fun p => (i, p.1, q.setSub i p.2)) subs

/-- The records of the writes issued behind a DEQ or QTRY while an earlier acquire held it (R404, R405). -/
def Warp.waitingRecs (w : Warp) (start : Nat) : List SampleRec :=
  match w.sample with
  | none => []
  | some p => if p.waiting && p.start == start then p.recs else []

/-- The warp starts the sampled execution of an item that a DEQ or QTRY delivers (R404). -/
def Warp.startSample (w : Warp) (qb num start : Nat) (shadow : Bool) : Warp :=
  { w with sample := some { qb := qb, num := num, shadow := shadow, recs := w.waitingRecs start, start := start } }

/-- An earlier acquire holds a DEQ or QTRY in deterministic mode: whether it delivers a sampled item is not known yet. -/
def Warp.awaitSample (w : Warp) (det : Bool) (start : Nat) : Warp :=
  if det then { w with sample := some { qb := 0, num := 0, shadow := false, recs := [], start := start, waiting := true } }
  else w

/-- The DEQ or QTRY has delivered no sampled item. -/
def Warp.noSample (w : Warp) (start : Nat) : Warp :=
  match w.sample with
  | none => w
  | some p => if p.waiting && p.start == start then { w with sample := none } else w

/-- What a shadow execution does not perform of a slot that was issued behind its DEQ or QTRY while that was held: global
stores, and an ENQ's append, which returns STAT 0b00 (R404). -/
def Slot.suppress (sl : Slot) : Slot :=
  match sl.body with
  | .access as sx =>
    { sl with body := .access (as.filter fun a => !(a.op == .store) || (match a.loc with
        | .scratch _ _ _ => true
        | _ => false)) sx }
  | .enq _ _ _ false => { sl with body := .status 0 none [] false }
  | _ => sl

/-- A shadow execution starts at a DEQ or QTRY: what was issued behind it is suppressed (R404). -/
def Warp.startShadow (w : Warp) (qb num start : Nat) : Warp :=
  let w := w.startSample qb num start true
  Warp.purge { w with slots := w.slots.map fun (sl : Slot) => if start < sl.id then sl.suppress else sl }

/-- Delivers an ordinary item to its primary consumer, for the DEQ or QTRY `start`; a selected one is copied for the
shadow cluster (R403). -/
def deliverItem (s : State) (w : Warp) (qb start : Nat) (i : Item) : State × Warp :=
  let c := ctxAt s w.ctx
  if !selected c qb i.num then (s, w.noSample start)
  else
    let w' := w.startSample qb i.num start false
    match shadowCluster (liveClusters s w.ctx) (clusterOfCore w.core) with
    | none => (modCtx s w.ctx fun c => { c with skipped := satAdd 32 c.skipped 1 }, w')
    | some k =>
      let q := queueOf s w.ctx qb
      (setQueueOf s w.ctx qb { q with shadow := put q.shadow k (look q.shadow k [] ++ [i]) }, w')

/-- The die that supplies an item of a subqueue or segment (R286). -/
def supplier (q : Queue) (sub : Nat) : Nat := if q.cls = 1 then dieOfCluster sub else sub

/-- An item of 32 bytes crosses the spoke of the warp's die on its way between the warp and the queue engines of the
Cirque (R16, R17, R417). -/
def chargeItem (s : State) (ctx : Nat) : State := chargeBytes s ctx 0 0 0 32 0

/-- A DEQ or QTRY, of serial number `start`, tries its queue (R287, R398, R403). The status word of a shadow copy is that
of a normal delivery: a ticket item's names the segment that supplied it. -/
def tryTake (s : State) (w : Warp) (qb start : Nat) (once : Bool) : Took :=
  let q := queueOf s w.ctx qb
  let c := ctxAt s w.ctx
  let k := clusterOfCore w.core
  match look q.shadow k [] with
  | i :: rest =>
    let w' := w.startShadow qb i.num start
    .got (chargeItem (setQueueOf s w.ctx qb { q with shadow := putD q.shadow k [] rest }) w.ctx) w'
      (statusWord (if q.cls = 2 then i.ticket else 0) (supplier q (if q.cls = 1 then k else i.seg)) 0) (some i)
  | [] =>
    match takeVisible c q (visibleSubs q w) with
    | some (sub, i, q') =>
      let r := deliverItem (chargeItem (setQueueOf s w.ctx qb q') w.ctx) w qb start i
      .got r.1 r.2 (statusWord (if q.cls = 2 then i.ticket else 0) (supplier q sub) 0) (some i)
    | none =>
      if queueOrphan s w qb && !once then .orphan
      else if q.closed ∧ q.noneVisible w then .got s (w.noSample start) (statusWord 0 0 1) none
      else if once || c.det then .got s (w.noSample start) (statusWord 0 0 2) none
      else .wait

/-- The slot body of a decided DEQ or QTRY; the item's clock reaches the consumer's die (R365, R372). -/
def tookBody (word : Nat) (item : Option Item) : SlotBody :=
  .status word (item.map (·.data)) ((item.map (·.vc)).getD []) true

/-- A queue binding that the launch record does not bind, or a reserved bit (R285). -/
def qbBad (s : State) (w : Warp) (x : Nat) : Bool := x / 16 != 0 || (queueOf s w.ctx (x % 16)).cls == 0

/-- The effect of DEQ and QTRY at issue: the outcome where it is known, else a waiting slot (R287, R291). An earlier
acquire holds the access (R359). -/
def takeEff (d : Dst) (c : Fin 4) (scope : Scope) (once : Bool) (s : State) (w : Warp) : Eff :=
  if w.exec = 0 then .done s
  else if w.sampleOpen then .stall
  else
    let qb := octWord w c 0 % 16
    let f := finishSample s w
    if queueOrphan s w qb then .trap { w.trap cQUEUE_ORPHAN with info := qb }
    else
      let waits := fun (w : Warp) => setWarp f.1 s.cur (w.addSlot .relaxed scope (w.slotDst d 1) (.deq qb once))
      if heldBack w w.nextSlot true then .done (waits (f.2.awaitSample (ctxAt s w.ctx).det w.nextSlot))
      else match tryTake f.1 f.2 qb w.nextSlot once with
        | .got s' w' word item =>
          let s'' := mergeClock s' (dieOfCore w.core) ((item.map (·.vc)).getD [])
          .done (setWarp s'' s.cur (w'.addSlot .relaxed scope (w'.slotDst d 1) (tookBody word item)))
        | _ => .done (waits f.2)

/-- The shape of a queue instruction. -/
def queueShape (c : Fin 4) (words : Nat) (uses : List Use) (bad : State → Warp → Bool) : Shape :=
  { size := 4, long := true, weight := 16, octet := some (octBase c), words := words, uses := uses
    check := fun s w => trapIf (bad s w) (w.trap cILLEGAL_OPERAND) }

def execDeq (d : Dst) (c : Fin 4) (scope : Scope) (s : State) : Res :=
  .next (issue (.deq d c scope) (queueShape c 1 [dst d .w1] fun s w => qbBad s w (octWord w c 0))
    (takeEff d c scope false) s)

def execQtry (d : Dst) (c : Fin 4) (scope : Scope) (s : State) : Res :=
  .next (issue (.qtry d c scope) (queueShape c 1 [dst d .w1] fun s w => qbBad s w (octWord w c 0))
    (takeEff d c scope true) s)

/-! ## Appending (R288, R337, R338, R398) -/

/-- The items that a subqueue or segment holds at most (R325). -/
def Queue.cap (q : Queue) : Nat := 2 ^ q.logcap

/-- Appends an item to a subqueue or segment: its enqueue number, its ticket, and the phase from which it is
deliverable. -/
def appendItem (s : State) (ctx qb sub tile : Nat) (data : List Word) (vc : VClock) : State :=
  let c := ctxAt s ctx
  let q := queueOf s ctx qb
  let t := look q.tickets sub 0
  let i : Item :=
    { data := data, tile := tile, seg := sub, num := q.appended, ticket := t, phase := if c.det then c.phase + 1 else 0
      vc := vc }
  setQueueOf s ctx qb
    { (q.setSub sub (q.sub sub ++ [i])) with appended := q.appended + 1, tickets := putD q.tickets sub 0 (t + 1) }

/-- The outcome of an ENQ that its release lets act: none while there is no space (R288). `dest` is the slice-table entry
of its tile address, or its segment. -/
def tryAppend (s : State) (w : Warp) (qb dest : Nat) (item : List Word) (close : Bool) : Option (State × Nat) :=
  let q := queueOf s w.ctx qb
  let sub := if q.cls = 1 then (tileSub s w.ctx dest).getD (clusterOfCore w.core) else dest
  if close then
    some (setQueueOf s w.ctx qb { q with closed := true }, if q.closed then 1 else 0)
  else if q.closed then some (s, 1)
  else if q.cap ≤ (q.sub sub).length then none
  else some (appendItem (chargeItem s w.ctx) w.ctx qb sub dest item (clockOf s (dieOfCore w.core)), 0)

/-- No earlier ENQ of the warp to the queue is still to be decided (R289). -/
def enqInOrder (w : Warp) (id qb : Nat) : Bool :=
  w.slots.all fun sl => decide (id ≤ sl.id) || sl.ret || (match sl.body with
    | .enq q _ _ _ => q != qb
    | _ => true)

/-- An ENQ may act: its release holds (R288, R359). -/
def mayEnq (s : State) (w : Warp) (id qb : Nat) (scope : Scope) : Bool :=
  !heldBack w id false && earlierPerformed s w id scope && enqInOrder w id qb

/-- The item of an ENQ's block (R285). -/
def enqItem (w : Warp) (c : Fin 4) : List Word := (List.range 4).map fun i => BitVec.ofNat 64 (octWord w c (2 + i))

/-- The field checks of an ENQ's block (R285). -/
def enqBad (s : State) (w : Warp) (c : Fin 4) (close : Bool) : Bool :=
  let x := octWord w c 0
  let t := octWord w c 1
  qbBad s w x || (!close && (t / 2 ^ 56 != 0 || ((queueOf s w.ctx (x % 16)).cls == 2 && t != 0)))

/-- Where an ENQ's item goes: the slice-table entry of its tile, whose address is checked as a read, or the die's segment
(R285, R288, R337). -/
def enqSub (s : State) (w : Warp) (c : Fin 4) : Nat ⊕ TrapReq :=
  let q := queueOf s w.ctx (octWord w c 0 % 16)
  if q.cls = 1 then
    let va := octWord w c 1
    match translate s w.core w.ctx va 1 .read with
    | .bad k => .inr (w.trapAt k w.uniLane va false)
    | .ok pa _ => .inl (sliceIdx pa)
  else .inl (dieOfCore w.core)

/-- The walk of an ENQ's tile address must wait (R53, R66). -/
def tileWaits (s : State) (w : Warp) (c : Fin 4) : Bool :=
  (queueOf s w.ctx (octWord w c 0 % 16)).cls == 1 && transWaits s w.core w.ctx (octWord w c 1)

/-- The record of an ENQ in a sampled execution: address 0, length 32, the item (R405). -/
def Warp.recordEnq (w : Warp) (item : List Word) : Warp :=
  match w.sample with
  | none => w
  | some p =>
    { w with sample := some { p with recs := p.recs ++ [
        { key := sampleKey w.nextSlot 0, va := 0, len := 32, data := item.flatMap fun x => leBytes 8 x.toNat
          done := true }] } }

/-- A shadow execution appends nothing (R404). -/
def Warp.inShadow (w : Warp) : Bool :=
  match w.sample with
  | none => false
  | some p => p.shadow

/-- The effect of ENQ at issue (R288, R404). -/
def enqEff (d : Dst) (c : Fin 4) (scope : Scope) (close : Bool) (s : State) (w : Warp) : Eff :=
  if w.exec = 0 then .done s
  else if !close && tileWaits s w c then .stall
  else
    let qb := octWord w c 0 % 16
    match (if close then .inl 0 else enqSub s w c) with
    | .inr t => .trap t
    | .inl sub =>
      let item := if close then [] else enqItem w c
      let w1 := if close then w else w.recordEnq item
      let put := fun (s' : State) (b : SlotBody) => Eff.done (setWarp s' s.cur (w1.addSlot .relaxed scope (w.slotDst d 1) b))
      if w.inShadow && !close then put s (.status (statusWord 0 0 0) none [] false)
      else if !mayEnq s w w.nextSlot qb scope then put s (.enq qb sub item close)
      else match tryAppend s w qb sub item close with
        | some (s', st) => put s' (.status (statusWord 0 0 st) none [] false)
        | none => put s (.enq qb sub item close)

def execEnq (d : Dst) (c : Fin 4) (scope : Scope) (close : Bool) (s : State) : Res :=
  .next (issue (.enq d c scope close)
    (queueShape c (if close then 1 else 6) [dst d .w1] fun s w => enqBad s w c close) (enqEff d c scope close) s)

/-! ## QBIND (R290) -/

/-- The fields that an OP does not use are zero (R290). -/
def qbindFieldsBad (x : Nat) : Bool :=
  let qb := bits x 28 4
  let dest := bits x 12 16 != 0 || bits x 6 4 != 0 || bits x 4 2 != 0
  x / 2 ^ 32 != 0 || bits x 10 2 != 0 ||
    (match x % 4 with
     | 0 => qb != 0
     | 1 => qb != 0 || dest
     | _ => dest || bits x 2 2 != 0)

/-- The crews and warps of the context's launch (R290). -/
def inContext (s : State) (ctx crew warp : Nat) : Bool :=
  (crewAt s (crewKey ctx crew)).any fun c => decide (warp < c.wpc)

/-- QBIND's refusals (R285, R290). -/
def qbindBad (s : State) (w : Warp) (x : Nat) : Bool :=
  qbindFieldsBad x ||
    (match x % 4 with
     | 0 => (look? w.send (bits x 2 2)).isSome || !inContext s w.ctx (bits x 12 16) (bits x 6 4)
     | 1 => false
     | _ => (queueOf s w.ctx (bits x 28 4)).cls == 0)

/-- Binds a send register to a receive register with four credits (R59, R290). -/
def bindChannel (s : State) (w : Warp) (x : Nat) : State :=
  let dk := warpKey (crewKey w.ctx (bits x 12 16)) (bits x 6 4)
  let rr := bits x 4 2
  let w' := { w with send := put w.send (bits x 2 2) { dst := dk, rr := rr, credits := 4, bind := s.serial } }
  let s' := setWarp { s with serial := s.serial + 1 } s.cur w'
  modWarp s' dk fun y => { y with recvBound := y.recvBound ||| BitVec.ofNat 4 (2 ^ rr) }

/-- The effect of QBIND (R290). -/
def qbindEff (c : Fin 4) (s : State) (w : Warp) : Eff :=
  if w.exec = 0 then .done s
  else
    let x := octWord w c 0
    let qb := bits x 28 4
    match x % 4 with
    | 0 => .done (bindChannel s w x)
    | 1 => .done (setWarp s s.cur { w with send := del w.send (bits x 2 2) })
    | 2 =>
      .done (setQueueOf (setWarp s s.cur { w with producer := w.producer ||| BitVec.ofNat 16 (2 ^ qb) }) w.ctx qb
        { queueOf s w.ctx qb with everProd := true })
    | _ => .done (setWarp s s.cur { w with producer := w.producer &&& ~~~(BitVec.ofNat 16 (2 ^ qb)) })

def execQbind (c : Fin 4) (s : State) : Res :=
  .next (issue (.qbind c)
    { size := 4, weight := 16, octet := some (octBase c), words := 1
      check := fun s w => trapIf (qbindBad s w (octWord w c 0)) (w.trap cILLEGAL_OPERAND) }
    (qbindEff c) s)

/-! ## The queue events (R287, R288, R289, R291) -/

/-- Replaces the body of a slot. -/
def setBody (s : State) (w : Warp) (id : Nat) (b : SlotBody) : State :=
  setWarp s w.key (w.modSlot id fun sl => { sl with body := b })

/-- QUEUE_ITEM_DELIVER: a waiting DEQ finds an item or a close, a QTRY that an acquire held acts, or a waiting ENQ finds
space (R287, R288). -/
def execQueueItemDeliver (wk slot : Nat) (s : State) : Res :=
  match warpAt s wk with
  | none => .next s
  | some w =>
    match w.slotAt slot with
    | none => .next s
    | some sl =>
      match sl.body with
      | .deq qb once =>
        if heldBack w slot true then .next s
        else match tryTake s w qb slot once with
          | .got s' w' word item =>
            .next (setBody (mergeClock s' (dieOfCore w.core) ((item.map (·.vc)).getD [])) w' slot (tookBody word item))
          | _ => .next s
      | .enq qb sub item close =>
        if !mayEnq s w slot qb sl.scope then .next s
        else match tryAppend s w qb sub item close with
          | some (s', st) => .next (setBody s' w slot (.status (statusWord 0 0 st) none [] false))
          | none => .next s
      | _ => .next s

/-- A DEQ that waits completes withdrawn (R289, R291). -/
def withdrawDeq (s : State) (w : Warp) (sl : Slot) : State :=
  setBody s (w.noSample sl.id) sl.id (.status (statusWord 0 0 3) none [] true)

/-- QUEUE_ORPHAN (R291): the queue is orphaned, and the DEQs that wait on it complete with STAT 0b11. -/
def execQueueOrphan (ctx qb : Nat) (s : State) : Res :=
  .next (s.warps.foldl (fun s e =>
    match warpAt s e.1 with
    | none => s
    | some w =>
      if w.ctx = ctx ∧ queueOrphan s w qb then
        w.slots.foldl (fun s sl =>
          match sl.body, warpAt s e.1 with
          | .deq q false, some w => if q = qb then withdrawDeq s w sl else s
          | _, _ => s) s
      else s) s)

end Sys2Proof.Machine
end

