-- ==== Sys2Proof/Machine/Record.lean ====
section
/-! DEFINITION. Tensor records: their layout and checks, element addresses and padding, and a core's record cache with
RECLD, RECINV and RECQ (R79 to R85, R187 to R190). -/

namespace Sys2Proof.Machine

open Sys2Proof

/-! ## Formats (R81) -/

/-- The number type of a plain format code (R81). -/
def fmtNum (f : Nat) : Option NumTy :=
  if f < 8 then (IntTy.ofCode f).map .int
  else if f < 14 then (FltTy.ofCode (f - 8)).map .flt
  else none

/-- The SE member of a format code. -/
def fmtSe (f : Nat) : Option SeFmt :=
  match f with
  | 0x10 => some .se3
  | 0x11 => some .se5
  | 0x12 => some .se8
  | _ => none

/-- The format is one of the SE family. -/
def isSe (f : Nat) : Bool := (fmtSe f).isSome

/-- Not a reserved code (R81). -/
def fmtLegal (f : Nat) : Bool :=
  (fmtNum f).isSome || isSe f || (decide (0x18 ≤ f) && decide (f ≤ 0x1B)) || f == 0x1F

/-- The copy unit's bytes of element plane (R81). -/
def fmtUnit (f : Nat) : Nat :=
  match fmtNum f with
  | some t => numSize t
  | none => ((fmtSe f).map sePlane).getD 1

/-- The alignment of an element plane's base (R82). -/
def fmtAlign (f : Nat) : Nat := if isSe f then 4 else fmtUnit f

/-! ## Layout and checks (R80, R82) -/

/-- A bit range of a record word. -/
def rw (ws : List Word) (i lo n : Nat) : Nat := bits (ws.getD i 0).toNat lo n

/-- The fields of a record (R80). -/
def recOf (ws : List Word) : TRec :=
  { pad := BitVec.ofNat 32 (rw ws 0 32 32), rdo := rw ws 0 18 1 == 1, ent := rw ws 0 17 1 == 1, sp := rw ws 0 16 1 == 1
    rank := rw ws 0 8 3, fmt := rw ws 0 0 8, base := rw ws 1 0 56, sbase := rw ws 2 0 56, ctab := rw ws 3 0 56
    dims := [rw ws 4 0 24, rw ws 4 24 24, rw ws 4 48 16 + 2 ^ 16 * rw ws 5 0 8, rw ws 5 8 24, rw ws 5 32 24]
    strs := [rw ws 6 0 32, rw ws 6 32 32, rw ws 7 0 32, rw ws 7 32 32] }

/-- Some reserved field of a record is nonzero (R80). -/
def recReserved (ws : List Word) : Bool :=
  rw ws 0 19 13 != 0 || rw ws 0 11 5 != 0 || rw ws 1 56 8 != 0 || rw ws 2 56 8 != 0 || rw ws 3 56 8 != 0 ||
    rw ws 5 56 8 != 0

/-- The extent of dimension k. -/
def TRec.dim (r : TRec) (k : Nat) : Nat := r.dims.getD k 0

/-- The stride of dimension k, from 1 (R83). -/
def TRec.str (r : TRec) (k : Nat) : Nat := if k = 0 then 0 else r.strs.getD (k - 1) 0

/-- The record is malformed for a crew with `alloc` bytes of scratchpad (R82). -/
def recMalformed (ws : List Word) (alloc : Nat) : Bool :=
  let r := recOf ws
  recReserved ws || !fmtLegal r.fmt || r.rank == 0 || decide (5 < r.rank) ||
    ((List.range 5).any fun k => decide (r.rank ≤ k) && (r.dim k != 0 || r.str k != 0)) ||
    (!isSe r.fmt && r.sbase != 0) || (!r.ent && r.ctab != 0) ||
    r.base % fmtAlign r.fmt != 0 || r.sbase % 2 != 0 ||
    (!isSe r.fmt && (List.range 5).any fun k => r.str k % fmtUnit r.fmt != 0) ||
    (isSe r.fmt && (r.dim 0 % 32 != 0 || r.pad != 0)) ||
    (r.sp && (decide (alloc ≤ r.base) || decide (alloc ≤ r.sbase)))

/-! ## Element addresses and padding (R83, R84) -/

/-- Coordinate k of a vector. -/
def coord (c : List Int) (k : Nat) : Int := c.getD k 0

/-- In bounds (R84). -/
def TRec.inBounds (r : TRec) (c : List Int) : Bool :=
  (List.range r.rank).all fun k => decide (0 ≤ coord c k) && decide (coord c k < (r.dim k : Int))

/-- Σ ik × STRk over k from 1 of coordinates in bounds. -/
def TRec.strides (r : TRec) (c : List Int) : Nat :=
  ((List.range r.rank).map fun k => (coord c k).toNat * r.str k).foldl (· + ·) 0

/-- The SE block of coordinates in bounds (R83). -/
def TRec.blk (r : TRec) (c : List Int) : Nat := (coord c 0).toNat / 32 + r.strides c

/-- The address of the element, or of its block in the element plane (R83). -/
def TRec.elemAddr (r : TRec) (c : List Int) : Nat :=
  if isSe r.fmt then r.base + r.blk c * fmtUnit r.fmt else r.base + (coord c 0).toNat * fmtUnit r.fmt + r.strides c

/-- The address of a block's scale (R83). -/
def TRec.scaleAddr (r : TRec) (c : List Int) : Nat := r.sbase + r.blk c * 2

/-- PAD in the record's format (R84). -/
def TRec.padVal (r : TRec) : Nat :=
  match fmtNum r.fmt with
  | some (.int .s64) => wrap 64 (sext 32 r.pad.toNat)
  | some (.flt .d) => (roundTo (fmtOf .d) .rne false false (f32Val r.pad.toNat)).1
  | some t => r.pad.toNat % 2 ^ numBits t
  | none => if isSe r.fmt then 0 else r.pad.toNat % 256

/-- The in-bounds part of a box: for each dimension below RANK the interval [lo, hi) of coordinates; none if it is
empty. -/
def TRec.clip (r : TRec) (c : List Int) (ext : List Nat) : Option (List (Nat × Nat)) :=
  let l := (List.range r.rank).map fun k =>
    let lo := max (coord c k) 0
    let hi := min (coord c k + ext.getD k 0) (r.dim k)
    (lo.toNat, hi.toNat)
  if l.all fun p => decide (p.1 < p.2) then some l else none

/-- The bounding intervals of the planes of a clipped box: the element plane's and, for an SE format, the scale
plane's. -/
def TRec.spans (r : TRec) (l : List (Nat × Nat)) : List (Nat × Nat) :=
  let lo := l.map fun p => (p.1 : Int)
  let hi := l.map fun p => (p.2 : Int) - 1
  let e := (r.elemAddr lo, r.elemAddr hi + fmtUnit r.fmt)
  if isSe r.fmt then [e, (r.scaleAddr lo, r.scaleAddr hi + 2)] else [e]

/-- The smallest interval that holds some intervals. -/
def hull (l : List (Nat × Nat)) : Option (Nat × Nat) :=
  match l with
  | [] => none
  | p :: l => some (l.foldl (fun a b => (min a.1 b.1, max a.2 b.2)) p)

/-- Adds to the context's overflow counter, which saturates (R84). -/
def addOvf (s : State) (ctx n : Nat) : State := modCtx s ctx fun c => { c with ovf := satAdd 64 c.ovf n }

/-! ## The record cache (R85) -/

/-- A record's virtual address (R79). -/
def recVa (s : State) (ctx h : Nat) : Nat := (ctxAt s ctx).recBase + 64 * h

/-- The 8-byte words of bytes. -/
def wordsOf (bs : List Byte) : List Word :=
  (List.range (bs.length / 8)).map fun i => BitVec.ofNat 64 (leNat ((bs.drop (8 * i)).take 8))

/-- The cached copy of a record. -/
def cachedRec (s : State) (core ctx h : Nat) : Option CachedRec :=
  firstOf (fun r => r.core == core && r.ctx == ctx && r.handle == h) s.recs

/-- Keeps a core's 64 most recently used records. -/
def trimRecs (core : Nat) (n : Nat) (l : List CachedRec) : List CachedRec :=
  match l with
  | [] => []
  | r :: l =>
    if r.core ≠ core then r :: trimRecs core n l
    else match n with
      | 0 => trimRecs core 0 l
      | n + 1 => r :: trimRecs core n l

/-- Puts a record first in its core's cache, as a use or a fetch does (R85). -/
def touchRec (s : State) (r : CachedRec) : State :=
  let rest := s.recs.filter fun x => x.core != r.core || x.ctx != r.ctx || x.handle != r.handle
  { s with recs := trimRecs r.core 64 (r :: rest) }

/-- The cause that a fetch of a record would raise, R184 step 4. -/
def fetchFault (s : State) (core ctx h : Nat) : Option Nat :=
  match translate s core ctx (recVa s ctx h) 64 .read with
  | .bad c => some c
  | .ok pa _ => if (dieRead s (dieOfCore core) pa 64).2 then some cPOISON else none

/-- The fetch of a record, or its walk, must wait (R53, R66, R364). -/
def recordWaits (s : State) (core ctx h : Nat) : Bool :=
  transWaits s core ctx (recVa s ctx h) ||
    ((translate s core ctx (recVa s ctx h) 64 .read).pa?.map fun pa => dieWaits s (dieOfCore core) pa 64).getD false

/-- A fetch is under way. -/
def fetching (s : State) (core ctx h : Nat) : Bool := s.fetches.contains (core, ctx, h)

/-- Starts a fetch. -/
def startFetch (s : State) (core ctx h : Nat) : State :=
  if fetching s core ctx h then s else { s with fetches := s.fetches ++ [(core, ctx, h)] }

/-- What naming a record comes to at issue: its words, the trap of a fetch that faults, or a fetch that is under
way. -/
inductive RecRes where
  | ok (s : State) (ws : List Word)
  | trap (t : TrapReq)
  | wait (s : State)

/-- Names a record at issue (R82, R85): a cached copy is used; a miss starts its fetch. -/
def needRec (s : State) (w : Warp) (h : Nat) : RecRes :=
  match cachedRec s w.core w.ctx h with
  | some r => .ok (touchRec s r) r.words
  | none =>
    if recordWaits s w.core w.ctx h then .wait (startFetch s w.core w.ctx h)
    else match fetchFault s w.core w.ctx h with
    | some c => .trap { w.trap c with addr := BitVec.ofNat 64 (recVa s w.ctx h) }
    | none => .wait (startFetch s w.core w.ctx h)

/-- A read of one line by an agent of a core's die, served at the home and never from a die replica (R186); none while
it must wait. Only a copy's data may take the ring (R17). -/
def homeLoad (s : State) (ctx core pa n : Nat) (thru copy : Bool) : Option (State × Nat × Bool) :=
  if (paKind pa).homed then dieLoad s ctx (dieOfCore core) pa n thru false copy
  else if !portFree s pa then none
  else
    let r := dieRead s (dieOfCore core) pa n
    some (chargeOut s ctx pa n, leNat r.1, r.2)

/-- RECORD_FETCH (R85): a record fetched on a miss arrives, read with acquire order at package scope, and takes the
place of the least recently used entry; a fetch that faults is dropped. -/
def execRecordFetch (core ctx handle : Nat) (s : State) : Res :=
  if !fetching s core ctx handle then .next s
  else
    let s' := { s with fetches := s.fetches.filter fun f => f != (core, ctx, handle) }
    if transWaits s core ctx (recVa s ctx handle) then .next s
    else match translate s core ctx (recVa s ctx handle) 64 .read with
    | .bad _ => .next s'
    | .ok pa pte =>
      match homeLoad s' ctx core pa 64 (pteMt pte != 0) false with
      | none => .next s
      | some (s', v, p) =>
        if p then .next s'
        else .next (touchRec s' { core := core, ctx := ctx, handle := handle, words := wordsOf (leBytes 64 v) })

/-! ## RECLD, RECINV and RECQ (R187 to R190) -/

/-- The allocation of a warp's crew in bytes. -/
def allocOf (s : State) (w : Warp) : Nat := ((crewAt s w.crewK).map Crew.bytes).getD 0

/-- RECLD (R188). -/
def execRecld (c : Fin 4) (s : State) : Res :=
  .next (issue (.recld c)
    { size := 4, weight := 16, octet := some (octBase c), words := 1
      check := fun _ w => trapIf (octWord w c 0 / 2 ^ 12 != 0) (w.trap cILLEGAL_OPERAND) }
    (fun s w =>
      if w.exec = 0 then .done s
      else
        let h := octWord w c 0
        match cachedRec s w.core w.ctx h with
        | some r => .done (touchRec s r)
        | none => .done (startFetch s w.core w.ctx h)) s)

/-- Removes entries of a context from a core's record cache (R189). -/
def dropRecs (s : State) (core ctx : Nat) (p : Nat → Bool) : State :=
  { s with recs := s.recs.filter fun r => r.core != core || r.ctx != ctx || !p r.handle
           fetches := s.fetches.filter fun f => f.1 != core || f.2.1 != ctx || !p f.2.2 }

/-- RECINV (R189). -/
def execRecinv (c : Fin 4) (s : State) : Res :=
  .next (issue (.recinv c)
    { size := 4, weight := 16, octet := some (octBase c), words := 1
      check := fun _ w => trapIf (octWord w c 0 / 2 ^ 13 != 0) (w.trap cILLEGAL_OPERAND) }
    (fun s w =>
      if w.exec = 0 then .done s
      else
        let x := octWord w c 0
        .done (dropRecs s w.core w.ctx fun h => bit x 12 || h == x % 2 ^ 12)) s)

/-- RECQ's field rules (R187, R190). -/
def recqBad (x : Nat) : Bool :=
  match x % 16 with
  | 0 => x / 16 != 0
  | 1 => x / 16 != 0
  | 2 => x / 2 ^ 16 != 0
  | _ => true

/-- RECQ's effect (R190). -/
def recqEff (d : Dst) (c : Fin 4) (s : State) (w : Warp) : Eff :=
  if w.exec = 0 then .done s
  else
    let x := octWord w c 0
    let give := fun (s' : State) (v : Nat) =>
      Eff.done (setWarp s' s.cur (w.addSlot .relaxed .warp (w.slotDst d 1) (.value (List.replicate 32 v) 0)))
    match x % 16 with
    | 0 => give s (ctxAt s w.ctx).ovf
    | 1 => give (modCtx s w.ctx fun y => { y with ovf := 0 }) (ctxAt s w.ctx).ovf
    | _ =>
      match needRec s w (x / 16) with
      | .trap t => .trap t
      | .wait s' => .hold s'
      | .ok s' ws => give s' (if recMalformed ws (allocOf s w) then 1 else 0)

/-- The fetch fault of the record that a RECQ names, and whether it is still being fetched (R155, R184). -/
def recqFetch (s : State) (w : Warp) (x : Nat) : RecRes :=
  if x % 16 = 2 then needRec s w (x / 16) else .ok s []

def execRecq (d : Dst) (c : Fin 4) (s : State) : Res :=
  .next (issue (.recq d c)
    { size := 4, long := true, weight := 16, octet := some (octBase c), words := 1, uses := [dst d .w1]
      check := fun s w =>
        if recqBad (octWord w c 0) then some (w.trap cILLEGAL_OPERAND)
        else match recqFetch s w (octWord w c 0) with
          | .trap t => some t
          | _ => none
      waits := fun s w => !recqBad (octWord w c 0) && (match recqFetch s w (octWord w c 0) with
        | .wait _ => true
        | _ => false) }
    (recqEff d c) s)

end Sys2Proof.Machine
end

