-- ==== Sys2Proof/Machine/Engine.lean ====
section
/-! DEFINITION. What the copy, matrix and lookup engines share: acceptance of a command with its scoreboard entries and
sequence number, the order in which commands run, their memory-side accesses and scratchpad writes, faults, and
retirement (R86, R94 to R97, R186, R239, R240, R277, R278, R370, R388, R399, R400). -/

namespace Sys2Proof.Machine

open Sys2Proof

/-! ## Acceptance -/

/-- A command that has passed its checks: engine code, body, scoreboard entries, memory-side footprint and weight. -/
structure Ask where
  eng : Nat
  body : CmdBody
  entries : List SbEntry
  fp : Option (Nat × Nat × Bool)
  weight : Nat

/-- What the checks of a command come to: a trap, a table to wait for, a record's fetch to wait for, or the command, with
the matrix command chained to it. -/
inductive Checked where
  | trap (t : TrapReq)
  | stall (s : State)
  | wait (s : State)
  | ok (s : State) (a : Ask) (chain : Option Ask)

/-- Every earlier scratchpad access of a warp has been performed (R87, R370). -/
def scratchQuiet (w : Warp) : Bool :=
  w.slots.all fun sl => sl.accs.all fun a => a.done || (match a.loc with
    | .scratch _ _ _ => false
    | _ => true)

/-- A scratchpad-writing command overlaps an unretired command of another stream (R399). -/
def detStreams (s : State) (core stream : Nat) (entries : List SbEntry) : Bool :=
  entries.any (·.wr) && (coreCmds s core).any fun p => p.stream != stream && sbOrdered entries p.entries

/-- A copy's memory-side footprint overlaps that of an unretired copy of another queue of the context (R400). -/
def detMemory (s : State) (core ctx eng : Nat) (fp : Option (Nat × Nat × Bool)) : Bool :=
  match fp with
  | none => false
  | some (lo, hi, wr) =>
    (List.range 4).any fun q => q != eng && (queueAt s (queueKey core q)).any fun p =>
      p.ctx == ctx && (match p.fp with
        | none => false
        | some (lo', hi', wr') => decide (lo < hi') && decide (lo' < hi) && (wr || wr'))

/-- The check of R399 and R400 in deterministic mode. A matrix command chained to a copy writes no scratchpad, so it adds
nothing to the check. -/
def detOverlap (s : State) (w : Warp) (a : Ask) : Bool :=
  (ctxAt s w.ctx).det &&
    (detStreams s w.core a.eng a.entries ||
      (decide (a.eng < 4) && detMemory s w.core w.ctx a.eng a.fp))

/-- There is a place in a queue or sequence (R86, R239). -/
def hasPlace (s : State) (core eng : Nat) : Bool := decide ((queueAt s (queueKey core eng)).length < 16)

/-- A command may be accepted now: a place, scoreboard entries, the warp's earlier scratchpad accesses, and no earlier
acquire or release fence of the warp that still holds it (R184, R242, R275, R359, R370). -/
def hasRoom (s : State) (w : Warp) (a : Ask) (chain : Option Ask) : Bool :=
  hasPlace s w.core a.eng && (chain.isNone || hasPlace s w.core 4) &&
    decide (sbUsed s w.core + a.entries.length + ((chain.map (·.entries.length)).getD 0) ≤ 64) &&
    scratchQuiet w && !heldBack w w.nextSlot false

/-- Accepts a command: it takes the next sequence number of its timeline, and a place (R86, R239); one accepted while P
is set is discarded (R278). -/
def acceptCmd (s : State) (w : Warp) (a : Ask) (stream : Nat) (waitChain : Bool) (chain : Option Nat)
    (dead : Bool) : State :=
  let k := tlKey w.core w.ctx a.eng
  let t := timelineAt s k
  let c : Cmd :=
    { seq := t.next, ctx := w.ctx, crew := w.crewK, warp := w.key, body := a.body, entries := a.entries
      accNo := s.serial, discard := dead || t.p != 0, fault := none, waitChain := waitChain, chain := chain
      fp := a.fp, stream := stream, phase := 0, shadow := w.inShadow }
  let q := queueKey w.core a.eng
  charge (setQueue (setTimeline { s with serial := s.serial + 1 } k { t with next := t.next + 1 }) q
    (queueAt s q ++ [c])) w.core w.ctx a.weight

/-- Sets P of a timeline to a sequence number if it is 0, and discards every later command of the sequence (R278). -/
def poisonSeq (s : State) (core ctx eng n : Nat) : State :=
  let k := tlKey core ctx eng
  let t := timelineAt s k
  let q := queueKey core eng
  setQueue (setTimeline s k { t with p := if t.p = 0 then n else t.p }) q
    ((queueAt s q).map fun c => if c.ctx = ctx ∧ n ≤ c.seq then { c with discard := true } else c)

/-- Sets P of a timeline (R278); the matrix commands chained to the copies so discarded are discarded with their numbers
poisoned (R94). -/
def setFaultMark (s : State) (core ctx eng n : Nat) : State :=
  let s := poisonSeq s core ctx eng n
  if 4 ≤ eng then s
  else (queueAt s (queueKey core eng)).foldl (fun s c =>
    if c.ctx = ctx ∧ c.discard then
      match c.chain with
      | none => s
      | some m => poisonSeq s core ctx 4 m
    else s) s

/-- Accepts a command and the matrix command chained to it (R94). A chained command of a discarded copy is
discarded. -/
def acceptPair (s : State) (w : Warp) (a : Ask) (chain : Option Ask) : State :=
  match chain with
  | none => acceptCmd s w a a.eng false none false
  | some m =>
    let n := (timelineAt s (tlKey w.core w.ctx 4)).next
    let dead := (timelineAt s (tlKey w.core w.ctx a.eng)).p != 0
    let s := acceptCmd (acceptCmd s w a a.eng false (some n) false) w m a.eng true none dead
    if dead then poisonSeq s w.core w.ctx 4 n else s

/-! ## Records of a sampled execution (R405) -/

/-- The model's key of a command's write record. -/
def cmdKey (core eng seq : Nat) : Nat := 2 * (queueKey core eng * 2 ^ 32 + seq) + 1

/-- The records of a command issued in a sampled execution: those of a copy store, filled in when it runs, and of its
completion word. -/
def Warp.recordCmd (w : Warp) (key : Nat) (store : Bool) (cw : Option (Nat × Word)) : Warp :=
  match w.sample with
  | none => w
  | some p =>
    let r1 := if store then [({ key := key, va := 0, len := 0, data := [], done := false } : SampleRec)] else []
    let r2 := match cw with
      | none => []
      | some (a, v) => [({ key := key + 2 ^ 80, va := a, len := 8, data := leBytes 8 v.toNat, done := true } : SampleRec)]
    { w with sample := some { p with recs := p.recs ++ r1 ++ r2 } }

/-- Fills in the record of a copy store: its memory-side bytes in ascending address. -/
def Warp.fillCmd (w : Warp) (key va : Nat) (data : List Byte) : Warp :=
  match w.sample with
  | none => w
  | some p =>
    { w with sample := some { p with recs := p.recs.map fun r =>
        if r.key = key then { r with va := va, len := data.length, data := data, done := true } else r } }

/-- Removes the records of a command that is discarded. -/
def Warp.dropCmd (w : Warp) (key : Nat) : Warp :=
  match w.sample with
  | none => w
  | some p => { w with sample := some { p with recs := p.recs.filter fun r => r.key != key && r.key != key + 2 ^ 80 } }

/-! ## The issue of a command (R159, R184, R242) -/

/-- The copy store and the completion word of a command body, for the records of a sampled execution. -/
def CmdBody.writesMem (b : CmdBody) : Bool :=
  match b with
  | .copy c => c.st
  | _ => false

/-- The completion word of a command (R95). -/
def CmdBody.word (b : CmdBody) : Option (Nat × Word) :=
  match b with
  | .copy c => c.cw
  | _ => none

/-- The effect of an engine command at issue: its checks in order, DET_OVERLAP, the waits for room, and acceptance.
`after` is what acceptance does beside, given the sequence number. -/
def cmdEff (plan : State → Warp → Checked) (after : Nat → State → Warp → State) (s : State) (w : Warp) : Eff :=
  if w.exec = 0 then .done s
  else match plan s w with
    | .trap t => .trap t
    | .stall s' => .hold s'
    | .wait s' => .hold s'
    | .ok s' a chain =>
      if detOverlap s' w a then .trap (w.trap cDET_OVERLAP)
      else if !hasRoom s' w a chain then .hold s'
      else
        let n := (timelineAt s' (tlKey w.core w.ctx a.eng)).next
        let store := match a.body with
          | .copy c => c.st && a.fp.isSome
          | _ => false
        let s'' := acceptPair s' w a chain
        .done (after n (modWarp s'' s.cur fun w => w.recordCmd (cmdKey w.core a.eng n) store a.body.word) w)

/-- The trap of a plan that belongs to order 4 of R155, as R184 and R242 order it: every one but the table's, which come
after the waits of R257. -/
def Checked.early (r : Checked) : Option TrapReq :=
  match r with
  | .trap t => if t.cause = cTBL_STALE ∨ t.cause = cTBL_RANGE then none else some t
  | _ => none

/-- A plan waits for a record. -/
def Checked.fetches (r : Checked) : Bool :=
  match r with
  | .wait _ => true
  | _ => false

/-- The issue of an engine command: the octet, and for an L-class command the destination; `bad` are the checks of the
octet's words, which need no record, and `plan` those that follow. -/
def cmdIssue (i : Instr) (c : Fin 4) (words : Nat) (long : Bool) (uses : List Use) (bad : State → Warp → Bool)
    (plan : State → Warp → Checked) (after : Nat → State → Warp → State) (s : State) : State :=
  issue i
    { size := 4, long := long, weight := 0, octet := some (octBase c), words := words, uses := uses
      check := fun s w => if bad s w then some (w.trap cILLEGAL_OPERAND) else (plan s w).early
      waits := fun s w => !bad s w && (plan s w).fetches } (cmdEff plan after) s

/-- Nothing beside acceptance. -/
def noAfter (_ : Nat) (s : State) (_ : Warp) : State := s

/-! ## When a command may run (R97, R186, R240) -/

/-- The accumulator sets that a command reads and writes (R240). -/
def CmdBody.accUse (b : CmdBody) : List Nat × List Nat :=
  match b with
  | .mma fresh _ _ _ _ _ _ a _ _ _ => (if fresh then [] else [a], [a])
  | .accz a => ([], [a])
  | .accrd _ _ a _ _ _ _ _ => ([a], [])
  | .accwr _ _ a _ _ _ _ => ([], [a])
  | .tlook _ _ a _ _ _ _ _ _ _ => ([a], [a])
  | .tfin _ _ a b _ _ _ _ _ => ([a, b], [a, b])
  | _ => ([], [])

/-- Two commands of one crew touch one accumulator set, and one of them writes it (R240). -/
def accOrdered (o p : Cmd) : Bool :=
  let x := o.body.accUse
  let y := p.body.accUse
  o.crew == p.crew && (x.2.any (fun a => y.1.contains a || y.2.contains a) || x.1.any fun a => y.2.contains a)

/-- P is the copy that O is chained to (R94). -/
def chainedTo (o p : Cmd) : Bool := o.ctx == p.ctx && p.chain == some o.seq && o.stream != 4

/-- The head of a queue or sequence may make its accesses. -/
def mayStart (s : State) (core : Nat) (c : Cmd) : Bool :=
  !c.waitChain && c.fault.isNone && (coreCmds s core).all fun p =>
    decide (c.accNo ≤ p.accNo) || (!(sbOrdered c.entries p.entries && !chainedTo c p) && !accOrdered c p)

/-! ## Memory-side accesses (R186, R364, R370) -/

/-- A piece of data: its bytes, and whether it is poisoned. -/
abbrev Piece := List Byte × Bool

/-- What an engine's access comes to. -/
inductive Got (α : Type) where
  | ok (s : State) (v : α)
  | fault (va cause : Nat)
  | wait

/-- The parts of [a, a + n) cut at multiples of 32: offset and length. -/
def cut32 (a n : Nat) : List (Nat × Nat) :=
  (List.range (n / 32 + 2)).filterMap fun i =>
    let lo := max a ((a / 32 + i) * 32)
    let hi := min (a + n) ((a / 32 + i) * 32 + 32)
    if lo < hi then some (lo - a, hi - lo) else none

/-- Runs an access over a list, in order, until one faults or must wait. -/
def Got.each {α β : Type} (f : State → α → Got β) (s : State) (l : List α) : Got (List β) :=
  match l with
  | [] => .ok s []
  | x :: l =>
    match f s x with
    | .wait => .wait
    | .fault a c => .fault a c
    | .ok s b =>
      match Got.each f s l with
      | .wait => .wait
      | .fault a c => .fault a c
      | .ok s bs => .ok s (b :: bs)

/-- Reads n bytes within one flit at a virtual address; `copy` for the data of a copy (R17). -/
def readFlit (core ctx va n : Nat) (copy : Bool) (s : State) : Got Piece :=
  if transWaits s core ctx va then .wait
  else match translate s core ctx va 1 .read with
  | .bad c => .fault va c
  | .ok pa pte =>
    match homeLoad s ctx core pa n (pteMt pte != 0) copy with
    | none => .wait
    | some (s, v, p) => .ok s (leBytes n v, p)

/-- Reads a range at a virtual address, flit by flit. -/
def readRange (core ctx va n : Nat) (copy : Bool) (s : State) : Got (List Piece) :=
  Got.each (fun s p => readFlit core ctx (va + p.1) p.2 copy s) s (cut32 va n)

/-- The sentinel by which a queue's writes are known in the store stage. -/
def cmdOwner (core eng : Nat) : Nat := 2 ^ 40 + queueKey core eng

/-- Writes bytes within one flit at a virtual address: into the die's store stage (R364), or to the remote home or the
host; `copy` for the data of a copy (R17). -/
def writeFlit (core ctx eng seq va : Nat) (copy : Bool) (d : Piece) (s : State) : Got Unit :=
  if transWaits s core ctx va then .wait
  else match translate s core ctx va 1 .write with
  | .bad c => .fault va c
  | .ok pa pte =>
    let n := d.1.length
    match paKind pa with
    | .fabric => if portFree s pa then .ok (chargeOut (fabricWrite s pa d.1 d.2) ctx pa n) () else .wait
    | .host => .ok (chargeOut (modMem s fun m => { m with hostMem := wrBytes m.hostMem pa d.1 }) ctx pa n) ()
    | .reserved => .fault va cABSENT
    | _ =>
      let die := dieOfCore core
      let s := stageWrite s ctx die pa n (leNat d.1) d.2 (BitVec.ofNat 2 (pteMt pte)) (cmdOwner core eng) seq
      .ok (chargeHome s ctx (some die) pa n (pteMt pte != 0) copy) ()

/-- Writes a range at a virtual address. -/
def writeRange (core ctx eng seq va : Nat) (copy : Bool) (d : List Byte) (pois : Bool) (s : State) : Got (List Unit) :=
  Got.each (fun s p => writeFlit core ctx eng seq (va + p.1) copy ((d.drop p.1).take p.2, pois) s) s (cut32 va d.length)

/-- Every write that a queue has staged up to a command has been performed at a scope (R277, R364, R366). -/
def cmdWritesDone (s : State) (core eng seq sc : Nat) : Bool :=
  decide (sc < 4) || !stagedBefore s (cmdOwner core eng) (seq + 1) sc

/-! ## Scratchpad accesses of an engine -/

/-- Reads a scratchpad range unit by unit. -/
def scrPieces (s : State) (core a n : Nat) : List Piece :=
  (cut32 a n).map fun p => (scrRead s core (a + p.1) p.2, scrPoison s core (a + p.1))

/-- Adds to the bytes written of each unit, one bit a byte, and to its poison. -/
def unitAcc (m : SMap (BitVec 32 × Bool)) (a n : Nat) (p : Bool) : SMap (BitVec 32 × Bool) :=
  (cut32 a n).foldl (fun m q =>
    let u := (a + q.1) / 32
    let x := look m u (0, false)
    put m u (x.1 ||| BitVec.ofNat 32 ((2 ^ q.2 - 1) * 2 ^ ((a + q.1) % 32)), x.2 || p)) m

/-- One operation's scratchpad writes: the bytes; a unit of which every byte is written loses its mark, and a unit that
receives any byte of a poisoned source takes it (R76, R93); each page written advances its generation once (R77). -/
def scrApply (s : State) (core : Nat) (ws : List (Nat × Piece)) : State :=
  let s := { s with scr := ws.foldl (fun m x => wrBytes m (scrKey core x.1) x.2.1) s.scr }
  let us := ws.foldl (fun m x => unitAcc m x.1 x.2.1.length x.2.2) []
  let s := us.foldl (fun s u =>
    let old := scrPoison s core (u.1 * 32)
    setScrPoison s core (u.1 * 32) (u.2.2 || (old && u.2.1 != BitVec.allOnes 32))) s
  bumpPages s core (dedup (us.map fun u => u.1 / 128))

/-! ## Retirement and faults (R86, R239, R277, R278, R388) -/

/-- The head of a queue or sequence. -/
def headCmd (s : State) (core eng : Nat) : Option Cmd := (queueAt s (queueKey core eng)).head?

/-- The command that an engine works on: none while its cluster is stopped (R406). -/
def workCmd (s : State) (core eng : Nat) : Option Cmd :=
  if clusterRuns s (clusterOfCore core) then headCmd s core eng else none

/-- Changes the head. -/
def modHead (s : State) (core eng : Nat) (f : Cmd → Cmd) : State :=
  match queueAt s (queueKey core eng) with
  | [] => s
  | c :: q => setQueue s (queueKey core eng) (f c :: q)

/-- The head retires: its entries are free, T becomes its number, and its flags go to the issuing warp (R86, R122,
R239). A region's reload leaves T (R266). -/
def retireCmd (s : State) (core eng : Nat) (fl : Flags) : State :=
  match queueAt s (queueKey core eng) with
  | [] => s
  | c :: q =>
    let k := tlKey core c.ctx eng
    let s := setTimeline (setQueue s (queueKey core eng) q) k
      { timelineAt s k with t := if c.reload then (timelineAt s k).t else c.seq }
    modWarp s c.warp fun w =>
      let w := { w with aflags := addFlags w.aflags fl }
      if c.discard then w.dropCmd (cmdKey core eng c.seq) else w

/-- The next thing the head of a queue or sequence does. -/
inductive Adv where
  | none
  | fault (va cause : Nat)
  | ok (s : State)

/-- The fault of a stalled head is recorded (R388): a KIND 2 record. -/
def stallHead (s : State) (core eng : Nat) (c : Cmd) (va cause : Nat) : State :=
  let s := modHead s core eng fun c => { c with fault := some { addr := va, cause := cause, recorded := true } }
  queueRecord s c.ctx
    { kind := 2, crew := c.crew % 2 ^ 16, vcore := ((crewAt s c.crew).map (·.vcore)).getD 0, warp := c.warp % 16
      eng := eng, cause := 0, addr := BitVec.ofNat 64 va, seq := c.seq, info := 0 }

end Sys2Proof.Machine
end

