-- ==== Sys2Proof/Machine/Matrix.lean ====
section
/-! DEFINITION. The matrix engine: the Firn weight buffer, MMA and MMAN, and the accumulator commands, with their checks
at issue and their effects (R237 to R255). -/

namespace Sys2Proof.Machine

open Sys2Proof

/-! ## Operands in the scratchpad (R241) -/

/-- A record whose planes lie at offsets in the crew's allocation. -/
def TRec.at (r : TRec) (off soff : Nat) : TRec := { r with base := off, sbase := soff }

/-- The offsets of a record's planes are misaligned (R241). -/
def TRec.offBad (r : TRec) : Bool :=
  r.base % fmtAlign r.fmt != 0 || (isSe r.fmt && r.sbase % 2 != 0)

/-- The in-bounds footprint of a box of a scratchpad operand. -/
def TRec.foot (r : TRec) (c : List Int) (ext : List Nat) : List (Nat × Nat) :=
  match r.clip c ext with
  | none => []
  | some l => r.spans l

/-- Some byte of a footprint lies beyond an allocation. -/
def footBad (alloc : Nat) (f : List (Nat × Nat)) : Bool := f.any fun p => decide (alloc < p.2)

/-- The crew of a warp. -/
def crewOf (s : State) (w : Warp) : Option Crew := crewAt s w.crewK

/-- The scoreboard entries of crew offsets, as core scratchpad addresses (R96). -/
def sbOf (c : Crew) (wr : Bool) (f : List (Nat × Nat)) : List SbEntry :=
  f.map fun p => { lo := c.addr p.1, hi := c.addr p.2, wr := wr }

/-- ILLEGAL_OPERAND, or what follows. -/
def orIllegal (w : Warp) (bad : Bool) (k : Checked) : Checked := if bad then .trap (w.trap cILLEGAL_OPERAND) else k

/-- Steps 4 and 5 of R242 for one record: fetched and well formed. -/
def withRec (s : State) (w : Warp) (h : Nat) (f : State → TRec → Crew → Checked) : Checked :=
  match needRec s w h with
  | .trap t => .trap t
  | .wait s' => .wait s'
  | .ok s' ws =>
    match crewOf s' w with
    | none => .stall s'
    | some c => orIllegal w (recMalformed ws c.bytes || (recOf ws).ent) (f s' (recOf ws) c)

/-! ## Formats of the multiplier (R244, R249) -/

/-- The formats of an A or B operand. -/
def mulFmt (f : Nat) : Bool := (decide (8 ≤ f) && decide (f ≤ 12) && f != 10) || isSe f

/-- The wide class: h, bf and SE8 (R249). -/
def wideFmt (f : Nat) : Bool := f == 8 || f == 9 || f == 0x12

/-- The bytes of one column of a group (R244). -/
def sliceLen (f : Nat) : Nat :=
  match fmtSe f with
  | some m => 4 + 2 * seWidth m
  | none => 16 * fmtUnit f

/-- gb (R244). -/
def groupLen (f : Nat) : Nat := 192 * sliceLen f

/-- The units of a region (R244). -/
def regionUnits (f ng : Nat) : Nat := (ng * groupLen f + 1023) / 1024

/-- Where the bytes of 16 consecutive k of a row or column come from: address (none for PAD), length, and the place in the
slice (R244, R250). -/
def groupSrc (r : TRec) (k0 row : Int) : List (Option Nat × Nat × Nat) :=
  match fmtSe r.fmt with
  | some m =>
    let h := (k0 / 16 % 2).toNat
    let n := 2 * seWidth m
    let at_ := fun (f : Nat) => if r.inBounds [k0, row] then some f else none
    let b := r.elemAddr [k0, row]
    [(at_ (b + 2 * h), 2, 0), (at_ (b + 4 + n * h), n, 2), (at_ (r.scaleAddr [k0, row]), 2, 2 + n)]
  | none =>
    let z := fmtUnit r.fmt
    (List.range 16).map fun (m : Nat) =>
      let c := [k0 + (m : Int), row]
      (if r.inBounds c then some (r.elemAddr c) else none, z, m * z)

/-- The value and NaN-block mark of element m of a slice; `h` is the half of the SE block (R244). -/
def sliceVal (f : Nat) (img h m : Nat) : FVal × Bool :=
  match fmtSe f with
  | some se =>
    let n := seWidth se
    let sc := img / 2 ^ (16 + 16 * n)
    let e := sc % 256
    (seVal se (bit img m) (bits img (16 + n * m) n) e (bits sc (8 + 2 * h + m / 8) 1), e == 0xFF)
  | none =>
    match fmtNum f with
    | some (.flt t) => (unpack (fmtOf t) false (bits img (m * fltBits t) (fltBits t)), false)
    | _ => (.fin false 0 0, false)

/-! ## MMA and MMAN: checks (R248, R249) -/

/-- The field limits of the block (R248). -/
def mmaWordsBad (x0 x1 : Nat) : Bool :=
  let ncol := bits x1 56 8
  let nrow := bits x1 48 8
  let k := bits x1 32 13
  bits x0 57 7 != 0 || bits x0 43 5 != 0 || bits x0 12 4 != 0 || bits x1 45 3 != 0 || bits x1 22 10 != 0 ||
    ncol == 0 || decide (192 < ncol) || nrow == 0 || decide (128 < nrow) || k == 0 || k % 16 != 0

/-- A region of a crew. -/
def firnAt (c : Crew) (n : Nat) : Firn := look c.firn n Firn.invalid

/-- Steps 4 to 6 for MMA and MMAN. -/
def mmaPlan (fresh : Bool) (x0 x1 : Nat) (s : State) (w : Warp) : Checked :=
  withRec s w (bits x0 0 12) fun s r c =>
    let k := bits x1 32 13
    let nrow := bits x1 48 8
    let aoff := bits x0 16 22
    let asoff := bits x1 0 22
    let a := r.at aoff asoff
    let f := a.foot [0, 0] [k, nrow]
    let g := firnAt c (bits x0 40 3)
    let acc := bits x0 38 2
    let gb := bits x0 48 9
    orIllegal w
      (!r.sp || r.rank != 2 || !mulFmt r.fmt || (!isSe r.fmt && asoff != 0) || a.offBad || footBad c.bytes f ||
        decide (c.nAcc ≤ acc) || g.st == .invalid || decide (g.ng < gb + k / 16) ||
        wideFmt r.fmt != wideFmt g.fmt)
      (.ok s
        { eng := 4
          body := .mma fresh r aoff asoff gb (bits x0 40 3) g.fmt acc (bits x1 56 8) nrow k
          entries := sbOf c false f, fp := none
          weight := (if wideFmt r.fmt then 96000 else 48000) * (k / 16) } none)

/-- The issue of MMA or MMAN. -/
def mmaIssue (i : Instr) (fresh : Bool) (c : Fin 4) (s : State) : State :=
  cmdIssue i c 2 false [] (fun _ w => mmaWordsBad (octWord w c 0) (octWord w c 1))
    (fun s w => mmaPlan fresh (octWord w c 0) (octWord w c 1) s w) noAfter s

def execMma (c : Fin 4) (s : State) : Res := .next (mmaIssue (.mma c) false c s)
def execMman (c : Fin 4) (s : State) : Res := .next (mmaIssue (.mman c) true c s)

/-! ## ACCZ, ACCRD and ACCWR: checks (R253, R254) -/

def execAccz (c : Fin 4) (s : State) : Res :=
  .next (cmdIssue (.accz c) c 1 false [] (fun _ w => octWord w c 0 / 4 != 0)
    (fun s w =>
      match crewOf s w with
      | none => .stall s
      | some y =>
        let a := octWord w c 0
        orIllegal w (decide (y.nAcc ≤ a))
          (.ok s { eng := 4, body := .accz a, entries := [], fp := none, weight := 2000 } none)) noAfter s)

/-- The field limits of the block of R254. -/
def accWordsBad (x0 x1 : Nat) : Bool :=
  let ncol := bits x1 8 8
  let nrow := bits x1 0 8
  bits x0 55 9 != 0 || bits x0 12 4 != 0 || bits x1 16 48 != 0 || ncol == 0 || nrow == 0 ||
    decide (192 < bits x0 47 8 + ncol) || decide (128 < bits x0 40 7 + nrow)

/-- The formats of ACCRD and ACCWR (R254). -/
def accFmt (f : Nat) : Bool := decide (8 ≤ f) && decide (f ≤ 12)

/-- Steps 4 to 6 for ACCRD (`wr`) and ACCWR. -/
def accPlan (wr sat : Bool) (x0 x1 : Nat) (s : State) (w : Warp) : Checked :=
  withRec s w (bits x0 0 12) fun s r c =>
    let ncol := bits x1 8 8
    let nrow := bits x1 0 8
    let off := bits x0 16 22
    let a := r.at off 0
    let f := a.foot [0, 0] [ncol, nrow]
    let acc := bits x0 38 2
    orIllegal w
      (!r.sp || r.rank != 2 || !accFmt r.fmt || (wr && r.rdo) || a.offBad || footBad c.bytes f || decide (c.nAcc ≤ acc))
      (.ok s
        { eng := 4
          body := if wr then .accrd r off acc (bits x0 40 7) (bits x0 47 8) nrow ncol sat
            else .accwr r off acc (bits x0 40 7) (bits x0 47 8) nrow ncol
          entries := sbOf c wr f, fp := none, weight := 400 } none)

/-- ACCRD's slot returns when its command retires (R254). -/
def accrdSlot (d : Dst) (n : Nat) (s : State) (w : Warp) : State :=
  modWarp s w.key fun w => w.addSlot .relaxed .warp (w.slotDst d 1) (.accrd n)

def execAccrd (d : Dst) (c : Fin 4) (sat : Bool) (s : State) : Res :=
  .next (cmdIssue (.accrd d c sat) c 2 true [dst d .w1] (fun _ w => accWordsBad (octWord w c 0) (octWord w c 1))
    (fun s w => accPlan true sat (octWord w c 0) (octWord w c 1) s w) (accrdSlot d) s)

def execAccwr (c : Fin 4) (s : State) : Res :=
  .next (cmdIssue (.accwr c) c 2 false [] (fun _ w => accWordsBad (octWord w c 0) (octWord w c 1))
    (fun s w => accPlan false false (octWord w c 0) (octWord w c 1) s w) noAfter s)

/-! ## WBLD and WBQ (R245 to R247) -/

/-- The field limits of WBLD's block (R245). -/
def wbldWordsBad (x0 x1 : Nat) : Bool :=
  bits x0 42 22 != 0 || bits x0 19 5 != 0 || bits x0 12 4 != 0 || bits x0 33 9 == 0 || bits x1 0 32 % 16 != 0

/-- Steps 4 to 6 for WBLD. -/
def wbldPlan (x0 x1 : Nat) (s : State) (w : Warp) : Checked :=
  withRec s w (bits x0 0 12) fun s r c =>
    let ng := bits x0 33 9
    let c0 := sext 32 (bits x1 0 32)
    let c1 := sext 32 (bits x1 32 32)
    let f := if r.sp then r.foot [c0, c1] [16 * ng, 192] else []
    orIllegal w
      (r.rank != 2 || !mulFmt r.fmt || footBad c.bytes f ||
        decide (c.nFirn < bits x0 24 9 + regionUnits r.fmt ng))
      (.ok s
        { eng := 4, body := .wbld r (bits x0 16 3) ng c0 c1, entries := sbOf c false f, fp := none
          weight := 200 + ng * groupLen r.fmt / 64 } none)

/-- Two regions share a unit. -/
def unitsMeet (a b : Firn) : Bool :=
  decide (a.funit < b.funit + regionUnits b.fmt b.ng) && decide (b.funit < a.funit + regionUnits a.fmt a.ng)

/-- At acceptance WBLD sets its region to loading, records its fields, and makes invalid the regions whose units it
overlaps (R246). A command discarded at acceptance has no effect (R278). -/
def wbldAccept (x0 : Nat) (_ : Nat) (s : State) (w : Warp) : State :=
  match (queueAt s (queueKey w.core 4)).getLast? with
  | none => s
  | some y =>
    match y.body with
    | .wbld r fr ng c0 c1 =>
      if y.discard then s
      else modCrew s w.crewK fun c =>
        let new := { firnAt c fr with
          st := .loading, handle := bits x0 0 12, fmt := r.fmt, c0 := c0, c1 := c1, funit := bits x0 24 9, ng := ng
          src := some r }
        let others := c.firn.map fun e =>
          if e.1 != fr && e.2.st != .invalid && unitsMeet e.2 new then (e.1, { e.2 with st := .invalid }) else e
        { c with firn := put others fr new }
    | _ => s

def execWbld (c : Fin 4) (s : State) : Res :=
  .next (cmdIssue (.wbld c) c 2 false [] (fun _ w => wbldWordsBad (octWord w c 0) (octWord w c 1))
    (fun s w => wbldPlan (octWord w c 0) (octWord w c 1) s w) (fun n s w => wbldAccept (octWord w c 0) n s w) s)

/-- WBQ's word (R247). -/
def wbqWord (c : Crew) (n : Nat) : Nat :=
  let f := firnAt c n
  let st := match f.st with
    | .invalid => 0
    | .loading => 1
    | .valid => 2
  c.nFirn * 2 ^ 48 +
    (if st = 0 then 0
     else f.ng * 2 ^ 32 + f.funit * 2 ^ 16 + f.fmt * 2 ^ 8 + (if f.pois.isEmpty ∨ st = 1 then 0 else 4) + st)

def execWbq (d : Dst) (c : Fin 4) (s : State) : Res :=
  .next (issue (.wbq d c)
    { size := 4, long := true, weight := 8, octet := some (octBase c), words := 1, uses := [dst d .w1]
      check := fun _ w => trapIf (octWord w c 0 / 8 != 0) (w.trap cILLEGAL_OPERAND) }
    (slotEff d 1 fun s w =>
      (List.replicate 32 (((crewOf s w).map fun y => wbqWord y (octWord w c 0)).getD 0), 0)) s)

/-! ## Accumulators (R243) -/

/-- The key of an accumulator element. -/
def accKey (set i j : Nat) : Nat := (set * 128 + i) * 192 + j

/-- An element and its poison. -/
def Crew.accAt (c : Crew) (k : Nat) : Nat × Bool := ((look c.acc k 0).toNat, look c.accPois k false)

/-- Writes an element and its poison. -/
def Crew.setAcc (c : Crew) (k v : Nat) (p : Bool) : Crew :=
  { c with acc := putD c.acc k 0 (BitVec.ofNat 32 v), accPois := putD c.accPois k false p }

/-! ## Effects (R246, R250 to R254) -/

/-- A slice of 16 k of an operand in the scratchpad: its image, and whether a byte read lies in a poisoned unit. -/
def scrSlice (s : State) (c : Crew) (r : TRec) (k0 row : Nat) : Nat × Bool :=
  let ps := (groupSrc r k0 row).map fun p =>
    match p.1 with
    | none => (leBytes p.2.1 r.padVal, false)
    | some a => (scrRead s c.core (c.addr a) p.2.1, scrAnyPoison s c.core (c.addr a) p.2.1)
  (leNat (ps.flatMap (·.1)), ps.any (·.2))

/-- One group's FP32 sum (R128, R129). -/
def mmaGroup (fa fb a b ha hb : Nat) : Nat × Flags :=
  let ps := (List.range 16).map fun m => (sliceVal fa a ha m, sliceVal fb b hb m)
  groupSum (ps.map fun p => (mulVal p.1.1 p.2.1).1) (ps.any fun p => p.1.2 || p.2.2)

/-- One element of R250: the groups in ascending k. -/
def mmaElem (fa fb : Nat) (as bs : List (Nat × Nat)) (acc : Nat) : Nat × Flags :=
  (as.zip bs).foldl (fun x p =>
    let g := mmaGroup fa fb p.1.1 p.2.1 p.1.2 p.2.2
    let r := addF32 x.1 g.1
    (r.1, x.2 ||| g.2 ||| r.2)) (acc, 0)

/-- A column's slices in a region for nk groups from gb: image and half. The half of an SE block is kept above the
slice's bytes. -/
def firnSlices (f : Firn) (fmt gb nk j : Nat) : List (Nat × Nat) :=
  (List.range nk).map fun t =>
    let x := look f.data ((gb + t) * 192 + j) 0
    (x % 2 ^ (8 * sliceLen fmt), x / 2 ^ (8 * sliceLen fmt))

/-- Some stretch that holds bytes of a column's slices is poisoned. -/
def firnPois (f : Firn) (fmt gb nk j : Nat) : Bool :=
  !f.pois.isEmpty && (List.range nk).any fun t =>
    let a := (gb + t) * groupLen fmt + j * sliceLen fmt
    (cut32 a (sliceLen fmt)).any fun p => look f.pois ((a + p.1) / 32) false

/-- MMA and MMAN (R250, R251). -/
def runMma (s : State) (ck : Nat) (fresh : Bool) (a : TRec) (gb fr bfmt acc ncol nrow k : Nat) : State × Flags :=
  match crewAt s ck with
  | none => (s, 0)
  | some c =>
    let nk := k / 16
    let f := firnAt c fr
    let cols := (List.range ncol).map fun j => (firnSlices f bfmt gb nk j, firnPois f bfmt gb nk j)
    let r := (List.range nrow).foldl (fun (x : Crew × Flags) i =>
      let ts := (List.range nk).map fun t => (scrSlice s c a (16 * t) i, t)
      let rowPois := ts.any fun t => t.1.2
      let as := ts.map fun t => (t.1.1, t.2 % 2)
      (cols.zipIdx).foldl (fun (x : Crew × Flags) q =>
        let key := accKey acc i q.2
        let old := x.1.accAt key
        let e := mmaElem a.fmt bfmt as q.1.1 (if fresh then 0 else old.1)
        (x.1.setAcc key e.1 (rowPois || q.1.2 || (!fresh && old.2)), x.2 ||| e.2)) x) (c, 0)
    (setCrew s ck r.1, r.2)

/-- The keys of an accumulator set. -/
def inSet (set k : Nat) : Bool := k / (128 * 192) == set

/-- ACCZ (R253). -/
def runAccz (s : State) (ck acc : Nat) : State :=
  modCrew s ck fun c =>
    { c with acc := c.acc.filter fun e => !inSet acc e.1, accPois := c.accPois.filter fun e => !inSet acc e.1 }

/-- The elements of an accumulator rectangle with their record coordinates. -/
def rectElems (nrow ncol : Nat) : List (Nat × Nat) :=
  (List.range nrow).flatMap fun i => (List.range ncol).map fun j => (i, j)

/-- ACCRD's conversion (R254). -/
def accOut (fmt : Nat) (sat : Bool) (x : Nat) : Nat × Flags :=
  match fmtNum fmt with
  | some (.flt .f) => (x, 0)
  | some (.flt t) =>
    let r := roundTo (fmtOf t) .rne false sat (f32Val x)
    (r.1, r.2 &&& (fNV ||| fOF ||| fUF ||| fNX))
  | _ => (x, 0)

/-- ACCRD (R254). Elements out of bounds are dropped and counted; that their conversions set flags all the same is the model's
choice (log 107). -/
def runAccrd (s : State) (ck ctx : Nat) (r : TRec) (acc row0 col0 nrow ncol : Nat) (sat : Bool) : State × Flags :=
  match crewAt s ck with
  | none => (s, 0)
  | some c =>
    let z := fmtUnit r.fmt
    let es := (rectElems nrow ncol).map fun p => (p, c.accAt (accKey acc (row0 + p.1) (col0 + p.2)))
    let ins := es.filter fun e => r.inBounds [(e.1.2 : Int), (e.1.1 : Int)]
    let ws := ins.map fun e =>
      let o := accOut r.fmt sat e.2.1
      ((c.addr (r.elemAddr [(e.1.2 : Int), (e.1.1 : Int)]), (leBytes z o.1, e.2.2)), o.2)
    let s := scrApply s c.core (ws.map (·.1))
    (addOvf s ctx (es.length - ins.length), orFlags (es.map fun e => (accOut r.fmt sat e.2.1).2))

/-- ACCWR's conversion (R254). -/
def accIn (fmt x : Nat) : Nat × Flags :=
  match fmtNum fmt with
  | some (.flt .f) => (x, 0)
  | some (.flt t) =>
    let r := rneF32 (unpack (fmtOf t) false x)
    (r.1, r.2 &&& fNV)
  | _ => (x, 0)

/-- ACCWR (R254). -/
def runAccwr (s : State) (ck : Nat) (r : TRec) (acc row0 col0 nrow ncol : Nat) : State × Flags :=
  match crewAt s ck with
  | none => (s, 0)
  | some c =>
    let z := fmtUnit r.fmt
    let x := (rectElems nrow ncol).foldl (fun (x : Crew × Flags) p =>
      let co := [(p.2 : Int), (p.1 : Int)]
      let v := if r.inBounds co then
          let a := c.addr (r.elemAddr co)
          (leNat (scrRead s c.core a z), scrAnyPoison s c.core a z)
        else (r.padVal, false)
      let o := accIn r.fmt v.1
      (x.1.setAcc (accKey acc (row0 + p.1) (col0 + p.2)) o.1 v.2, x.2 ||| o.2)) (c, 0)
    (setCrew s ck x.1, x.2)

/-- One source range of a region: its pieces from memory or the scratchpad, with their places in the slice. -/
def wbldRange (core ctx : Nat) (c : Crew) (r : TRec) (p : Option Nat × Nat × Nat) (s : State) :
    Got (List (Nat × Piece)) :=
  match p.1 with
  | none => .ok s [(p.2.2, (leBytes p.2.1 r.padVal, false))]
  | some a =>
    let place := fun (b : Nat) (l : List Piece) => (cut32 b p.2.1).zip l |>.map fun x => (p.2.2 + x.1.1, x.2)
    if r.sp then .ok s (place (c.addr a) (scrPieces s core (c.addr a) p.2.1))
    else match readRange core ctx a p.2.1 false s with
      | .wait => .wait
      | .fault v k => .fault v k
      | .ok s l => .ok s (place a l)

/-- The slice of group t, column n of a region (R246). -/
def wbldSlice (core ctx : Nat) (c : Crew) (r : TRec) (c0 c1 : Int) (t n : Nat) (s : State) :
    Got ((Nat × Nat) × List (Nat × Piece)) :=
  match Got.each (fun s p => wbldRange core ctx c r p s) s (groupSrc r (c0 + 16 * t) (c1 + n)) with
  | .wait => .wait
  | .fault v k => .fault v k
  | .ok s l => .ok s ((t, n), l.flatten)

/-- The region's content from its slices (R244): images with the half above, and poisoned stretches. -/
def fillRegion (f : Firn) (c0 : Int) (fmt : Nat) (l : List ((Nat × Nat) × List (Nat × Piece))) : Firn :=
  let n := sliceLen fmt
  let half := fun (t : Nat) => if isSe fmt then ((c0 / 16 + t) % 2).toNat else 0
  let data := l.foldl (fun m x =>
    putD m (x.1.1 * 192 + x.1.2) 0 (leNat (x.2.flatMap fun p => p.2.1) + half x.1.1 * 2 ^ (8 * n))) ([] : SMap Nat)
  let pois := l.foldl (fun m x => x.2.foldl (fun m p =>
    if p.2.2 then
      let a := x.1.1 * groupLen fmt + x.1.2 * n + p.1
      (cut32 a p.2.1.length).foldl (fun m q => put m ((a + q.1) / 32) true) m
    else m) m) ([] : SMap Bool)
  { f with data := data, pois := pois, st := .valid }

/-- Loads a region from its record (R246, R266). It becomes valid unless another load of it is still to come, or it has
been made invalid meanwhile. -/
def loadRegion (core ctx ck fr ng : Nat) (r : TRec) (c0 c1 : Int) (more : Bool) (s : State) : Got Unit :=
  match crewAt s ck with
  | none => .ok s ()
  | some c =>
    let idx := (List.range ng).flatMap fun t => (List.range 192).map fun n => (t, n)
    match Got.each (fun s p => wbldSlice core ctx c r c0 c1 p.1 p.2 s) s idx with
    | .wait => .wait
    | .fault v k => .fault v k
    | .ok s l =>
      .ok (modCrew s ck fun c =>
        let f := fillRegion (firnAt c fr) c0 r.fmt l
        { c with firn := put c.firn fr { f with st := if (firnAt c fr).st = .loading ∧ !more then .valid else (firnAt c fr).st } }) ()

/-! ## MX_RETIRE (R239) -/

/-- Another load of the region is still to come. -/
def loadsLater (s : State) (core : Nat) (c : Cmd) (fr : Nat) : Bool :=
  (queueAt s (queueKey core 4)).any fun d => decide (c.accNo < d.accNo) && d.crew == c.crew && (match d.body with
    | .wbld _ n _ _ _ => n == fr
    | _ => false)

/-- The effect of a matrix command with its flags. A WBLD has none: that SN of R125 is set when an MMA or MMAN expands a NaN
block, and not already when WBLD loads it, is the model's choice (log 108). -/
def runMx (s : State) (core : Nat) (c : Cmd) : Got Flags :=
  let give := fun (r : State × Flags) => Got.ok r.1 r.2
  match c.body with
  | .mma fresh r aoff asoff gb fr bfmt acc ncol nrow k =>
    give (runMma s c.crew fresh (r.at aoff asoff) gb fr bfmt acc ncol nrow k)
  | .accz a => .ok (runAccz s c.crew a) 0
  | .accrd r off acc row0 col0 nrow ncol sat => give (runAccrd s c.crew c.ctx (r.at off 0) acc row0 col0 nrow ncol sat)
  | .accwr r off acc row0 col0 nrow ncol => give (runAccwr s c.crew (r.at off 0) acc row0 col0 nrow ncol)
  | .wbld r fr ng c0 c1 =>
    match loadRegion core c.ctx c.crew fr ng r c0 c1 (loadsLater s core c fr) s with
    | .wait => .wait
    | .fault v k => .fault v k
    | .ok s _ => .ok s 0
  | _ => .ok s 0

/-- The slots of the ACCRDs of a retired command have their value (R254). -/
def giveAccrd (s : State) (c : Cmd) : State :=
  modWarp s c.warp fun w =>
    { w with slots := w.slots.map fun sl =>
        if sl.body = .accrd c.seq then { sl with body := .value (List.replicate 32 c.seq) 0 } else sl }

/-- The next thing the mx sequence does. -/
def mxAdvance (s : State) (core : Nat) : Adv :=
  match workCmd s core 4 with
  | none => .none
  | some c =>
    if c.discard then .ok (giveAccrd (retireCmd s core 4 0) c)
    else if !mayStart s core c then .none
    else match runMx s core c with
      | .wait => .none
      | .fault v k => .fault v k
      | .ok s fl => .ok (giveAccrd (retireCmd s core 4 fl) c)

/-- MX_RETIRE (R239): the oldest unretired mx command performs its accesses and retires. -/
def execMxRetire (core : Nat) (s : State) : Res :=
  match mxAdvance s core with
  | .ok s => .next s
  | _ => .next s

end Sys2Proof.Machine
end

