-- ==== Sys2Proof/Machine/Copy.lean ====
section
/-! DEFINITION. The copy engine: CPY, CPYT, CPYP, CPYG, CPYR, CPYE and PFCH with their checks at issue, their effects,
chained matrix commands and completion words (R86 to R95, R177 to R186). -/

namespace Sys2Proof.Machine

open Sys2Proof

/-! ## The command block (R178 to R182) -/

/-- The start coordinates of a block. -/
def blockC (x : Nat → Nat) : List Int :=
  [sext 32 (bits (x 1) 0 32), sext 32 (bits (x 1) 32 32), sext 32 (bits (x 2) 0 32), sext 32 (bits (x 2) 32 32),
    sext 32 (bits (x 3) 0 32)]

/-- The extents of a block. -/
def blockE (x : Nat → Nat) : List Nat :=
  [bits (x 3) 32 24, bits (x 4) 0 24, bits (x 4) 24 24, bits (x 5) 0 24, bits (x 5) 24 24]

/-- Reserved bits that every block has, and those of the completion word (R178, R181). -/
def blockBad (x : Nat → Nat) (cw : Bool) : Bool :=
  bits (x 0) 38 2 != 0 || bits (x 0) 12 4 != 0 || bits (x 3) 56 8 != 0 ||
    (cw && (bits (x 6) 56 8 != 0 || x 6 % 8 != 0))

/-- Step 3 of R184: the field rules that need no record (R178 to R182). -/
def copyWordsBad (k : CopyKind) (x : Nat → Nat) (cw : Bool) : Bool :=
  let e := blockE x
  let pitch := bits (x 0) 40 24
  let soff := bits (x 4) 48 16
  let spoff := bits (x 0) 16 22
  blockBad x cw ||
    (match k with
     | .cpy => bits (x 5) 48 16 != 0 || (e.drop 1).any (· != 0) || pitch != 0
     | .cpyt => bits (x 5) 48 16 != 0 || (e.drop 2).any (· != 0) || soff != 0
     | .cpyp => bits (x 5) 48 16 != 0
     | .pfch => bits (x 5) 48 16 != 0 || pitch != 0 || soff != 0 || spoff != 0
     | .cpyg => x 5 != 0 || bits (x 1) 32 32 != 0 || bits (x 4) 22 2 != 0 || x 4 % 4 != 0
     | .cpyr =>
       pitch != 0 || bits (x 4) 44 20 != 0 || bits (x 5) 48 16 != 0 || bits (x 5) 22 2 != 0 || spoff % 8 != 0 ||
         bits (x 4) 22 22 % 8 != 0 || bits (x 4) 0 22 % 4 != 0 || bits (x 5) 0 22 % 4 != 0
     | .cpye =>
       pitch != 0 || bits (x 1) 32 32 != 0 || x 2 != 0 || bits (x 3) 0 32 != 0 || x 4 != 0 || x 5 != 0)

/-- The command of a block (R178 to R182), with the record it names. -/
def copyOf (k : CopyKind) (st : Bool) (x : Nat → Nat) (cw : Bool) (scope : Scope) (r : TRec) : CopyCmd :=
  { kind := k, st := st, trec := r, spoff := bits (x 0) 16 22, pitch := bits (x 0) 40 24, c := blockC x
    e := blockE x
    soff := match k with
      | .cpyr => 0
      | _ => bits (x 4) 48 16
    n := match k with
      | .cpyr => bits (x 3) 32 24
      | _ => bits (x 4) 24 24
    idxOff := bits (x 4) 0 22, maskOff := bits (x 4) 22 22, limit := bits (x 5) 24 24, cntOff := bits (x 5) 0 22
    cw := if cw then some (bits (x 6) 0 56, BitVec.ofNat 64 (x 7)) else none, scope := scope }

/-! ## The box (R88, R179) -/

/-- The number of leading dimensions whose extents the command reads (R179). -/
def CopyCmd.nread (c : CopyCmd) : Nat :=
  match c.kind with
  | .cpyp => c.trec.rank
  | .pfch => c.trec.rank
  | .cpyt => 2
  | _ => 1

/-- The five extents of the box; those not read count as 1. -/
def CopyCmd.ext (c : CopyCmd) : List Nat :=
  (List.range 5).map fun k => if k < c.nread then c.e.getD k 0 else 1

/-- The box is empty (R179). -/
def CopyCmd.empty (c : CopyCmd) : Bool :=
  match c.kind with
  | .cpyg => c.e.getD 0 0 == 0 || c.n == 0
  | .cpyr => false
  | _ => c.ext.any (· == 0)

/-- One past the last scratchpad position of a box that is not empty (R88). -/
def CopyCmd.posEnd (c : CopyCmd) : Nat :=
  let e := fun k => c.ext.getD k 1
  match c.kind with
  | .cpyt => c.pitch * (e 0 - 1) + e 1
  | .cpyp => e 0 + c.pitch * (e 1 * e 2 * e 3 * e 4 - 1)
  | .cpyg => e 0 + c.pitch * (c.n - 1)
  | _ => e 0

/-- The scratchpad ranges of a command, as offsets, each with whether it is written (R185). -/
def CopyCmd.ranges (c : CopyCmd) : List ((Nat × Nat) × Bool) :=
  let u := fmtUnit c.trec.fmt
  let box := [((c.spoff, c.spoff + u * c.posEnd), !c.st)]
  let scale := if isSe c.trec.fmt then [((64 * c.soff, 64 * c.soff + 2 * c.posEnd), !c.st)] else []
  let all := match c.kind with
    | .pfch => []
    | .cpyg => if c.empty then [] else box ++ scale ++ [((c.idxOff, c.idxOff + 4 * c.n), false)]
    | .cpyr =>
      [((c.spoff, c.spoff + 256 * c.limit), true), ((c.maskOff, c.maskOff + 8 * c.limit), true),
        ((c.cntOff, c.cntOff + 4), true), ((c.idxOff, c.idxOff + 4 * c.n), false)]
    | .cpye => if c.empty then [] else [((c.spoff, c.spoff + c.e.getD 0 0), true)]
    | _ => if c.empty then [] else box ++ scale
  all.filter fun r => decide (r.1.1 < r.1.2)

/-- The coordinates and extents of the box on the memory side. A CPYG may take any row, since its indices are read only
when it runs; a CPYR may take its rows to their ends. -/
def CopyCmd.memBox (c : CopyCmd) : List Int × List Nat :=
  let e := fun k => c.ext.getD k 1
  let e0 := if isSe c.trec.fmt then 32 * e 0 else e 0
  match c.kind with
  | .cpyg => ([c.c.getD 0 0, 0] ++ c.c.drop 2, [e0, c.trec.dim 1, 1, 1, 1])
  | .cpyr => (c.c, [2 ^ 32 + 2 ^ 24, c.n, 1, 1, 1])
  | _ => (c.c, [e0, e 1, e 2, e 3, e 4])

/-- The memory-side footprint by planes; for CPYE the stream it may read and the code table. -/
def CopyCmd.memFoot (c : CopyCmd) : List (Nat × Nat) :=
  match c.kind with
  | .cpye =>
    let c0 := (c.c.getD 0 0).toNat
    if c.empty then []
    else [(c.trec.ctab, c.trec.ctab + 288)] ++
      (if c0 < c.trec.dim 0 then [(c.trec.base + c0, c.trec.base + c.trec.dim 0)] else [])
  | _ => if c.empty then [] else c.trec.foot c.memBox.1 c.memBox.2

/-! ## Checks (R184) -/

/-- Two intervals meet. -/
def meets (a b : Nat × Nat) : Bool := decide (a.1 < b.2) && decide (b.1 < a.2)

/-- A write range of the list overlaps another range of it (R184 step 6). -/
def selfOverlap (l : List ((Nat × Nat) × Bool)) : Bool :=
  match l with
  | [] => false
  | r :: l => l.any (fun q => (r.2 || q.2) && meets r.1 q.1) || selfOverlap l

/-- Step 5 of R184: the record's flags, R83, and the field rules that depend on the record (R179 to R183). -/
def CopyCmd.recBad (c : CopyCmd) : Bool :=
  let r := c.trec
  let se := isSe r.fmt
  let beyond := (List.range 5).any fun k => decide (r.rank ≤ k) && coord c.c k != 0
  let beyondE := (List.range 5).any fun k => decide (r.rank ≤ k) && c.e.getD k 0 != 0
  let align := c.spoff % fmtAlign r.fmt != 0
  let soff := !se && c.soff != 0
  let c0 := se && (coord c.c 0) % 32 != 0
  (c.st && r.rdo) ||
    (match c.kind with
     | .cpye => !r.ent || r.fmt != 0x1F || r.rank != 1 || r.sp
     | _ => r.ent) ||
    (match c.kind with
     | .cpy => beyond || beyondE || align || soff || c0
     | .cpyt => beyond || beyondE || align || se || decide (r.rank < 2) || decide (c.pitch < c.e.getD 1 0)
     | .cpyp => beyond || beyondE || align || soff || c0 || decide (c.pitch < c.e.getD 0 0)
     | .pfch => beyond || beyondE || c0 || r.sp
     | .cpyg => beyond || align || soff || c0 || decide (r.rank < 2) || decide (c.pitch < c.e.getD 0 0)
     | .cpyr => beyond || se || (fmtUnit r.fmt != 4 && fmtUnit r.fmt != 8) || decide (r.rank < 2) || r.sp
     | .cpye => false)

/-- Step 6 of R184: the ranges lie inside the allocation and do not overlap (R87, R181). -/
def CopyCmd.rangesBad (c : CopyCmd) (alloc : Nat) : Bool :=
  let mem := if c.trec.sp then (hull c.memFoot).toList.map fun p => (p, c.st) else []
  let l := c.ranges ++ mem
  (l.any fun r => decide (alloc < r.1.2)) || selfOverlap l

/-- The scoreboard entries of a command (R185). -/
def CopyCmd.entries (c : CopyCmd) (y : Crew) : List SbEntry :=
  let mem := if c.trec.sp then (hull c.memFoot).toList.map fun p => (p, c.st) else []
  (c.ranges ++ mem).map fun r => { lo := y.addr r.1.1, hi := y.addr r.1.2, wr := r.2 }

/-- The units of a box in bounds, and in all, of a command of R88. -/
def CopyCmd.unitCount (c : CopyCmd) : Nat × Nat :=
  let r := c.trec
  let b := c.memBox
  let k := if isSe r.fmt then 32 else 1
  let ins := match r.clip b.1 b.2 with
    | none => 0
    | some l => (l.map fun p => p.2 - p.1).foldl (· * ·) 1 / k
  (ins, c.ext.foldl (· * ·) 1)

/-- The row lengths of a CPYR as its table holds them (R89). -/
def CopyCmd.lens (c : CopyCmd) (s : State) (core : Nat) (y : Crew) : List Nat :=
  (List.range c.n).map fun t => leNat (scrRead s core (y.addr (c.idxOff + 4 * t)) 4)

/-- The vectors that a CPYR writes for some row lengths (R89). -/
def CopyCmd.vectors (c : CopyCmd) (lens : List Nat) : Nat :=
  let per := 256 / fmtUnit c.trec.fmt
  min ((lens.foldl (· + ·) 0 + per - 1) / per) c.limit

/-- The bytes that a command moves as acceptance knows them, for its weight (R160, R350); those of a CPYR are its vectors,
masks and count word by its row lengths as they then stand (log 87). -/
def CopyCmd.bytes (c : CopyCmd) (s : State) (y : Crew) : Nat :=
  let u := fmtUnit c.trec.fmt + (if isSe c.trec.fmt then 2 else 0)
  match c.kind with
  | .pfch => 0
  | .cpyg => c.e.getD 0 0 * c.n * u
  | .cpyr => 264 * c.vectors (c.lens s y.core y) + 4
  | .cpye => c.e.getD 0 0
  | _ => if c.st then c.unitCount.1 * u else c.unitCount.2 * u

/-- The memory-side footprint for R400: a bounding interval of virtual addresses, none for PFCH or in the
scratchpad. -/
def CopyCmd.footprint (c : CopyCmd) : Option (Nat × Nat × Bool) :=
  match c.kind with
  | .pfch => none
  | _ => if c.trec.sp then none else (hull c.memFoot).map fun p => (p.1, p.2, c.st)

/-- A copy command that has passed its checks. -/
def CopyCmd.ask (c : CopyCmd) (s : State) (q : Nat) (y : Crew) : Ask :=
  { eng := q, body := .copy c, entries := c.entries y, fp := c.footprint, weight := 200 + c.bytes s y / 64 }

/-- Steps 4 to 7 of R184; the words of a chained block are among the chained block's checks. -/
def copyPlan (k : CopyKind) (q : Nat) (st cw : Bool) (scope : Scope) (x : Nat → Nat)
    (chain : Option (Bool × Nat × Nat)) (s : State) (w : Warp) : Checked :=
  let chained := fun (s : State) (a : Ask) =>
    match chain with
    | none => Checked.ok s a none
    | some (mman, y0, y1) =>
      orIllegal w (mmaWordsBad y0 y1)
        (match mmaPlan mman y0 y1 s w with
         | .ok s m _ => .ok s a (some m)
         | r => r)
  match needRec s w (bits (x 0) 0 12) with
  | .trap t => .trap t
  | .wait s' => .wait s'
  | .ok s' ws =>
    match (match chain with
      | none => RecRes.ok s' ws
      | some (_, y0, _) => needRec s' w (bits y0 0 12)) with
    | .trap t => .trap t
    | .wait s'' => .wait s''
    | .ok s'' _ =>
      match crewOf s'' w with
      | none => .stall s''
      | some y =>
        let c := copyOf k st x cw scope (recOf ws)
        orIllegal w (recMalformed ws y.bytes || c.recBad || c.rangesBad y.bytes) (chained s'' (c.ask s'' q y))

/-- The octet of a chained block as an operand: named whole, two words read (R183). -/
def chainUses (c : Fin 4) : List Use :=
  if h : octBase c < 32 then
    [{ op := .v ⟨octBase c, h⟩, g := 8, reads := false, writes := false },
      { op := .v ⟨octBase c, h⟩, g := 2, reads := true, writes := false, lead := true }]
  else []

/-- The issue of a copy command (R177, R184). -/
def copyIssue (i : Instr) (k : CopyKind) (f : CopyOp) (s : State) : State :=
  cmdIssue i f.c (if f.cw then 8 else 6) false (if f.chain then chainUses f.c2 else [])
    (fun _ w => copyWordsBad k (octWord w f.c) f.cw)
    (fun s w => copyPlan k f.q.val f.st f.cw f.scope (octWord w f.c)
      (if f.chain then some (f.mman, octWord w f.c2 0, octWord w f.c2 1) else none) s w) noAfter s

def execCpy (f : CopyOp) (s : State) : Res := .next (copyIssue (.cpy f) .cpy f s)
def execCpyt (f : CopyOp) (s : State) : Res := .next (copyIssue (.cpyt f) .cpyt f s)
def execCpyp (f : CopyOp) (s : State) : Res := .next (copyIssue (.cpyp f) .cpyp f s)
def execCpyg (f : CopyOp) (s : State) : Res := .next (copyIssue (.cpyg f) .cpyg f s)
def execCpyr (f : CopyOp) (s : State) : Res := .next (copyIssue (.cpyr f) .cpyr f s)
def execCpye (f : CopyOp) (s : State) : Res := .next (copyIssue (.cpye f) .cpye f s)
def execPfch (q c : Fin 4) (scope : Scope) (cw : Bool) (s : State) : Res :=
  .next (copyIssue (.pfch q c scope cw) .pfch
    { q := q, c := c, c2 := 0, scope := scope, chain := false, cw := cw, st := false, mman := false } s)

/-! ## Moves (R88) -/

/-- One unit of a box: its memory-side address, none out of bounds, its scratchpad offset, its length, and what it reads
as out of bounds. -/
structure Move where
  mem : Option Nat
  sp : Nat
  n : Nat
  pad : List Byte

/-- Every box position, dimension 0 fastest. -/
def boxIdx (ext : List Nat) : List (List Nat) :=
  match ext with
  | [] => [[]]
  | e :: es => (boxIdx es).flatMap fun t => (List.range e).map (· :: t)

/-- The moves of one unit at coordinates and a position: the element or block, and an SE block's scale. -/
def CopyCmd.unitMoves (c : CopyCmd) (co : List Int) (pos : Nat) : List Move :=
  let r := c.trec
  let u := fmtUnit r.fmt
  let ok := r.inBounds co
  let e : Move := { mem := if ok then some (r.elemAddr co) else none, sp := c.spoff + u * pos, n := u
                    pad := leBytes u r.padVal }
  if isSe r.fmt then
    [e, { mem := if ok then some (r.scaleAddr co) else none, sp := 64 * c.soff + 2 * pos, n := 2, pad := [0, 0] }]
  else [e]

/-- The signed index list of a CPYG (R88, R180). A list in a poisoned unit is read as it stands (log 88). -/
def CopyCmd.indices (c : CopyCmd) (s : State) (y : Crew) : List Int :=
  (List.range c.n).map fun t => sext 32 (leNat (scrRead s y.core (y.addr (c.idxOff + 4 * t)) 4))

/-- The units of a command of R88: coordinates and positions. -/
def CopyCmd.units (c : CopyCmd) (s : State) (y : Crew) : List (List Int × Nat) :=
  let step : Int := if isSe c.trec.fmt then 32 else 1
  let at_ := fun k => coord c.c k
  if c.empty then []
  else match c.kind with
    | .cpyg =>
      (c.indices s y).zipIdx.flatMap fun p => (List.range (c.e.getD 0 0)).map fun (j : Nat) =>
        let co : List Int := [at_ 0 + step * (j : Int), p.1, at_ 2, at_ 3, at_ 4]
        let pos : Nat := j + c.pitch * p.2
        (co, pos)
    | _ =>
      (boxIdx c.ext).map fun j =>
        let g := fun k => j.getD k 0
        let e := fun k => c.ext.getD k 1
        let i := fun k => ((j.getD k 0 : Nat) : Int)
        let pos : Nat := match c.kind with
          | .cpyt => g 1 + c.pitch * g 0
          | _ => g 0 + c.pitch * (g 1 + e 1 * (g 2 + e 2 * (g 3 + e 3 * g 4)))
        ([at_ 0 + step * i 0, at_ 1 + i 1, at_ 2 + i 2, at_ 3 + i 3, at_ 4 + i 4], pos)

/-- Reads a move's source on the memory side: its pieces with their offsets. -/
def moveRead (core ctx : Nat) (y : Crew) (r : TRec) (m : Move) (s : State) : Got (List (Nat × Piece)) :=
  match m.mem with
  | none => .ok s [(y.addr m.sp, (m.pad, false))]
  | some a =>
    let place := fun (b : Nat) (l : List Piece) => ((cut32 b m.n).zip l).map fun x => (y.addr m.sp + x.1.1, x.2)
    if r.sp then .ok s (place (y.addr a) (scrPieces s core (y.addr a) m.n))
    else match readRange core ctx a m.n true s with
      | .wait => .wait
      | .fault v k => .fault v k
      | .ok s l => .ok s (place a l)

/-- A load of R88: everything is read, then written to the scratchpad as one operation (R93). -/
def runLoad (core : Nat) (k : Cmd) (y : Crew) (c : CopyCmd) (s : State) : Got Unit :=
  let ms := (c.units s y).flatMap fun p => c.unitMoves p.1 p.2
  match Got.each (fun s m => moveRead core k.ctx y c.trec m s) s ms with
  | .wait => .wait
  | .fault v a => .fault v a
  | .ok s l => .ok (scrApply s core l.flatten) ()

/-- The memory-side pieces of a store's move: virtual address, bytes and poison, cut at memory flits. Each unit is a write
of its own, so units that cover a flit together leave its mark (log 89). -/
def moveWrites (s : State) (core : Nat) (y : Crew) (m : Move) : List (Nat × Piece) :=
  match m.mem with
  | none => []
  | some a => (cut32 a m.n).map fun p =>
      let x := y.addr (m.sp + p.1)
      (a + p.1, (scrRead s core x p.2, scrAnyPoison s core x p.2))

/-- A store of R88 (R93, R84): to the die's store stage, or for a record in the scratchpad to the scratchpad. -/
def runStore (core : Nat) (k : Cmd) (eng : Nat) (y : Crew) (c : CopyCmd) (s : State) : Got Unit :=
  let us := c.units s y
  let ws := us.flatMap fun p => (c.unitMoves p.1 p.2).flatMap (moveWrites s core y)
  let drops := (us.filter fun p => !c.trec.inBounds p.1).length * (if isSe c.trec.fmt then 32 else 1)
  let sorted := sortBy (fun (a b : Nat × Piece) => decide (a.1 ≤ b.1)) ws
  let rec_ := fun (s : State) =>
    modWarp (addOvf s k.ctx drops) k.warp fun w =>
      w.fillCmd (cmdKey core eng k.seq) ((sorted.head?.map (·.1)).getD 0) (sorted.flatMap fun x => x.2.1)
  if c.trec.sp then .ok (addOvf (scrApply s core (ws.map fun x => (y.addr x.1, x.2))) k.ctx drops) ()
  else if k.shadow then .ok (rec_ s) ()
  else match Got.each (fun s x => writeFlit core k.ctx eng k.seq x.1 true x.2 s) s ws with
    | .wait => .wait
    | .fault v a => .fault v a
    | .ok s _ => .ok (rec_ s) ()

/-! ## CPYR (R89, R181) -/

/-- The flat elements of the rows, at most `cap`: row and place in the row. -/
def ragged (lens : List (Nat × Nat)) (cap : Nat) : List (Nat × Nat) :=
  match lens with
  | [] => []
  | (t, n) :: lens =>
    let m := min n cap
    (List.range m).map (fun j => (t, j)) ++ ragged lens (cap - m)

/-- Runs a CPYR. Row lengths in a poisoned unit are read as they stand (log 88). -/
def runRagged (core : Nat) (k : Cmd) (y : Crew) (c : CopyCmd) (s : State) : Got Unit :=
  let r := c.trec
  let z := fmtUnit r.fmt
  let per := 256 / z
  let lens := c.lens s core y
  let total := lens.foldl (· + ·) 0
  let nv := c.vectors lens
  let es := ragged (lens.zipIdx.map fun p => (p.2, p.1)) (nv * per)
  let mv := es.zipIdx.map fun p =>
    let co := [coord c.c 0 + p.1.2, coord c.c 1 + p.1.1, coord c.c 2, coord c.c 3, coord c.c 4]
    ({ mem := if r.inBounds co then some (r.elemAddr co) else none, sp := c.spoff + z * p.2, n := z
       pad := leBytes z r.padVal } : Move)
  match Got.each (fun s m => moveRead core k.ctx y r m s) s mv with
  | .wait => .wait
  | .fault v a => .fault v a
  | .ok s l =>
    let tail := (List.range (nv * per - es.length)).map fun i =>
      (y.addr (c.spoff + z * (es.length + i)), (leBytes z r.padVal, false))
    let first := fun f => match es[f]? with
      | some p => p.2 == 0
      | none => f == es.length
    let masks := (List.range nv).map fun v =>
      (y.addr (c.maskOff + 8 * v),
        (leBytes 8 (((List.range per).map fun b => if first (v * per + b) then 2 ^ b else 0).foldl (· + ·) 0), false))
    let count := [(y.addr c.cntOff, (leBytes 4 nv, false))]
    .ok (addOvf (scrApply s core (l.flatten ++ tail ++ masks ++ count)) k.ctx (total - es.length)) ()

/-! ## CPYE (R90, R91, R182) -/

/-- A code table: the counts of codes of lengths 1 to 16, and the symbols (R90). -/
structure CodeTable where
  counts : List Nat
  syms : List Byte

/-- A code table from its 288 bytes. -/
def codeTable (bs : List Byte) : CodeTable :=
  { counts := (List.range 16).map fun i => leNat ((bs.drop (2 * i)).take 2), syms := bs.drop 32 }

/-- A malformed table (R90). -/
def CodeTable.bad (t : CodeTable) : Bool :=
  let n := t.counts.foldl (· + ·) 0
  n == 0 || decide (256 < n) ||
    decide (2 ^ 16 < ((t.counts.zipIdx).map fun p => p.1 * 2 ^ (15 - p.2)).foldl (· + ·) 0)

/-- What decoding one symbol comes to: the symbol and the stream after it, or an error. -/
inductive Sym where
  | ok (sym : Byte) (rest : Nat)
  | err

/-- A read of the stream's bit at a position, high bit first: none beyond the end or in a poisoned byte. -/
def streamBit (bytes : List (Byte × Bool)) (p : Nat) : Option Nat :=
  match bytes[p / 8]? with
  | none => none
  | some (b, pois) => if pois then none else some (b.toNat / 2 ^ (7 - p % 8) % 2)

/-- Matches a canonical code from bit p on, length by length (R90). -/
def matchCode (t : CodeTable) (bytes : List (Byte × Bool)) (cs : List Nat) (p code first idx : Nat) : Sym :=
  match cs with
  | [] => .err
  | n :: cs =>
    match streamBit bytes p with
    | none => .err
    | some b =>
      let code := 2 * code + b
      if code < first + n then .ok (t.syms.getD (idx + (code - first)) 0) (p + 1)
      else matchCode t bytes cs (p + 1) code (2 * (first + n)) (idx + n)

/-- Decodes up to n symbols; shorter where an error is met. -/
def decodeSyms (t : CodeTable) (bytes : List (Byte × Bool)) (n p : Nat) : List Byte :=
  match n with
  | 0 => []
  | n + 1 =>
    match matchCode t bytes t.counts p 0 0 0 with
    | .err => []
    | .ok x p => x :: decodeSyms t bytes n p

/-- The bytes of a stream that decoding n symbols needs, at most two a symbol. -/
def streamNeed (c : CopyCmd) : Nat :=
  min (2 * c.e.getD 0 0) (c.trec.dim 0 - (c.c.getD 0 0).toNat)

/-- Bytes with the poison of their pieces. -/
def flatPieces (l : List Piece) : List (Byte × Bool) := l.flatMap fun p => p.1.map fun b => (b, p.2)

/-- The writes of a CPYE: the symbols, then zeros in poisoned units from the failing symbol on (R91). -/
def entropyWrites (y : Crew) (c : CopyCmd) (out : List Byte) : List (Nat × Piece) :=
  let n := c.e.getD 0 0
  [(y.addr c.spoff, (out, false)),
    (y.addr (c.spoff + out.length), (List.replicate (n - out.length) 0, true))].filter fun p => !p.2.1.isEmpty

/-- How many of the stream's bytes the decoding of all symbols, or of those before an error, needs. -/
def usedBytes (t : CodeTable) (bytes : List (Byte × Bool)) (n p : Nat) : Nat :=
  match n with
  | 0 => (p + 7) / 8
  | n + 1 =>
    match matchCode t bytes t.counts p 0 0 0 with
    | .err => (p + 16 + 7) / 8
    | .ok _ q => usedBytes t bytes n q

/-- Runs a CPYE. A byte whose address faults stalls the queue only if the decoding needs it. -/
def runEntropy (core : Nat) (k : Cmd) (y : Crew) (c : CopyCmd) (s : State) : Got Unit :=
  let c0 := c.c.getD 0 0
  let n := c.e.getD 0 0
  let fail := fun (s : State) => Got.ok (scrApply s core (entropyWrites y c [])) ()
  if n = 0 then .ok s ()
  else match readRange core k.ctx c.trec.ctab 288 false s with
    | .wait => .wait
    | .fault v a => .fault v a
    | .ok s l =>
      let t := codeTable (l.flatMap (·.1))
      if l.any (·.2) || t.bad || decide (c0 < 0) || decide ((c.trec.dim 0 : Int) ≤ c0) then fail s
      else
        let from_ := c.trec.base + c0.toNat
        let ps := cut32 from_ (streamNeed c)
        let got := ps.foldl (fun (x : List Piece × Option (Nat × Nat) × Bool × State) p =>
          match x.2.1, x.2.2.1 with
          | none, false =>
            (match readFlit core k.ctx (from_ + p.1) p.2 true x.2.2.2 with
             | .ok s d => (x.1 ++ [d], none, false, s)
             | .fault v a => (x.1, some (v, a), false, x.2.2.2)
             | .wait => (x.1, none, true, x.2.2.2))
          | _, _ => x) ([], none, false, s)
        let bytes := flatPieces got.1
        let out := decodeSyms t bytes n 0
        let short := decide (out.length < n) && decide (bytes.length < usedBytes t bytes n 0)
        if short && got.2.2.1 then .wait
        else match short, got.2.1 with
          | true, some (v, a) => .fault v a
          | _, _ => .ok (scrApply got.2.2.2 core (entropyWrites y c out)) ()

/-! ## PFCH (R92) -/

/-- Allocates the line of an address in its home slice, a fill that the context is charged (R417); a translation that would
fault is dropped. -/
def prefetchLine (core ctx : Nat) (s : State) (va : Nat) : Got Unit :=
  if transWaits s core ctx va then .wait
  else match translate s core ctx va 1 .read with
  | .bad _ => .ok s ()
  | .ok pa pte =>
    let thru := pteMt pte != 0
    .ok (if (paKind pa).homed then homeAlloc (chargeHome s ctx none pa 0 thru false) pa thru else s) ()

/-- Runs a PFCH. -/
def runPrefetch (core : Nat) (k : Cmd) (y : Crew) (c : CopyCmd) (s : State) : Got Unit :=
  let ms := (c.units s y).flatMap fun p => c.unitMoves p.1 p.2
  let ls := ms.flatMap fun m =>
    match m.mem with
    | none => []
    | some a => (cut32 a m.n).map fun p => (a + p.1) / 128 * 128
  match Got.each (prefetchLine core k.ctx) s (dedup ls) with
  | .wait => .wait
  | .fault v a => .fault v a
  | .ok s _ => .ok s ()

/-! ## COPY_RETIRE and CHAIN_START (R86, R94, R95) -/

/-- The accesses of a copy command. -/
def runCopy (core eng : Nat) (k : Cmd) (c : CopyCmd) (s : State) : Got Unit :=
  match crewAt s k.crew with
  | none => .ok s ()
  | some y =>
    match c.kind with
    | .cpyr => runRagged core k y c s
    | .cpye => runEntropy core k y c s
    | .pfch => runPrefetch core k y c s
    | _ => if c.st then runStore core k eng y c s else runLoad core k y c s

/-- The width of a copy command's scope: pair scope of a crew outside a span is die scope (R357). -/
def cmdScope (s : State) (k : Cmd) (c : CopyCmd) : Nat :=
  if c.scope = .pair ∧ ((crewAt s k.crew).map fun y => y.span.isEmpty).getD true = true then 3 else scopeCode c.scope

/-- The completion word is written with release order at the command's scope once every write of the command and of the
earlier ones of its queue has been performed (R95), at fabric and host scope also once every write whose value its die has
read has been applied (R369). A fault on the word's address stalls the queue, a PFCH's too
(log 90). -/
def writeWord (core eng : Nat) (k : Cmd) (c : CopyCmd) (s : State) : Adv :=
  match c.cw with
  | none => .ok (modHead s core eng fun k => { k with phase := 2 })
  | some (va, v) =>
    if !cmdWritesDone s core eng k.seq (cmdScope s k c) ||
        (decide (6 ≤ cmdScope s k c) && unappliedSeen s (dieOfCore core)) then .none
    else if k.shadow then .ok (modHead s core eng fun k => { k with phase := 2 })
    else match writeRange core k.ctx eng k.seq va false (leBytes 8 v.toNat) false s with
      | .wait => .none
      | .fault a x => .fault a x
      | .ok s _ => .ok (modHead s core eng fun k => { k with phase := 2 })

/-- The next thing a copy queue does: its oldest command makes its accesses, writes its completion word, or retires once
all its writes have been performed (R277). -/
def copyAdvance (s : State) (core eng : Nat) : Adv :=
  match workCmd s core eng with
  | none => .none
  | some k =>
    match k.body with
    | .copy c =>
      if k.discard && k.phase == 0 then .ok (retireCmd s core eng 0)
      else if k.phase = 0 then
        if !mayStart s core k then .none
        else match runCopy core eng k c s with
          | .wait => .none
          | .fault v a => .fault v a
          | .ok s _ => .ok (modHead s core eng fun k => { k with phase := 1 })
      else if k.fault.isSome then .none
      else if k.phase = 1 then writeWord core eng k c s
      else if cmdWritesDone s core eng k.seq (max 5 (scopeCode c.scope)) then .ok (retireCmd s core eng 0)
      else .none
    | _ => .none

/-- COPY_RETIRE (R86): the oldest command of a queue advances as far as it can, to its retirement. -/
def execCopyRetire (core queue : Nat) (s : State) : Res :=
  let go := fun (s : State) =>
    match copyAdvance s core queue with
    | .ok s' => s'
    | _ => s
  let n := (queueAt s (queueKey core queue)).length
  let s1 := go s
  if (queueAt s1 (queueKey core queue)).length < n then .next s1
  else
    let s2 := go s1
    if (queueAt s2 (queueKey core queue)).length < n then .next s2 else .next (go s2)

/-- The copy that a waiting chained command belongs to has written its last destination byte (R94): it is past its
accesses, or has retired. -/
def chainReady (s : State) (core queue : Nat) (m : Cmd) : Bool :=
  (queueAt s (queueKey core queue)).all fun c => c.ctx != m.ctx || c.chain != some m.seq || c.phase != 0

/-- CHAIN_START (R94): the oldest waiting command chained from a queue may start. -/
def execChainStart (core queue : Nat) (s : State) : Res :=
  let q := queueAt s (queueKey core 4)
  match firstOf (fun c => c.waitChain && c.stream == queue) q with
  | none => .next s
  | some m =>
    if chainReady s core queue m && clusterRuns s (clusterOfCore core) then
      .next (setQueue s (queueKey core 4) (q.map fun c => if c.accNo = m.accNo then { c with waitChain := false } else c))
    else .next s

end Sys2Proof.Machine
end

