-- ==== Sys2Proof/Machine/Lookup.lean ====
section
/-! DEFINITION. The lookup engine: table registers, TBUILD, TLOOK, TFIN, TCHK, TSPILL, TFILL and TINV, with their checks
at issue and their effects; the retirement of its commands, and the faults of every engine (R256 to R265, R388). -/

namespace Sys2Proof.Machine

open Sys2Proof

/-! ## Table state (R256, R262) -/

/-- A table register of a crew. -/
def tableAt (c : Crew) (n : Nat) : Table := look c.tables n Table.empty

/-- Replaces a table register. -/
def setTable (s : State) (ck n : Nat) (t : Table) : State :=
  modCrew s ck fun c => { c with tables := putD c.tables n Table.empty t }

/-- A built table is stale (R256). -/
def tableStale (s : State) (c : Crew) (t : Table) : Bool :=
  t.built && (t.stale || t.src.any fun p => (genOf s c.core (c.page + p.1)).toNat != p.2)

/-- The TCHK status word (R262). -/
def tchkWord (s : State) (c : Crew) (t : Table) : Nat :=
  (if t.built then wrap 9 t.et * 2 ^ 16 else 0) + (if t.pois then 16 else 0) + (if t.nan then 8 else 0) +
    (if !t.built then 2 else if tableStale s c t then 1 else 0)

/-- The tables that a command sets (R257). -/
def CmdBody.sets (b : CmdBody) (n : Nat) : Bool :=
  match b with
  | .tbuild _ tb _ => tb == n
  | .tfill tb _ => tb == n
  | .tinv m => m.getLsbD n
  | _ => false

/-- A setter of a crew's table is unretired (R257). -/
def setterBusy (s : State) (w : Warp) (n : Nat) : Bool :=
  (queueAt s (queueKey w.core 5)).any fun c => c.crew == w.crewK && c.body.sets n

/-- A write range of the scoreboard overlaps one of some pages of a crew (R257). -/
def pagesBusy (s : State) (c : Crew) (ps : List Nat) : Bool :=
  ps.any fun p =>
    let lo := (c.page + p) * 4096
    (coreCmds s c.core).any fun y => y.entries.any fun e => e.wr && e.meets lo (lo + 4096)

/-- The crew pages that a waiting command considers: those that its table held when no setter of it was left (R257). -/
def watchedPages (w : Warp) (t : Table) : List Nat := w.tblPages.getD (t.src.map (·.1))

/-- The waits of R257: with the table once they are over. The pages are fixed when the first of them is. -/
def afterWaits (s : State) (w : Warp) (c : Crew) (n : Nat) (f : Table → Checked) : Checked :=
  let t := tableAt c n
  if setterBusy s w n then .stall s
  else if pagesBusy s c (watchedPages w t) then .stall (setWarp s w.key { w with tblPages := some (watchedPages w t) })
  else f t

/-- TBL_STALE with the table and its status (R259, R380). -/
def staleTrap (s : State) (w : Warp) (c : Crew) (n : Nat) (t : Table) : TrapReq :=
  { w.trap cTBL_STALE with tb := n, info := tchkWord s c t % 2 ^ 25 }

/-! ## TBUILD (R258) -/

/-- Steps 4 to 6 for TBUILD. -/
def tbuildPlan (x : Nat) (s : State) (w : Warp) : Checked :=
  withRec s w (bits x 0 12) fun s r c =>
    let tb := bits x 38 4
    let off := bits x 16 22
    let a := r.at off 0
    let f := a.foot [0] [1024]
    orIllegal w (!r.sp || r.rank != 1 || !accFmt r.fmt || a.offBad || footBad c.bytes f || decide (c.nTbl ≤ tb))
      (.ok s { eng := 5, body := .tbuild r tb off, entries := sbOf c false f, fp := none, weight := 6000 }
        none)

def execTbuild (c : Fin 4) (s : State) : Res :=
  .next (cmdIssue (.tbuild c) c 1 false []
    (fun _ w => bits (octWord w c 0) 42 22 != 0 || bits (octWord w c 0) 12 4 != 0)
    (fun s w => tbuildPlan (octWord w c 0) s w) noAfter s)

/-- The crew pages of a footprint. -/
def footPages (f : List (Nat × Nat)) : List Nat :=
  dedup (f.flatMap fun p => (List.range ((p.2 - 1) / 4096 - p.1 / 4096 + 1)).map (p.1 / 4096 + ·))

/-- The element values of a rank-1 scratchpad operand with their poison. -/
def vecElems (s : State) (c : Crew) (r : TRec) (n : Nat) : List (Nat × Bool) :=
  let z := fmtUnit r.fmt
  (List.range n).map fun i =>
    if i < r.dim 0 then
      let a := c.addr (r.base + i * z)
      (leNat (scrRead s c.core a z), scrAnyPoison s c.core a z)
    else (r.padVal, false)

/-- The value of an element of a float format. -/
def fltVal (fmt x : Nat) : FVal :=
  match fmtNum fmt with
  | some (.flt t) => unpack (fmtOf t) false x
  | _ => .fin false 0 0

/-- TBUILD (R133, R258). -/
def runTbuild (s : State) (ck tb : Nat) (r : TRec) : State × Flags :=
  match crewAt s ck with
  | none => (s, 0)
  | some c =>
    let es := vecElems s c r 1024
    let vs := es.map fun e => fltVal r.fmt e.1
    let et := tableExp vs
    let nan := vs.any fun v => v.isNan || v.isInf
    let t : Table :=
      { built := true
        ent := ((tableEntries et vs).zipIdx).foldl (fun m p => putD m p.2 0 (BitVec.ofInt 32 p.1)) []
        et := et, nan := nan, pois := es.any (·.2), stale := false
        src := (footPages (r.foot [0] [1024])).map fun p => (p, (genOf s c.core (c.page + p)).toNat) }
    (setTable s ck tb t, flagIf nan fNV)

/-! ## TLOOK (R259, R260) -/

/-- The field limits of TLOOK's block that name no range. -/
def tlookWordsBad (x0 x1 x2 : Nat) : Bool :=
  bits x0 44 20 != 0 || bits x0 12 4 != 0 || bits x1 56 8 != 0 || bits x1 18 14 != 0 || bits x2 56 8 != 0 ||
    bits x2 30 2 != 0 || bits x2 14 2 != 0 || bits x2 16 14 == 0

/-- Steps 4 to 8 for TLOOK. -/
def tlookPlan (x0 x1 x2 : Nat) (s : State) (w : Warp) : Checked :=
  withRec s w (bits x0 0 12) fun s r c =>
    let aci := bits x0 42 2
    let tb := bits x0 38 4
    let off := bits x0 16 22
    let cg := bits x1 32 24
    let gc := bits x1 9 9
    let gs := bits x1 0 9
    let rowc := bits x2 32 24
    let nrow := bits x2 16 14
    let qoff := bits x2 0 14
    let b := r.fmt - 0x17
    let u0 := (cg + gs) * b / 2
    let u1 := ((cg + gs + gc) * b - 1) / 2
    let a := r.at off 0
    let f := if gc = 0 then [] else a.foot [u0, rowc] [u1 + 1 - u0, nrow]
    orIllegal w
      (!r.sp || r.rank != 2 || decide (r.fmt < 0x18) || decide (0x1B < r.fmt) || footBad c.bytes f ||
        decide (c.nAcc ≤ aci) || decide (c.nTbl ≤ tb))
      (if gc = 0 ∨ 256 < gs + gc ∨ 12288 < qoff + nrow then .trap { w.trap cTBL_RANGE with tb := tb }
       else afterWaits s w c tb fun t =>
         if !t.built || tableStale s c t then .trap (staleTrap s w c tb t)
         else .ok s
           { eng := 5, body := .tlook r tb aci off cg gc gs rowc nrow qoff, entries := sbOf c false f, fp := none
             weight := 12 * (nrow * gc * b) / 1024 } none)

def execTlook (c : Fin 4) (s : State) : Res :=
  .next (cmdIssue (.tlook c) c 3 false []
    (fun _ w => tlookWordsBad (octWord w c 0) (octWord w c 1) (octWord w c 2))
    (fun s w => tlookPlan (octWord w c 0) (octWord w c 1) (octWord w c 2) s w) noAfter s)

/-- The elements of integer accumulator q (R243). -/
def acc64Keys (set q : Nat) : Nat × Nat :=
  (accKey set (q / 96) (2 * (q % 96)), accKey set (q / 96) (2 * (q % 96) + 1))

/-- An integer accumulator and its poison (R243). -/
def Crew.acc64 (c : Crew) (set q : Nat) : Int × Bool :=
  let k := acc64Keys set q
  (sext 64 ((c.accAt k.1).1 + 2 ^ 32 * (c.accAt k.2).1), (c.accAt k.1).2 || (c.accAt k.2).2)

/-- Writes an integer accumulator and its poison. -/
def Crew.setAcc64 (c : Crew) (set q : Nat) (v : Int) (p : Bool) : Crew :=
  let k := acc64Keys set q
  let x := Sys2Proof.Machine.wrap 64 v
  (c.setAcc k.1 (x % 2 ^ 32) p).setAcc k.2 (x / 2 ^ 32) p

/-- The stored entry of a table as an integer (R133). -/
def Table.stored (t : Table) (i : Nat) : Int := (look t.ent i 0).toInt

/-- A code byte and its poison (R260). -/
def codeByte (s : State) (c : Crew) (r : TRec) (k row : Nat) : Nat × Bool :=
  let co := [(k : Int), (row : Int)]
  if r.inBounds co then
    let a := c.addr (r.elemAddr co)
    (leNat (scrRead s c.core a 1), scrPoison s c.core a)
  else (r.padVal, false)

/-- The sum of one row of R260, and whether a code byte of it is poisoned. -/
def tlookRow (s : State) (c : Crew) (r : TRec) (t : Table) (cg gc gs row : Nat) : Int × Bool :=
  let b := r.fmt - 0x17
  (List.range gc).foldl (fun (x : Int × Bool) i => (List.range b).foldl (fun (x : Int × Bool) j =>
    let u := (cg + gs + i) * b + j
    let y := codeByte s c r (u / 2) row
    let n := y.1 / 2 ^ (4 * (u % 2)) % 16
    (x.1 + 2 ^ j * tableEntry t.stored (gs + i) n, x.2 || y.2)) x) (0, false)

/-- TLOOK (R260). -/
def runTlook (s : State) (ck tb aci cg gc gs rowc nrow qoff : Nat) (r : TRec) : State × Flags :=
  match crewAt s ck with
  | none => (s, 0)
  | some c =>
    let t := tableAt c tb
    let x := (List.range nrow).foldl (fun (x : Crew × Flags) i =>
      let v := tlookRow s c r t cg gc gs (rowc + i)
      let old := x.1.acc64 aci (qoff + i)
      let n := clamp64 (old.1 + v.1)
      (x.1.setAcc64 aci (qoff + i) n.1 (old.2 || v.2 || t.pois), x.2 ||| n.2)) (c, 0)
    (setCrew s ck x.1, x.2)

/-! ## TFIN (R261) -/

/-- The field limits of TFIN's block that name no range. -/
def tfinWordsBad (x0 x1 : Nat) : Bool :=
  bits x0 46 18 != 0 || bits x0 12 4 != 0 || bits x1 46 18 != 0 || bits x1 31 1 != 0 || bits x1 14 2 != 0 ||
    bits x1 32 14 == 0 || bits x0 44 2 == bits x0 42 2

/-- Steps 4 to 8 for TFIN. -/
def tfinPlan (accum : Bool) (x0 x1 : Nat) (s : State) (w : Warp) : Checked :=
  withRec s w (bits x0 0 12) fun s r c =>
    let acf := bits x0 44 2
    let aci := bits x0 42 2
    let tb := bits x0 38 4
    let off := bits x0 16 22
    let nrow := bits x1 32 14
    let foff := bits x1 16 15
    let qoff := bits x1 0 14
    let a := r.at off 0
    let f := a.foot [0] [nrow]
    orIllegal w
      (!r.sp || r.rank != 1 || r.fmt != 0x0A || a.offBad || footBad c.bytes f || decide (c.nAcc ≤ max acf aci) ||
        decide (c.nTbl ≤ tb))
      (if 12288 < qoff + nrow ∨ 24576 < foff + nrow then .trap { w.trap cTBL_RANGE with tb := tb }
       else afterWaits s w c tb fun t =>
         if !t.built then .trap (staleTrap s w c tb t)
         else .ok s
           { eng := 5, body := .tfin r tb aci acf off nrow foff qoff accum, entries := sbOf c false f, fp := none
             weight := 2000 } none)

def execTfin (c : Fin 4) (acc : Bool) (s : State) : Res :=
  .next (cmdIssue (.tfin c acc) c 2 false [] (fun _ w => tfinWordsBad (octWord w c 0) (octWord w c 1))
    (fun s w => tfinPlan acc (octWord w c 0) (octWord w c 1) s w) noAfter s)

/-- TFIN (R261). -/
def runTfin (s : State) (ck tb aci acf nrow foff qoff : Nat) (accum : Bool) (r : TRec) : State × Flags :=
  match crewAt s ck with
  | none => (s, 0)
  | some c =>
    let t := tableAt c tb
    let x := ((vecElems s c r nrow).zipIdx).foldl (fun (x : Crew × Flags) e =>
      let q := x.1.acc64 aci (qoff + e.2)
      let k := accKey acf ((foff + e.2) / 192) ((foff + e.2) % 192)
      let old := x.1.accAt k
      let v := finValue t.nan q.1 t.et (f32Val e.1.1)
      let o := if accum then addF32 old.1 v.1 else (v.1, 0)
      let p := q.2 || e.1.2 || t.pois || (accum && old.2)
      (((x.1.setAcc64 aci (qoff + e.2) 0 false).setAcc k o.1 p), x.2 ||| v.2 ||| o.2)) (c, 0)
    (setCrew s ck x.1, x.2 &&& (fNV ||| fOF ||| fUF ||| fNX))

/-! ## TCHK (R262) -/

/-- TCHK's effect: after the waits of R257 the status word is a long-latency result. -/
def tchkEff (d : Dst) (x : Nat) (s : State) (w : Warp) : Eff :=
  if w.exec = 0 then .done s
  else match crewOf s w with
    | none => .stall
    | some c =>
      match afterWaits s w c x fun _ => .wait s with
      | .wait _ => slotEff d 1 (fun s _ => (List.replicate 32 (tchkWord s c (tableAt c x)), 0)) s w
      | .stall s' => .hold s'
      | _ => .stall

/-- TCHK's word names no table register of the crew (R262). -/
def tchkBad (s : State) (w : Warp) (x : Nat) : Bool :=
  x / 16 != 0 || ((crewOf s w).map fun c => decide (c.nTbl ≤ x)).getD false

def execTchk (d : Dst) (c : Fin 4) (s : State) : Res :=
  .next (issue (.tchk d c)
    { size := 4, long := true, weight := 8, octet := some (octBase c), words := 1, uses := [dst d .w1]
      check := fun s w => trapIf (tchkBad s w (octWord w c 0)) (w.trap cILLEGAL_OPERAND) }
    (fun s w => tchkEff d (octWord w c 0) s w) s)

/-! ## TSPILL, TFILL and TINV (R263 to R265) -/

/-- TSPILL's and TFILL's word is refused (R263). -/
def spillWordBad (x : Nat) : Bool := bits x 60 4 != 0 || x % 64 != 0

/-- Step 6 for TSPILL and TFILL, which name no record. -/
def spillPlan (fill : Bool) (x : Nat) (s : State) (w : Warp) : Checked :=
  match crewOf s w with
  | none => .stall s
  | some c =>
    let tb := bits x 56 4
    let a := bits x 0 56
    orIllegal w (decide (c.nTbl ≤ tb))
      (.ok s { eng := 5, body := if fill then .tfill tb a else .tspill tb a, entries := [], fp := none
               weight := 200 + 8256 / 64 } none)

def execTspill (c : Fin 4) (s : State) : Res :=
  .next (cmdIssue (.tspill c) c 1 false [] (fun _ w => spillWordBad (octWord w c 0))
    (fun s w => spillPlan false (octWord w c 0) s w) noAfter s)

def execTfill (c : Fin 4) (s : State) : Res :=
  .next (cmdIssue (.tfill c) c 1 false [] (fun _ w => spillWordBad (octWord w c 0))
    (fun s w => spillPlan true (octWord w c 0) s w) noAfter s)

def execTinv (c : Fin 4) (s : State) : Res :=
  .next (cmdIssue (.tinv c) c 1 false [] (fun _ w => octWord w c 0 / 2 ^ 16 != 0)
    (fun s w =>
      match crewOf s w with
      | none => .stall s
      | some y =>
        let m := octWord w c 0
        orIllegal w (m / 2 ^ y.nTbl != 0)
          (.ok s { eng := 5, body := .tinv (BitVec.ofNat 16 m), entries := [], fp := none, weight := 8 }
            none)) noAfter s)

/-- The image of a table without its tag (R263). -/
def tableImage (c : Crew) (t : Table) : List Byte :=
  let p := fun i => (t.src[i]?).getD (0, 0)
  (List.range 2048).flatMap (fun i => leBytes 4 (look t.ent i 0).toNat) ++
    leBytes 8 (wrap 9 t.et * 2 ^ 16 + t.src.length * 2 ^ 5 + (if t.stale then 16 else 0) + (if t.pois then 8 else 0) +
      (if t.nan then 4 else 0) + (if t.built then 0 else 2)) ++
    leBytes 8 ((p 1).2 * 2 ^ 48 + (p 0).2 * 2 ^ 32 + (p 1).1 * 2 ^ 16 + (p 0).1) ++
    leBytes 8 c.wrap.toNat ++ List.replicate 32 0

/-- The spill tag of an image under a context's key (R263). -/
def spillTag (s : State) (ctx : Nat) (img : List Byte) : List Byte :=
  shake256 (leBytes 32 (ctxAt s ctx).spillKey.toNat ++ img) 8

/-- An image's word at a byte offset. -/
def imgWord (img : List Byte) (o : Nat) : Nat := leNat ((img.drop o).take 8)

/-- Some zero field of an image is nonzero, or its STATE or NP is none that hardware writes (R264). -/
def imageBad (c : Crew) (img : List Byte) : Bool :=
  let a := imgWord img 8192
  let b := imgWord img 8200
  let np := bits a 5 2
  bits a 25 39 != 0 || bits a 7 9 != 0 || bits a 0 1 == 1 || np == 3 || bits b 26 6 != 0 || bits b 10 6 != 0 ||
    bits (imgWord img 8208) 32 32 != 0 || (img.drop 8216).take 32 != List.replicate 32 0 ||
    (List.range np).any fun k => decide (c.pages ≤ bits b (16 * k) 10)

/-- The table of an image (R264). -/
def tableOf (c : Crew) (img : List Byte) : Table :=
  let a := imgWord img 8192
  let b := imgWord img 8200
  if bit a 1 then Table.empty
  else
    { built := true
      ent := (List.range 2048).foldl (fun m i => putD m i 0 (BitVec.ofNat 32 (leNat ((img.drop (4 * i)).take 4)))) []
      et := sext 9 (bits a 16 9), nan := bit a 2, pois := bit a 3
      src := (List.range (bits a 5 2)).map fun k => (bits b (16 * k) 10, bits b (32 + 16 * k) 16)
      stale := bit a 4 || bits (imgWord img 8208) 0 32 != c.wrap.toNat }

/-- TFILL (R264). -/
def runTfill (core : Nat) (k : Cmd) (tb va : Nat) (s : State) : Got Unit :=
  match readRange core k.ctx va 8256 false s with
  | .wait => .wait
  | .fault v a => .fault v a
  | .ok s l =>
    match crewAt s k.crew with
    | none => .ok s ()
    | some c =>
      let img := l.flatMap (·.1)
      let body := img.take 8248
      let bad := l.any (·.2) || spillTag s k.ctx body != (img.drop 8248).take 8 || imageBad c body
      .ok (setTable s k.crew tb (if bad then Table.empty else tableOf c body)) ()

/-- TSPILL (R263). -/
def runTspill (core : Nat) (k : Cmd) (tb va : Nat) (s : State) : Got Unit :=
  match crewAt s k.crew with
  | none => .ok s ()
  | some c =>
    let body := tableImage c (tableAt c tb)
    match writeRange core k.ctx 5 k.seq va false (body ++ spillTag s k.ctx body) false s with
    | .wait => .wait
    | .fault v a => .fault v a
    | .ok s _ => .ok s ()

/-- TINV (R265). -/
def runTinv (s : State) (ck : Nat) (m : BitVec 16) : State :=
  (List.range 16).foldl (fun s n => if m.getLsbD n then setTable s ck n Table.empty else s) s

/-! ## LK_RETIRE (R239) -/

/-- The effect of a lookup command with its flags. -/
def runLk (s : State) (core : Nat) (k : Cmd) : Got Flags :=
  let give := fun (r : State × Flags) => Got.ok r.1 r.2
  let plain := fun (g : Got Unit) =>
    match g with
    | .wait => Got.wait
    | .fault v a => .fault v a
    | .ok s _ => .ok s (0 : Flags)
  match k.body with
  | .tbuild r tb off => give (runTbuild s k.crew tb (r.at off 0))
  | .tlook r tb aci off cg gc gs rowc nrow qoff => give (runTlook s k.crew tb aci cg gc gs rowc nrow qoff (r.at off 0))
  | .tfin r tb aci acf off nrow foff qoff accum =>
    give (runTfin s k.crew tb aci acf nrow foff qoff accum (r.at off 0))
  | .tspill tb a => plain (runTspill core k tb a s)
  | .tfill tb a => plain (runTfill core k tb a s)
  | .tinv m => .ok (runTinv s k.crew m) 0
  | _ => .ok s 0

/-- The next thing the lk sequence does: its oldest command makes its accesses, and retires once its writes have been
performed. -/
def lkAdvance (s : State) (core : Nat) : Adv :=
  match workCmd s core 5 with
  | none => .none
  | some k =>
    if k.discard && k.phase == 0 then .ok (retireCmd s core 5 0)
    else if k.phase = 0 then
      if !mayStart s core k then .none
      else match runLk s core k with
        | .wait => .none
        | .fault v a => .fault v a
        | .ok s fl =>
          if cmdWritesDone s core 5 k.seq 5 then .ok (retireCmd s core 5 fl)
          else .ok (modHead s core 5 fun k => { k with phase := 1 })
    else if cmdWritesDone s core 5 k.seq 5 then .ok (retireCmd s core 5 0)
    else .none

/-- LK_RETIRE (R239): the oldest unretired lk command performs its accesses, and retires with its flags. -/
def execLkRetire (core : Nat) (s : State) : Res :=
  match lkAdvance s core with
  | .ok s => .next s
  | _ => .next s

/-! ## ENGINE_FAULT_PENDING (R388) -/

/-- The next thing an engine's queue or sequence does. -/
def engAdvance (s : State) (core eng : Nat) : Adv :=
  match eng with
  | 4 => mxAdvance s core
  | 5 => lkAdvance s core
  | _ => copyAdvance s core eng

/-- ENGINE_FAULT_PENDING (R388): the head of a queue or sequence meets a translation fault; the queue stalls, and a KIND 2
record is queued. -/
def execEngineFaultPending (core eng : Nat) (s : State) : Res :=
  if 5 < eng then .next s
  else match headCmd s core eng, engAdvance s core eng with
    | some c, .fault va cause => if c.fault.isSome then .next s else .next (stallHead s core eng c va cause)
    | _, _ => .next s

end Sys2Proof.Machine
end

