-- ==== Sys2Proof/Machine/Return.lean ====
section
/-! DEFINITION. Results that return, warps that end and crews that exit, fault records, and the resolve actions (R150,
R170, R173, R270, R273, R287, R307, R331, R385 to R388, R424). -/

namespace Sys2Proof.Machine

open Sys2Proof

/-! ## SLOT_RETURN (R150) -/

/-- Writes a returned result: the main registers, or an operand-file entry if its run still runs (R152). -/
def Warp.writeSlot (w : Warp) (sl : Slot) (m : Mask) (vals : List Nat) : Warp :=
  match sl.dst with
  | .none => w
  | .regs bases g => w.writeRegs bases g m fun l => vals.getD l 0
  | .ofile n => if sl.run = w.runNo then w.writeO n m fun l => vals.getD l 0 else w

/-- The loaded or returned value of a lane as the destination holds it (R170). -/
def LaneAcc.result (a : LaneAcc) (sx : Bool) : Nat := if sx then wrap 64 (sext (8 * a.size) a.val) else a.val

/-- The values of an access slot by lane. -/
def accVals (as : List LaneAcc) (sx : Bool) : List Nat :=
  laneList.map fun l => ((firstOf (fun a => a.lane == l) as).map fun a => a.result sx).getD 0

/-- The lanes of an access slot that met poison. -/
def poisonLanes (as : List LaneAcc) : Mask := maskOf fun l => as.any fun a => a.lane == l && a.pois

/-- POISON found when a slot returned (R173, R273, R386). -/
def poisonTrap (w : Warp) (sl : Slot) (as : List LaneAcc) : TrapReq :=
  let l := (lowest (poisonLanes as)).getD 0
  let a := ((firstOf (fun a => a.lane == l) as).map (·.addr)).getD 0
  { w.trapAt cPOISON l a (as.any fun a => a.op.writes) with ret := true, slot := sl.idx, pos := sl.pos }

/-- The result of an access whose lanes are all there: a load that met poison writes no lane, an atomic writes the lanes
that met none, and poison is held against the warp (R173, R273, R386). -/
def Warp.returnAccess (w : Warp) (sl : Slot) (as : List LaneAcc) (sx : Bool) : Warp :=
  let bad := poisonLanes as
  let m := if bad = 0 then sl.mask else if sl.loads then 0 else sl.mask &&& ~~~bad
  let w' := if m = 0 then w else w.writeSlot sl m (accVals as sx)
  if bad = 0 then w' else { w' with held := w'.held ++ [poisonTrap w sl as] }

/-- Performs the accesses of a slot to the warp's own scratchpad, in lane order, where nothing holds them (R171, R359);
those that acquires held at issue are checked against the range scoreboard now (R98). -/
def performLocal (s : State) (wk slot : Nat) (lanes : List Nat) : State :=
  lanes.foldl (fun s l =>
    match laneRequest s wk slot l with
    | none => s
    | some (w, sl, a) =>
      match a.loc with
      | .scratch core p false =>
        if sl.late && sbStalls s core p (p + a.size) a.op.writes then s else performScratch s w sl a core p
      | _ => s) s

/-- A slot that has returned leaves the warp, unless a relaxed store of it is still to be performed (R171). -/
def finishSlot (s : State) (w : Warp) (id : Nat) : State :=
  setWarp s w.key ((w.modSlot id fun sl => { sl with ret := true }).purge)

/-- Returns an access slot whose lanes are ready. -/
def returnAccessSlot (s : State) (wk slot : Nat) : State :=
  match warpAt s wk with
  | none => s
  | some w =>
    match w.slotAt slot with
    | none => s
    | some sl =>
      match sl.body with
      | .access as sx =>
        if sl.ret || !accessReturns s w sl then s
        else if sl.stores then finishSlot s w slot
        else finishSlot s (w.returnAccess sl as sx) slot
      | _ => s

/-- Earlier sends of the warp on the same register wait (R59, R61). -/
def sendInOrder (w : Warp) (id sr : Nat) : Bool :=
  w.slots.all fun x => decide (id ≤ x.id) || (match x.body with
    | .send m => m.sr != sr
    | _ => true)

/-- The warp's core is being vacated for its context (R391). -/
def vacated (s : State) (w : Warp) : Bool := (ctxAt s w.ctx).vacating.contains w.core

/-- An earlier outstanding instruction of the run writes the same operand-file entry: the later result returns after it,
so that a read, which waits for both, finds the later value (R106, R152). -/
def Warp.entryWaits (w : Warp) (sl : Slot) : Bool :=
  match sl.dst with
  | .ofile n => w.slots.any fun x => decide (x.id < sl.id) && !x.ret && x.run == sl.run && x.dst == .ofile n
  | _ => false

/-- A DEQ or ENQ waits on its queue, for an item or for space, and not for its own warp's earlier accesses: one that a
calving request meets is withdrawn (R289). -/
def waitsOnQueue (s : State) (w : Warp) (sl : Slot) : Bool :=
  match sl.body with
  | .deq qb once =>
    !heldBack w sl.id true && (match tryTake s w qb sl.id once with
      | .got _ _ _ _ => false
      | _ => true)
  | .enq qb dest item close => mayEnq s w sl.id qb sl.scope && (tryAppend s w qb dest item close).isNone
  | _ => false

/-- SLOT_RETURN (R150): the result of an outstanding instruction returns where its conditions hold; a held arrival or send
is released (R297, R359); a DEQ or ENQ that waits on its queue is withdrawn by a calving request (R289, R391). -/
def execSlotReturn (wk slot : Nat) (s : State) : Res :=
  match warpAt s wk with
  | none => .next s
  | some w =>
    match w.slotAt slot with
    | none => .next s
    | some sl =>
      if w.entryWaits sl then .next s
      else match sl.body with
      | .value vals fl =>
        let w' := w.writeSlot sl sl.mask vals
        .next (finishSlot s { w' with aflags := addFlags w'.aflags fl } slot)
      | .access as _ => .next (returnAccessSlot (performLocal s wk slot (as.map (·.lane))) wk slot)
      | .fence k => if fenceDone s w slot k sl.scope then .next (finishSlot s w slot) else .next s
      | .recv vals => .next (finishSlot s (w.writeSlot sl sl.mask vals) slot)
      | .status word item vc _ =>
        let w' := w.writeSlot sl sl.mask (List.replicate 32 word)
        .next (finishSlot (mergeClock s (dieOfCore w.core) vc) { w' with items := item.getD w'.items } slot)
      | .arrive b => if mayArrive s w slot sl.scope then .next (countArrival (setWarp s wk (w.dropSlot slot)) w.crewK b)
        else .next s
      | .send m =>
        if heldBack w slot false || !sendInOrder w slot m.sr then .next s
        else .next (inject (setWarp s wk (w.dropSlot slot)) m w.core)
      | .deq _ _ => if vacated s w && waitsOnQueue s w sl then .next (withdrawDeq s w sl) else .next s
      | .enq _ _ _ _ => if vacated s w && waitsOnQueue s w sl then .next (withdrawDeq s w sl) else .next s
      | _ => .next s

/-! ## WARP_END and crew exit (R307, R331) -/

/-- The table entry of an MSI-X vector masks it: bit 32 of its second word (log 99). -/
def Glob.msixMasked (g : Glob) (v : Nat) : Bool := bit (look g.msix (2 * v + 1) 0).toNat 32

/-- Raises an MSI-X vector of the host port; one that is masked stays pending (R420). -/
def raiseIrq (s : State) (v : Nat) : State :=
  modGlob s fun g =>
    { g with irqs := g.irqs ++ [v], pba := if g.msixMasked v then put g.pba v true else g.pba }

/-- Groups in ascending lowest crew id (R392). -/
def sortGroups (gs : List (List Nat)) : List (List Nat) :=
  sortBy (fun a b => decide (a.headD 0 ≤ b.headD 0)) gs

/-- A crew has exited: groups that waited for it are tried again (R392). -/
def wakeGroups (s : State) : State :=
  { s with ctxs := s.ctxs.map fun e =>
      (e.1, if e.2.noRoom.isEmpty then e.2
            else { e.2 with returning := sortGroups (e.2.returning ++ e.2.noRoom), noRoom := [] }) }

/-- The exit of a crew enters the placement stream (R332); LIVEC falls, and at 0 the launch is over, and deterministic mode
with it (R331, R395). A crew that was saved no longer counts in SAVEDC (R389). -/
def crewExit (s : State) (k : Nat) : State :=
  match crewAt s k with
  | none => s
  | some c =>
    let s := setCrew s k { c with st := .exited }
    let x := ctxAt s c.ctx
    let n := x.livec - 1
    let s := setCtx s c.ctx
      { x with livec := n, state := if n = 0 then 0 else x.state, det := n != 0 && x.det
               savedc := if c.st = .saved then x.savedc - 1 else x.savedc }
    let s := wakeGroups { s with stream := s.stream ++ [.exit c.ctx c.id] }
    if n = 0 then raiseIrq s (2 * c.ctx) else s

/-- Removes a warp that has ended: its registers come free to the quarter's waiting requests (R354), and its crew exits
after its last one (R331). -/
def removeWarp (s : State) (w : Warp) : State :=
  let s := examineRegrs { s with warps := del s.warps w.key } w.core w.quarter
  if (crewWarps s w.crewK).isEmpty then crewExit s w.crewK else s

/-- Every result has returned and every store has been accepted (R307). -/
def Warp.endDone (s : State) (w : Warp) : Bool := w.slots.isEmpty && !stagedBefore s w.key w.nextSlot 5

/-- WARP_END (R307): an ended warp's waits are over; its poison becomes records, its producer registrations and channels
go, and its slot and registers are free. A sampled execution that END CREW cut short ends with it, its records complete
(R405). -/
def execWarpEnd (k : Nat) (s : State) : Res :=
  match warpAt s k with
  | none => .next s
  | some w =>
    if w.st = .ended ∧ w.endDone s = true ∧ w.sampleOpen = false then
      let r := finishSample s w
      let s := reportHeld r.1 k r.2
      let s := modWarp s k Warp.disconnect
      match warpAt s k with
      | none => .next s
      | some w => .next (removeWarp s w)
    else .next s

/-! ## The fault ring (R387) -/

/-- The 64 bytes of a record (R387). -/
def recordBytes (r : FaultRec) : List Byte :=
  leBytes 8 (r.kind * 2 ^ 56 + r.crew % 2 ^ 16 * 2 ^ 40 + r.vcore % 2 ^ 8 * 2 ^ 32 + r.warp % 16 * 2 ^ 28 +
    r.eng % 16 * 2 ^ 24 + r.cause % 64) ++
    leBytes 8 r.addr.toNat ++ leBytes 8 r.seq ++ leBytes 8 r.info.toNat ++ List.replicate 32 0

/-- Room and mapping allow a record to be written: its physical address, and whether its page's accesses pass through
their home (R52, R387). -/
def recordPlace (s : State) (ctx : Nat) : Option (Nat × Bool) :=
  let c := ctxAt s ctx
  if (c.tail + 1) % 256 = c.head then none
  else match sysTranslate s ctx (c.frBase + 64 * c.tail) 64 .write true with
    | .ok pa pte => some (pa, pteMt pte != 0)
    | .bad _ => none

/-- The record's page walk, its line, its port, or an earlier write of the Cirque's agents (its frame's) must be waited for:
the record is not written yet (R35, R53, R66, R387). -/
def recordBlocked (s : State) (ctx : Nat) : Bool :=
  let c := ctxAt s ctx
  walkWaits s ctx (c.frBase + 64 * c.tail) || !s.mem.posted.isEmpty ||
    (match recordPlace s ctx with
     | none => false
     | some p => writeWaits s p.1 64 p.2)

/-- FAULT_RECORD_WRITE (R387): the oldest waiting record is written at TAIL, TAIL advances, and the fault interrupt is
raised. With the ring full or unwritable it waits, and is tried again when HEAD or the ring base is written. -/
def execFaultRecordWrite (ctx : Nat) (s : State) : Res :=
  let c := ctxAt s ctx
  if c.recHeld || recordBlocked s ctx then .next s
  else match c.waiting, recordPlace s ctx with
  | [], _ => .next s
  | _, none => .next (modCtx s ctx fun c => { c with recHeld := true })
  | r :: rest, some (pa, thru) =>
    let s := sysWrite (chargeAt s ctx none pa 64 thru) pa (recordBytes r) false thru (some ctx)
    .next (raiseIrq (setCtx s ctx
      { ctxAt s ctx with waiting := rest, pendRecs := c.pendRecs ++ [r], tail := (c.tail + 1) % 256 }) (2 * ctx + 1))

/-! ## Who may write what (R420 to R422, R426) -/

/-- The owner code of a master (R426). -/
def ownerCode (a : Agent) : Nat :=
  match a with
  | .host => 1
  | .bmc => 2
  | .fm => 3
  | _ => 0

/-- The agent is the owner. -/
def isOwner (s : State) (a : Agent) : Bool := ownerCode a != 0 && s.glob.owner.toNat == ownerCode a

/-- Firmware. -/
def isFw (a : Agent) : Bool := a == .fw

/-- The function of an agent: 0 the PF (R422). -/
def agentFn (a : Agent) : Option Nat :=
  match a with
  | .host => some 0
  | .vf n => some n
  | _ => none

/-- The agent may access a context's control page: CTXCFG's function, the owner and firmware (R422). -/
def mayPage (s : State) (a : Agent) (ctx : Nat) : Bool :=
  isFw a || isOwner s a || agentFn a == some (ctxAt s ctx).fn

/-- Counts a dropped write (R421, R465). -/
def countDrop (s : State) : State := modGlob s fun g => { g with drop := satAdd 32 g.drop 1 }

/-- FAULT_RING_HEAD_WRITE (R387, R422): system software advances HEAD, and a waiting record is tried again. -/
def execFaultRingHeadWrite (by_ : Agent) (ctx : Nat) (val : Word) (s : State) : Res :=
  if mayPage s by_ ctx then .next (modCtx s ctx fun c => { c with head := bits val.toNat 8 8, recHeld := false })
  else .next s

/-! ## The resolve actions (R385, R388, R424) -/

/-- Removes the first record of a list that a test accepts. -/
def dropFirst {α : Type} (p : α → Bool) (l : List α) : List α :=
  match l with
  | [] => []
  | x :: l => if p x then l else x :: dropFirst p l

/-- The fields of a resolve word: crew, virtual core, warp and engine (R424). -/
def resolveCrew (v : Word) : Nat := bits v.toNat 48 16
def resolveVcore (v : Word) : Nat := bits v.toNat 40 8
def resolveWarp (v : Word) : Nat := bits v.toNat 36 4
def resolveEng (v : Word) : Nat := bits v.toNat 32 4

/-- The resolve register keeps what was written, reserved bits zero (R424). -/
def noteResolve (s : State) (ctx : Nat) (val : Word) (act : Nat) : State :=
  modCtx s ctx fun c => { c with resolve := BitVec.ofNat 64 (bits val.toNat 32 32 * 2 ^ 32 + act) }

/-- A pending record of a stop of a crew's warps (R424): the target names the crew and its virtual core. -/
def crewRecord (v : Word) (r : FaultRec) : Bool := r.kind == 1 && r.crew == resolveCrew v && r.vcore == resolveVcore v

/-- A pending record of a warp stop. -/
def stopRecord (v : Word) (r : FaultRec) : Bool := crewRecord v r && r.warp == resolveWarp v

/-- A pending record of an engine fault. -/
def engRecord (vcore eng : Nat) (r : FaultRec) : Bool := r.kind == 2 && r.vcore == vcore && r.eng == eng

/-- Removes a pending record of a context. -/
def takeRecord (s : State) (ctx : Nat) (p : FaultRec → Bool) : State :=
  modCtx s ctx fun c => { c with pendRecs := dropFirst p c.pendRecs }

/-- A run control word keeps R149: at most 24 instructions and six slots. -/
def RunState.controlOk (r : RunState) : Bool := decide (r.pos ≤ 24) && decide (r.taken ≤ 6)

/-- The run control words of a warp as its frame holds them, that of its trap shadow too, keep R149 (R393). -/
def Warp.controlOk (w : Warp) : Bool := w.run.controlOk && w.shadow.all fun h => h.run.controlOk

/-- A warp whose frame can be read resumes from it, which its context is charged; a control word that breaks R149 makes it
fault-stop again (R385, R393, R417). -/
def retryWarp (s : State) (k : Nat) (w : Warp) : State :=
  let w' := readFrame s w
  let s := chargeFrame s w .read
  if w'.controlOk then setWarp s k { w' with st := .ready } else faultStop s k w' (w'.trap cILLEGAL_RUN)

/-- The frame of the warp that a resolve word names cannot be read now (R53, R66). -/
def retryWaits (s : State) (ctx : Nat) (val : Word) : Bool :=
  (warpAt s (warpKey (crewKey ctx (resolveCrew val)) (resolveWarp val))).any (frameWaits s)

/-- RESOLVE_RETRY_WARP (R385, R424): the stopped warp resumes from its frame at its resume point, once the frame can be read
(R53, R66). -/
def execResolveRetryWarp (by_ : Agent) (ctx : Nat) (val : Word) (s : State) : Res :=
  if !mayPage s by_ ctx || retryWaits s ctx val then .next s
  else
    let s := noteResolve s ctx val 1
    let p := stopRecord val
    let k := warpKey (crewKey ctx (resolveCrew val)) (resolveWarp val)
    match (ctxAt s ctx).pendRecs.any p, warpAt s k with
    | true, some w =>
      if w.st = .stopped then .next (retryWarp (takeRecord s ctx p) k w) else .next s
    | _, _ => .next s

/-- Ends a warp as by EXIT of all its lanes (R307, R385); one that is out of a holder takes none (R339). -/
def endWarp (s : State) (w : Warp) : State :=
  if w.st = .ended then s
  else
    let w' : Warp := { w with live := 0, exec := 0, outEnd := w.st != .running }
    setWarp s w.key w'.endNow

/-- RESOLVE_END_CREW (R385, R424): every warp of the crew ends as by EXIT. -/
def execResolveEndCrew (by_ : Agent) (ctx : Nat) (val : Word) (s : State) : Res :=
  if !mayPage s by_ ctx then .next s
  else
    let s := noteResolve s ctx val 2
    let p := crewRecord val
    let c := ctxAt s ctx
    if c.pendRecs.any p then
      .next ((crewWarps s (crewKey ctx (resolveCrew val))).foldl endWarp
        (modCtx s ctx fun c => { c with pendRecs := c.pendRecs.filter fun r => !p r }))
    else .next s

/-- The cores of a context's crews with a virtual core (R333). -/
def vcoreCore (s : State) (ctx vcore : Nat) : Option Nat :=
  ((firstOf (fun (e : Nat × Crew) => e.2.ctx == ctx && e.2.vcore == vcore && e.2.st.resident) s.crews).orElse fun _ =>
    firstOf (fun (e : Nat × Crew) => e.2.ctx == ctx && e.2.vcore == vcore) s.crews).map fun e => e.2.core

/-- RESOLVE_RETRY_ENGINE (R283, R388, R424): the stalled access is made again. A ring's STAT returns to running, or to idle
where it has nothing left to take. -/
def execResolveRetryEngine (by_ : Agent) (ctx : Nat) (val : Word) (s : State) : Res :=
  if !mayPage s by_ ctx then .next s
  else
    let s := noteResolve s ctx val 3
    let vcore := resolveVcore val
    let eng := resolveEng val
    let p := engRecord vcore eng
    if !(ctxAt s ctx).pendRecs.any p then .next s
    else if eng = 6 then
      .next (takeRecord (modCtx s ctx fun c =>
        let r := look c.rings vcore CeRing.init
        if r.fault.isSome then
          { c with rings := put c.rings vcore { r with fault := none, stat := if r.head = r.tail then 0 else 1 } }
        else c) ctx p)
    else match vcoreCore s ctx vcore with
      | none => .next s
      | some core =>
        match headCmd s core eng with
        | none => .next s
        | some c =>
          if c.ctx = ctx ∧ c.fault.isSome then
            .next (takeRecord (modHead s core eng fun c => { c with fault := none }) ctx p)
          else .next s

/-- The ring's command, taken or about to be taken, sets P if P is 0 (R278, R283). -/
def CeRing.abandonHead (r : CeRing) : CeRing :=
  let n := r.tl.t + 1
  let tl := { r.tl with next := n + 1, p := if r.tl.p = 0 then n else r.tl.p }
  { r with tl := tl, head := if r.cmd.isSome then r.head else r.head + 1 }

/-- The ring's command retires: T advances, and STAT is running while entries remain (R280, R282, R283). -/
def CeRing.retireHead (r : CeRing) : CeRing :=
  let tl := { r.tl with t := r.tl.t + 1 }
  { r with fault := none, cmd := none, phase := 0, pos := 0, stat := if r.head = r.tail then 0 else 1, tl := tl }

/-- RESOLVE_ABANDON (R278, R388, R424): the stalled command sets P and retires without effect. -/
def execResolveAbandon (by_ : Agent) (ctx : Nat) (val : Word) (s : State) : Res :=
  if !mayPage s by_ ctx then .next s
  else
    let s := noteResolve s ctx val 4
    let vcore := resolveVcore val
    let eng := resolveEng val
    let p := engRecord vcore eng
    if !(ctxAt s ctx).pendRecs.any p then .next s
    else if eng = 6 then
      .next (takeRecord (modCtx s ctx fun c =>
        let r := look c.rings vcore CeRing.init
        if r.fault.isSome then { c with rings := put c.rings vcore (r.abandonHead).retireHead }
        else c) ctx p)
    else match vcoreCore s ctx vcore with
      | none => .next s
      | some core =>
        match headCmd s core eng with
        | none => .next s
        | some c =>
          if c.ctx = ctx ∧ c.fault.isSome then
            let s := setFaultMark s core ctx eng c.seq
            .next (takeRecord (giveAccrd (retireCmd s core eng 0) c) ctx p)
          else .next s

/-- RESOLVE_CLEAR_P (R278, R388, R424): the fault mark of an engine's timeline is cleared. -/
def execResolveClearP (by_ : Agent) (ctx : Nat) (val : Word) (s : State) : Res :=
  if !mayPage s by_ ctx then .next s
  else
    let s := noteResolve s ctx val 5
    let vcore := resolveVcore val
    let eng := resolveEng val
    if eng = 6 then
      .next (modCtx s ctx fun c =>
        match look? c.rings vcore with
        | none => c
        | some r => { c with rings := put c.rings vcore { r with tl := { r.tl with p := 0 } } })
    else if 6 < eng then .next s
    else match vcoreCore s ctx vcore with
      | none => .next s
      | some core =>
        let k := tlKey core ctx eng
        .next (setTimeline s k { timelineAt s k with p := 0 })

end Sys2Proof.Machine
end

