-- ==== Sys2Proof/Machine/Walk.lean ====
section
/-! DEFINITION. The TLBs and the shoot-down register (R44, R46, R423). -/

namespace Sys2Proof.Machine

open Sys2Proof

/-! ## PAGE_WALK (R44, R46) -/

/-- A translation as a TLB of a core or die holds it. -/
def tlbEntryOf (unit ctx : Nat) (l : Leaf) : TlbEntry :=
  { unit := unit, ctx := ctx, va := l.va, size := l.size, pte := BitVec.ofNat 64 l.pte }

/-- A TLB with one more entry of a unit; the oldest of that unit beyond its size goes. -/
def tlbAdd (cap : Nat) (m : List TlbEntry) (t : TlbEntry) : List TlbEntry :=
  let others := m.filter fun x => x.unit != t.unit
  let mine := m.filter fun x => x.unit == t.unit
  t :: (mine.take (cap - 1) ++ others)

/-- A core's TLB takes a translation, 256 entries a core (R44). -/
def holdCore (s : State) (core ctx : Nat) (l : Leaf) : State :=
  modMem s fun m => { m with tlb := tlbAdd 256 m.tlb (tlbEntryOf core ctx l) }

/-- A die's shared TLB takes a translation, 8,192 entries a die (R44). -/
def holdDie (s : State) (die ctx : Nat) (l : Leaf) : State :=
  modMem s fun m => { m with dieTlb := tlbAdd 8192 m.dieTlb (tlbEntryOf die ctx l) }

/-- PAGE_WALK (R44, R46): a miss of the core's TLB is answered by the die's, or by a walk of the tables as they stand;
a walk waits for an entry whose line is being collapsed (R53); one that does not end in a translation is not held, and the access that misses takes its fault at issue (R45). -/
def execPageWalk (core ctx va : Nat) (s : State) : Res :=
  let d := dieOfCore core
  if s.mem.tlb.any (fun t => t.covers core ctx va) || transWaits s core ctx va then .next s
  else match firstOf (·.covers d ctx va) s.mem.dieTlb with
    | some t => .next (holdCore s core ctx ⟨t.va, t.size, t.pte.toNat⟩)
    | none =>
      match walk s ctx va with
      | .inl l => .next (holdCore (holdDie s d ctx l) core ctx l)
      | .inr _ => .next s

/-! ## The shoot-down register (R46, R423) -/

/-- SHOOTDOWN (R423): a write starts a shoot-down; one made while BUSY reads 1 is dropped. -/
def execShootdown (by_ : Agent) (ctx : Nat) (val : Word) (s : State) : Res :=
  if !mayPage s by_ ctx || (ctxAt s ctx).shootBusy then .next s
  else
    let v := val.toNat
    .next (modCtx s ctx fun c =>
      { c with shootVa := bits v 16 40 * 2 ^ 16, shootLsz := bits v 2 6, shootAll := bit v 1, shootBusy := true })

/-- The range of a shoot-down: its base and size (R423). -/
def shootRange (c : Ctx) : Nat × Nat :=
  let n := if c.shootAll ∨ c.shootLsz < 16 ∨ 56 < c.shootLsz then 56 else c.shootLsz
  (c.shootVa / 2 ^ n * 2 ^ n, 2 ^ n)

/-- A lane access still to be performed at an address of the range. -/
def pendingIn (base n : Nat) (a : LaneAcc) : Bool :=
  !a.done && (match a.loc with
    | .scratch _ _ _ => false
    | _ => rangesMeet base n a.addr a.size)

/-- A staged write of the context, or of an engine, has not been accepted at its home (R364). -/
def contextStaged (s : State) (ctx : Nat) : Bool :=
  (allStaged s).any fun e => !e.2.accepted && (decide (2 ^ 40 ≤ e.2.warp) || e.2.warp / 2 ^ 20 == ctx)

/-- Every access that issued under a translation of the range has been performed (R46). -/
def rangePerformed (s : State) (ctx base n : Nat) : Bool :=
  !contextStaged s ctx &&
    (allWarps s).all fun w => w.ctx != ctx || w.slots.all fun sl => !(sl.accs.any (pendingIn base n))

/-- SHOOTDOWN_COMPLETE (R46, R423): no TLB holds a translation of the range, the accesses under it have been performed,
and BUSY clears. -/
def execShootdownComplete (ctx : Nat) (s : State) : Res :=
  let c := ctxAt s ctx
  let r := shootRange c
  if c.shootBusy && rangePerformed s ctx r.1 r.2 then
    let keep := fun (t : TlbEntry) => t.ctx != ctx || !rangesMeet r.1 r.2 t.va t.size
    .next (modCtx (modMem s fun m => { m with tlb := m.tlb.filter keep, dieTlb := m.dieTlb.filter keep }) ctx
      fun c => { c with shootBusy := false })
  else .next s

end Sys2Proof.Machine
end

