-- ==== Sys2Proof/Machine/Moraine.lean ====
section
/-! DEFINITION. Memory channels, the Moraine evacuation engine on interleave sets and on cache slices, and scrubbing
(R31 to R39, R47 to R51, R431). -/

namespace Sys2Proof.Machine

open Sys2Proof

/-! ## CHANNEL_ACCESS (R35, R38) -/

/-- A write-back of the line waits behind the move of its granule (R35). -/
def lineStalled (s : State) (l : Nat) : Bool :=
  match regionSet s (l * 128 / 2 ^ 30) with
  | none => false
  | some (i, _) => (setAtIdx s i).stalled.any fun e => e.1 == l

/-- Counts a correctable error of the channel that a physical address lies in (R38). The spec gives the counter no width:
the model's does not wrap (log 85). -/
def countChanErr (s : State) (pa : Nat) : State :=
  match chanOf s pa with
  | none => s
  | some (i, c, _) =>
    let g := globalChan i c
    modMem s fun m => { m with chanErr := putD m.chanErr g 0 (look m.chanErr g 0 + 1) }

/-- A slice reads a line from its channel (R35, R47), where it has room (R6); `bad` are the flits that the read returns
beyond correction, which their channel location keeps as poisoned until they are written whole (R38, R39). -/
def fillFrom (s : State) (l : Nat) (bad : BitVec 4) : State :=
  if (lineAt s l).isSome || !((paKind (l * 128)).homed && present s (l * 128)) || sliceFull s l then s
  else
    let s := markFlits s l bad
    setLine s l (fillLine s l)

/-- The write-back of a line is charged to the context that wrote it last: its bytes at the tier, and those that cross the
spoke of an HBM stack's die (R16, R17, R417). -/
def chargeBack (s : State) (l : Nat) (x : Line) : State :=
  match x.ctx with
  | none => s
  | some c => if paKind (l * 128) = .hbm then chargeBytes s c 0 128 0 128 0 else chargeBytes s c 0 0 128 0 0

/-- A slice writes a dirty line back (R35, R48). -/
def cleanLine (s : State) (l : Nat) : State :=
  match lineAt s l with
  | none => s
  | some x => if x.dirty then setLine (writeBackLine (chargeBack s l x) l x) l { x with dirty := false } else s

/-- A slice may release a line: no die holds a replica of it, and its write-back has been performed. -/
def mayRelease (s : State) (l : Nat) (x : Line) : Bool :=
  x.vec == 0 && !collapsingOn s l && !lineStalled s l && !(x.dirty && lineMoving s l)

/-- CHANNEL_ACCESS (R35, R38): a fill, a write-back or a release reaches the channel, routed by its granule's state. -/
def execChannelAccess (line : Nat) (act : ChanAct) (s : State) : Res :=
  match act with
  | .fill => .next (fillFrom s line 0)
  | .uncorrectable f => .next (fillFrom s line f)
  | .correctable => .next (if (lineAt s line).isSome then s else fillFrom (countChanErr s (line * 128)) line 0)
  | .writeBack => .next (cleanLine s line)
  | .evict =>
    match lineAt s line with
    | none => .next s
    | some x => if mayRelease s line x then .next (dropLine (cleanLine s line) line) else .next s

/-! ## Dropping a channel (R31 to R33) -/

/-- A channel of a set is live (R33). -/
def chanLive (x : ISet) (c : Nat) : Bool := decide (c < x.n) && !x.gone.contains c && !x.failed.contains c

/-- The entries that name a channel, ascending. -/
def chanEntries (i : Nat) (x : ISet) (c : Nat) : List Nat :=
  (List.range (setT i)).filter fun e => decide ((remapEntry x e).1 = c)

/-- A channel's reserve rank is free (R32). -/
def rankFree (i : Nat) (x : ISet) (c : Nat) : Bool := x.remap.all fun e => e.2 != (c, setK i x)

/-- The channels that evacuations in progress empty. -/
def ISet.leaving (x : ISet) : List Nat := dedup ((x.moving :: x.queued).flatMap fun (m : SMap (Nat × Nat)) => m.map fun e => e.2.1)

/-- A channel is live for an evacuation: in service, and not being emptied by an earlier one (R32). -/
def chanStays (x : ISet) (c : Nat) : Bool := chanLive x c && !x.leaving.contains c

/-- A channel other than the evacuated one may receive an entry (R32). -/
def mayReceive (i : Nat) (x : ISet) (ch c : Nat) : Bool := c != ch && chanStays x c && rankFree i x c

/-- The evacuate command is refused (R32). A refused command leaves STAT at 0b10 while granules still move, and the next
command is then judged by the rule's cases alone (log 50). -/
def evacRefused (i : Nat) (x : ISet) (ch : Nat) : Bool :=
  x.stat == 1 || !x.rsv || !chanStays x ch ||
    decide (((List.range x.n).filter (mayReceive i x ch)).length < (chanEntries i x ch).length)

/-- Reassigns one entry of a channel to the next channel with a free reserve rank, beside the entries reassigned before it
(R32). -/
def reassign (i ch : Nat) (y : ISet × SMap (Nat × Nat)) (e : Nat) : ISet × SMap (Nat × Nat) :=
  match firstOf (mayReceive i y.1 ch) ((List.range y.1.n).map fun d => (y.1.rrptr + 1 + d) % y.1.n) with
  | none => y
  | some c =>
    ({ y.1 with remap := put y.1.remap e (c, setK i y.1), rrptr := c }, put y.2 e (remapEntry y.1 e))

/-- The evacuate command (R32). Where granules of an earlier evacuation still move, those of the new one follow them. -/
def evacSet (i ch : Nat) (x : ISet) : ISet :=
  let x := { x with evch := ch }
  if evacRefused i x ch then { x with stat := 2 }
  else
    let r := (chanEntries i x ch).foldl (reassign i ch) (x, [])
    let y := { r.1 with stat := 1, drops := r.1.drops + 1 }
    if y.moving.isEmpty then { y with moving := r.2, evpos := 0 } else { y with queued := y.queued ++ [r.2] }

/-- The fail command (R33). -/
def failSet (ch : Nat) (x : ISet) : ISet :=
  let x := { x with evch := ch }
  if x.stat == 1 || !chanLive x ch then { x with stat := 2 }
  else { x with failed := x.failed ++ [ch], drops := x.drops + 1, stat := 0 }

/-- SET_EVACUATE (R31, R32, R421): only firmware writes a set control register. -/
def execSetEvacuate (by_ : Agent) (set ch : Nat) (s : State) : Res :=
  if !isFw by_ then .next (countDrop s)
  else if 10 ≤ set then .next s
  else .next (modSet s set (evacSet set ch))

/-- SET_FAIL (R31, R33, R421). -/
def execSetFail (by_ : Agent) (set ch : Nat) (s : State) : Res :=
  if !isFw by_ then .next (countDrop s)
  else if 10 ≤ set then .next s
  else .next (modSet s set (failSet ch))

/-! ## Moving granules (R34, R35, R37) -/

/-- The granules of the evacuating channel: its entries in every block of the set's frames (R34). -/
def evacTotal (s : State) (i : Nat) (x : ISet) : Nat := setFrames s i x * 2 ^ 30 / (setT i * 512) * x.moving.length

/-- The region that maps a frame of a set. -/
def frameRegion (s : State) (i fr : Nat) : Option Nat :=
  firstOf (fun r => decide (regionSet s r = some (i, fr))) (s.mem.regions.map (·.1))

/-- The fold of the upper address bits of a block as its region places it; 0 for a frame that no region maps. -/
def blockFold (s : State) (i block : Nat) : Nat :=
  let off := block * (setT i * 512)
  match frameRegion s i (off / 2 ^ 30) with
  | none => 0
  | some r => hiFold i (r * 2 ^ 30 + off % 2 ^ 30)

/-- The granule that moves at a position: its block and its entry, ascending in granule number within the block
(R34). -/
def granuleAt (x : ISet) (pos : Nat) : Nat × Nat :=
  let n := x.moving.length
  (pos / n, (sortBy (fun e f => decide (e ^^^ x.fold ≤ f ^^^ x.fold)) (keysOf x.moving)).getD (pos % n) 0)

/-- The engine begins the next granule; at the first of a block it takes the block's order (R34). -/
def ISet.begin_ (x : ISet) (fold : Nat) : ISet :=
  { x with busy := true, fold := if x.evpos % x.moving.length = 0 then fold else x.fold }

/-- The channel key of the first byte of a slot of a set (R29). -/
def slotKey (i : Nat) (x : ISet) (block c rank : Nat) : Nat := chanKey i c ((block * setQ i x + rank) * 512)

/-- Copies a granule between slots with its poison; all of it is poisoned where the old channel does not answer
(R37). -/
def copyGranule (s : State) (src dst : Nat) (mute : Bool) : State :=
  modMem s fun m =>
    let ch := wrBytes m.chan dst (rdBytes m.chan src 512)
    let ps := (List.range 16).foldl
      (fun p f => putD p (dst / 32 + f) false (mute || look m.chanPois (src / 32 + f) false)) m.chanPois
    { m with chan := ch, chanPois := ps }

/-- MORAINE_GRANULE_BEGIN (R34): the engine begins the next granule of an evacuating set. -/
def execMoraineGranuleBegin (set : Nat) (s : State) : Res :=
  let x := setAtIdx s set
  if !x.moving.isEmpty && !x.busy && decide (x.evpos < evacTotal s set x) then
    .next (modSet s set fun x => x.begin_ (blockFold s set (x.evpos / x.moving.length)))
  else .next s

/-- The evacuation of a set is over: its channel is out of service (R32), and the next accepted one begins. -/
def endEvac (x : ISet) : ISet :=
  let y : ISet := { x with busy := false, mute := false, gone := x.gone ++ (x.moving.take 1).map fun e => e.2.1 }
  match x.queued with
  | [] => { y with moving := [], stat := 0 }
  | m :: q => { y with moving := m, queued := q, evpos := 0 }

/-- EVPOS (R31, R32): 0 while the granules that move are those of an earlier evacuation than the last one accepted. -/
def ISet.evposReg (x : ISet) : Nat := if x.queued.isEmpty then x.evpos else 0

/-- Performs the writes stalled behind a move, oldest first, at the new location (R35). -/
def performStalled (s : State) (set : Nat) : State :=
  let l := (setAtIdx s set).stalled
  l.foldl (fun s e => storeLine s e.1 e.2.1 e.2.2.1 e.2.2.2) (modSet s set fun x => { x with stalled := [] })

/-- MORAINE_GRANULE_COMPLETE (R34 to R37): the last write at the new location is acknowledged, EVPOS advances and the
stalled writes are performed; after the last granule the channel is out of service. -/
def execMoraineGranuleComplete (set : Nat) (s : State) : Res :=
  let x := setAtIdx s set
  if !x.busy || x.moving.isEmpty then .next s
  else
    let g := granuleAt x x.evpos
    let old := look x.moving g.2 (0, 0)
    let new := nextPlace x g.2
    let s := copyGranule s (slotKey set x g.1 old.1 old.2) (slotKey set x g.1 new.1 new.2)
      (x.mute || x.failed.contains old.1)
    let total := evacTotal s set x
    let s := modSet s set fun x => { x with busy := false, mute := false, evpos := x.evpos + 1 }
    let s := performStalled s set
    .next (if total ≤ x.evpos + 1 then modSet s set endEvac else s)

/-! ## Dropping a slice (R49 to R51) -/

/-- A slice is live (R50). -/
def sliceLive (x : SliceCtl) (n : Nat) : Bool := decide (n < 64) && !x.gone.contains n

/-- The slice-table entries that name a slice, ascending. -/
def sliceEntries (s : State) (n : Nat) : List Nat := (List.range 512).filter fun e => sliceEntry s e == n

/-- The slices that an evacuation in progress empties. -/
def SliceCtl.leaving (x : SliceCtl) : List Nat := dedup (x.moving.map fun e => look x.table e.1 (e.1 % 64))

/-- A slice is live for a new command: in service, and not being emptied by an earlier one (R50). -/
def sliceStays (x : SliceCtl) (n : Nat) : Bool := sliceLive x n && !x.leaving.contains n

/-- The evacuate command of a slice is refused (R50). A refused command leaves STAT at 0b10 while entries still move, and
the next command is then judged by the rule's cases alone (log 50). -/
def sliceRefused (x : SliceCtl) (n : Nat) : Bool :=
  x.stat == 1 || !sliceStays x n ||
    decide (((List.range 64).filter fun m => m != n && sliceStays x m).length < 32)

/-- Gives one entry of the evacuating slice its new slice (R50). -/
def reassignSlice (n : Nat) (x : SliceCtl) (e : Nat) : SliceCtl :=
  match firstOf (fun m => m != n && sliceStays x m) ((List.range 64).map fun d => (x.rrptr + 1 + d) % 64) with
  | none => x
  | some m => { x with moving := put x.moving e m, rrptr := m }

/-- The entries that name a slice, or that an evacuation in progress moves to it, ascending. -/
def entriesOf (s : State) (n : Nat) : List Nat :=
  (List.range 512).filter fun e => (look? s.mem.slices.moving e).getD (sliceEntry s e) == n

/-- The evacuate command of a slice (R50). -/
def evacSlice (s : State) (n : Nat) : State :=
  let x := { s.mem.slices with evsl := n }
  let y := if sliceRefused x n then { x with stat := 2 }
    else
      let y := (entriesOf s n).foldl (reassignSlice n) x
      { y with stat := 1, evpos := 0, drops := y.drops + 1 }
  modMem s fun m => { m with slices := y }

/-- SLICE_EVACUATE (R49, R50, R421): only firmware writes the slice control register. -/
def execSliceEvacuate (by_ : Agent) (slice : Nat) (s : State) : Res :=
  if !isFw by_ then .next (countDrop s) else .next (evacSlice s (slice % 64))

/-- The lines of a slice-table entry that its slice holds. -/
def entryLines (s : State) (e : Nat) : List Nat := (keysOf s.mem.lines).filter fun l => sliceIdx (l * 128) == e

/-- No transaction is in progress on the lines of an entry, and each can be written back (R51 steps 2 and 4). -/
def entryQuiet (s : State) (e : Nat) : Bool :=
  (s.mem.collapses.all fun c => sliceIdx (c.line * 128) != e) &&
    ((allStaged s).all fun x => !(x.2.accepted || x.2.collapsing) || sliceIdx x.2.pa != e) &&
    (entryLines s e).all fun l => !lineMoving s l && !lineStalled s l

/-- Moraine clears a line out of the old slice: its replicas collapse, a dirty line is written back, and is poisoned
in memory where the slice does not answer (R51 steps 3 and 4). -/
def moveLine (mute : Bool) (s : State) (l : Nat) : State :=
  let s := dropReplicas s l
  match lineAt s l with
  | none => s
  | some x =>
    let s := if !x.dirty then s
      else if mute then (List.range 4).foldl (fun s f => memSetPois s (l * 128 + 32 * f) true) s
      else writeBackLine (chargeBack s l x) l x
    dropLine s l

/-- The entry switches to its new slice (R51 step 5); after its last a slice is out of service, and STAT returns to 0b00
(R50). -/
def switchEntry (x : SliceCtl) (e old new : Nat) : SliceCtl :=
  let y := { x with table := putD x.table e (e % 64) new, moving := del x.moving e, evpos := x.evpos + 1 }
  let y := if y.leaving.contains old then y else { y with gone := y.gone ++ [old] }
  if y.moving.isEmpty then { y with stat := 0, mute := false } else y

/-- SLICE_ENTRY_MOVE (R51): Moraine moves the next entry of the evacuating slice. -/
def execSliceEntryMove (s : State) : Res :=
  let x := s.mem.slices
  match x.moving with
  | [] => .next s
  | (e, new) :: _ =>
    if entryQuiet s e then
      let s := (entryLines s e).foldl (moveLine x.mute) s
      .next (modMem s fun m => { m with slices := switchEntry m.slices e (look m.slices.table e (e % 64)) new })
    else .next s

/-! ## MEMORY_SCRUB (R38, R431) -/

/-- MEMORY_SCRUB (R38, R431): a scrub finds a correctable error in a flit of a channel and counts it; the corrected word
is the word's value, so that its write-back, dropped where another write came first, changes no byte. -/
def execMemoryScrub (chan flit : Nat) (_raced : Bool) (s : State) : Res :=
  if chan < 400 ∧ !look s.mem.chanPois (chan * 2 ^ 33 + flit) false then
    .next (modMem s fun m => { m with chanErr := putD m.chanErr chan 0 (look m.chanErr chan 0 + 1) })
  else .next s

end Sys2Proof.Machine
end

