-- ==== Sys2Proof/Machine/Dma.lean ====
section
/-! DEFINITION. Accesses from the host to device memory, and the region table that checks privileged writers in
deterministic mode (R35, R401, R402, R420). -/

namespace Sys2Proof.Machine

open Sys2Proof

/-! ## The region table (R401, R402) -/

/-- The privileged engines that the region table names (R401). -/
inductive Writer where
  | dma
  | ce (die : Nat)
  deriving DecidableEq, Repr

/-- The region-table entry that a context holds for a region: the one it holds for the phase, else the one in memory,
read now and held until the phase advances (R401). -/
def detEntry (s : State) (ctx i : Nat) : State × Nat :=
  let c := ctxAt s ctx
  match look? c.detHeld i with
  | some e => (s, e.toNat)
  | none =>
    let w := sysReadVa s ctx ((c.tbase + 4 * i) / 8 * 8)
    let e := bits w (32 * (i % 2)) 32
    (modCtx s ctx fun c => { c with detHeld := put c.detHeld i (BitVec.ofNat 32 e) }, e)

/-- The read of the region-table entry that the check of a flit needs must wait (R53, R66, R401). -/
def flitWaits (s : State) (ctx va : Nat) : Bool :=
  let c := ctxAt s ctx
  let f := va / 32 * 32
  let i := (f - c.wbase) / 2 ^ 21
  c.det && decide (c.wbase ≤ f) && decide (f < c.wbase + 2 ^ 33) && (look? c.detHeld i).isNone &&
    vaWaits s ctx ((c.tbase + 4 * i) / 8 * 8) 8

/-- An entry lets an engine write in a phase (R401, R402). -/
def entryAllows (e phase : Nat) (w : Writer) : Bool :=
  bits e 16 16 == phase % 2 ^ 16 && bits e 3 9 == 0 &&
    (match w with
     | .dma => bits e 12 4 == 1 && bits e 0 3 == 0
     | .ce d => bits e 12 4 == 2 && bits e 0 3 == d)

/-- A determinism event reaches firmware (R402, R405, R420). -/
def detEvent (s : State) (ctx : Nat) (l : List Nat) : State :=
  raiseIrq (modGlob s fun g => { g with detEvents := g.detEvents ++ [l] }) (2 * ctx + 1)

/-- A flit is refused: it is discarded, counted and reported (R402). -/
def refuseFlit (s : State) (ctx va : Nat) : State :=
  detEvent (modCtx s ctx fun c => { c with refused := satAdd 32 c.refused 1, lastref := va }) ctx [ctx, va]

/-- The check of one 32-byte flit that a privileged engine writes: the state after it, and whether the flit is performed
(R402). -/
def flitCheck (s : State) (ctx va : Nat) (w : Writer) : State × Bool :=
  let c := ctxAt s ctx
  let f := va / 32 * 32
  if !c.det then (s, true)
  else if f < c.wbase ∨ c.wbase + 2 ^ 33 ≤ f then (refuseFlit s ctx f, false)
  else
    let r := detEntry s ctx ((f - c.wbase) / 2 ^ 21)
    if entryAllows r.2 c.phase w then (r.1, true) else (refuseFlit r.1 ctx f, false)

/-! ## Access at the home slices -/

/-- Nothing holds a write of the host at the home of a range: no collapse is under way there, and no accepted write still
waits to be applied (R53, R366). -/
def homeQuiet (s : State) (pa n : Nat) : Bool :=
  (s.mem.collapses.all fun c => !rangesMeet (c.line * 128) 128 pa n) &&
    (allStaged s).all fun e => !e.2.accepted || !rangesMeet e.2.pa e.2.size pa n

/-- The lines of a range are read into their slices (R47). -/
def allocRange (s : State) (pa n : Nat) : State :=
  (List.range (n / 128 + 2)).foldl (fun s i =>
    let l := pa / 128 + i
    if l * 128 < pa + n then homeAlloc s (l * 128) false else s) s

/-- A range lies in the HBM window, in mapped regions and within the BAR (R420). -/
def bar2Reaches (s : State) (pa n : Nat) : Bool :=
  decide (pa + n ≤ s.glob.bar2 * 2 ^ 30) &&
    (List.range (n / 2 ^ 30 + 2)).all fun i =>
      let a := (pa / 2 ^ 30 + i) * 2 ^ 30
      decide (pa + n ≤ a) || (paKind a == .hbm && present s a)

/-- Bytes and poison as the host reads them: at their homes, where a write that has been accepted and not yet applied may still
be missing, as nothing orders the read after it (R366); beyond the package as any agent of the Cirque. -/
def hostRead (s : State) (pa n : Nat) : List Byte × Bool :=
  if (paKind pa).homed then homeRead s pa n else sysRead s pa n

/-- The last completion that the host port returned: data and the poisoned bit (R420). -/
def completeBar2 (s : State) (bs : List Byte) (ep : Bool) : State :=
  modGlob s fun g => { g with bar2Last := some (bs, ep), bar2Ur := false }

/-- An access that completes with Unsupported Request, read data all ones (R419, R420). -/
def refuseBar2 (s : State) (n : Nat) : State :=
  modGlob s fun g => { g with bar2Last := some (List.replicate n 0xFF, false), bar2Ur := true }

/-- HOST_BAR2_ACCESS (R419, R420): a read or write of the host at its home slices; one beyond the HBM window or to an
ABSENT region completes with Unsupported Request, read data all ones, and so does every AtomicOp. -/
def execHostBar2Access (pa : Nat) (r : Bar2Req) (s : State) : Res :=
  match r with
  | .atomic n => .next (refuseBar2 s n)
  | .read n =>
    if !bar2Reaches s pa n then .next (refuseBar2 s n)
    else if readWaits s pa n then .next s
    else
      let s := allocRange s pa n
      let v := hostRead s pa n
      .next (completeBar2 s v.1 v.2)
  | .write bs ep =>
    if !bar2Reaches s pa bs.length then .next (modGlob s fun g => { g with bar2Ur := true })
    else if !homeQuiet s pa bs.length then .next s
    else .next (sysWrite (modGlob s fun g => { g with bar2Ur := false }) pa bs ep)

/-! ## HOST_DMA_TRANSFER (R35, R402) -/

/-- One piece of a DMA write within a flit: translated, checked and performed (R45, R402), as a write of normal memory type
whatever its page says, which the slice absorbs (R35). -/
def dmaPiece (ctx : Nat) (s : State) (va : Nat) (bs : List Byte) : State :=
  match sysTranslate s ctx va 1 .write true with
  | .bad _ => s
  | .ok pa _ =>
    let r := flitCheck s ctx va .dma
    if r.2 then sysWrite (chargeAt r.1 ctx none pa bs.length false) pa bs false false (some ctx) else r.1

/-- The physical pieces of a DMA write can be performed now. -/
def dmaQuiet (s : State) (ctx va n : Nat) : Bool :=
  (cut32 va n).all fun p =>
    !walkWaits s ctx (va + p.1) && !flitWaits s ctx (va + p.1) &&
      (match sysTranslate s ctx (va + p.1) 1 .write true with
       | .bad _ => true
       | .ok pa _ => homeQuiet s pa p.2 && portFree s pa)

/-- One piece of a DMA read: its line is read into its slice, and the context is charged (R47, R417). -/
def dmaFetch (ctx : Nat) (s : State) (va n : Nat) : State :=
  match sysTranslate s ctx va 1 .read true with
  | .bad _ => s
  | .ok pa pte =>
    if (paKind pa).homed then homeAlloc (chargeHome s ctx none pa n (pteMt pte != 0) false) pa (pteMt pte != 0)
    else chargeOut s ctx pa n

/-- HOST_DMA_TRANSFER (R35, R402, R420): the host DMA context reads or writes device memory in the address space of a
context; each flit that it writes in deterministic mode is checked against the region table. Of a poisoned flit a DMA read
returns the stored bytes and no mark: what it returns there the spec leaves open (log 53). -/
def execHostDmaTransfer (ctx va : Nat) (r : DmaReq) (s : State) : Res :=
  match r with
  | .read n =>
    let bs := (cut32 va n).flatMap fun p =>
      match sysTranslate s ctx (va + p.1) 1 .read true with
      | .bad _ => List.replicate p.2 0xFF
      | .ok pa _ => (hostRead s pa p.2).1
    if (cut32 va n).any fun p => vaWaits s ctx (va + p.1) p.2 then .next s
    else .next (modGlob ((cut32 va n).foldl (fun s p => dmaFetch ctx s (va + p.1) p.2) s) fun g => { g with dmaLast := some bs })
  | .write bs =>
    if !dmaQuiet s ctx va bs.length then .next s
    else .next ((cut32 va bs.length).foldl (fun s p => dmaPiece ctx s (va + p.1) ((bs.drop p.1).take p.2)) s)

end Sys2Proof.Machine
end

