-- ==== Sys2Proof/Machine/Links.lean ====
section
/-! DEFINITION. The torus, the optical ports and their wavelengths, routes, the die map, and the host link (R12 to R18,
R54 to R57, R64 to R70, R394, R419, R427). -/

namespace Sys2Proof.Machine

open Sys2Proof

/-! ## The torus (R54 to R57) -/

/-- The outputs of a router: 0 X up, 1 X down, 2 Y up, 3 Y down, 4 its own clients. -/
def ringStep (here there : Nat) : Bool := decide ((there + 8 - here) % 8 ≤ 4)

/-- The output that a destination takes at a router: first along X, then along Y, the shorter way round and upwards at
distance 4 (R55). -/
def outputOf (r d : Nat) : Nat :=
  if r = d then 4
  else if r % 8 ≠ d % 8 then (if ringStep (r % 8) (d % 8) then 0 else 1)
  else if ringStep (r / 8) (d / 8) then 2 else 3

/-- The router beyond an output. -/
def nextRouter (r out : Nat) : Nat :=
  match out with
  | 0 => r / 8 * 8 + (r % 8 + 1) % 8
  | 1 => r / 8 * 8 + (r % 8 + 7) % 8
  | 2 => (r / 8 + 1) % 8 * 8 + r % 8
  | 3 => (r / 8 + 7) % 8 * 8 + r % 8
  | _ => r

/-- Packets of a class that hold slots of a router's input on a ring and direction (R56). -/
def inputUsed (ps : List Packet) (r ring : Nat) (up resp : Bool) : Nat :=
  (ps.filter fun p => p.router == r && p.ring == ring && p.up == up && p.resp == resp && p.holding.isNone).length

/-- Packets of a class in an output's holding buffer (R57). -/
def heldAt (ps : List Packet) (r out : Nat) (resp : Bool) : List Packet :=
  ps.filter fun p => p.router == r && p.holding == some out && p.resp == resp

/-- The next router has the free slots that a packet needs through an output: one to continue along its ring, two to
enter one (R56); a client of the router itself always accepts it. -/
def slotsFree (ps : List Packet) (p : Packet) (out : Nat) (entering : Bool) : Bool :=
  out == 4 ||
    decide (inputUsed ps (nextRouter p.router out) (out / 2) (out % 2 == 0) p.resp + (if entering then 2 else 1) ≤ 4)

/-- A packet continues along its ring. -/
def continues (p : Packet) (out : Nat) : Bool := p.holding.isNone && p.ring == out / 2 && p.up == (out % 2 == 0) && out != 4

/-- The packet behind an output, for the destinations that take it. -/
def Packet.through (p : Packet) (out id : Nat) (ds : List Nat) : Packet :=
  { p with id := id, router := nextRouter p.router out, ring := out / 2, up := out % 2 == 0, dests := ds, holding := none }

/-- The outputs among which a packet's destinations divide, with the destinations of each. -/
def branches (p : Packet) : List (Nat × List Nat) :=
  (List.range 5).filterMap fun o =>
    let ds := p.dests.filter fun d => outputOf p.router d == o
    if ds.isEmpty then none else some (o, ds)

/-- A branch advances now: the next router has room, and a packet that enters the output finds its holding buffer empty,
whose releases come first (R56, R57). -/
def branchGoes (ps : List Packet) (p : Packet) (o : Nat) : Bool :=
  (continues p o || (heldAt ps p.router o p.resp).isEmpty) && slotsFree ps p o (!continues p o)

/-- A branch that cannot advance finds room in its output's holding buffer (R57). -/
def branchHolds (ps : List Packet) (p : Packet) (o : Nat) : Bool := decide ((heldAt ps p.router o p.resp).length < 4)

/-- A packet advances from its input: one with a single output when there is room, a forking one when every branch
either advances or is held (R56, R57). -/
def advancePacket (l : Links) (p : Packet) : Links :=
  let ps := l.packets
  let bs := branches p
  let rest := ps.filter fun q => q.id != p.id
  match bs with
  | [(o, ds)] =>
    if branchGoes ps p o then { l with packets := if o = 4 then rest else rest ++ [p.through o p.id ds] } else l
  | _ =>
    if bs.all fun b => branchGoes ps p b.1 || branchHolds ps p b.1 then
      let new := (List.range bs.length).flatMap fun i =>
        let b := bs.getD i (4, [])
        if branchGoes ps p b.1 then (if b.1 = 4 then [] else [p.through b.1 (l.nextPacket + i) b.2])
        else [{ p with id := l.nextPacket + i, dests := b.2, holding := some b.1 }]
      { l with packets := rest ++ new, nextPacket := l.nextPacket + bs.length }
    else l

/-- The router of a client (R54): a slice has its own, n = 8 y + x; a spoke has those of its column, interleaved by line; a
DDR-5 channel has one of row 0 or 7; EX0 and EX1 have those of row 0 and of row 7, interleaved by port flit; the host port,
the management complex and the queue engines have one each. `sel` is the line or the port flit; that consecutive lines or
flits take consecutive routers is the model's choice (log 98). -/
def clientRouter (c : Client) (sel : Nat) : Option Nat :=
  match c with
  | .slice n => if n < 64 then some n else none
  | .spoke v => if v < 8 then some (sel % 8 * 8 + v) else none
  | .ddr c => if c < 8 then some c else if c < 16 then some (56 + c % 8) else none
  | .edge x => if x < 2 then some (56 * x + sel % 8) else none
  | .hostPort => some 24
  | .management => some 31
  | .queueEngine x => if x < 8 then some (32 + x) else none

/-- A client hands a packet of one to nine flits to its router (R54, R55). -/
def injectPacket (c : Client) (sel : Nat) (resp : Bool) (flits : Nat) (dests : List Nat) (s : State) : State :=
  match clientRouter c sel with
  | none => s
  | some router =>
    if 1 ≤ flits ∧ flits ≤ 9 ∧ dests ≠ [] ∧ dests.all (fun d => decide (d < 64)) = true then
      modLinks s fun l =>
        { l with nextPacket := l.nextPacket + 1, packets := l.packets ++ [
            { id := l.nextPacket, router := router, ring := 2, up := true, resp := resp, flits := flits, dests := dests
              holding := none }] }
    else s

/-- TORUS_HOP (R54 to R57): a client hands a packet to its router, or a packet advances. The hops change only time. -/
def execTorusHop (r : HopReq) (s : State) : Res :=
  match r with
  | .inject router resp flits dests => .next (injectPacket (.slice router) 0 resp flits dests s)
  | .injectFrom c sel resp flits dests => .next (injectPacket c sel resp flits dests s)
  | .advance id =>
    match firstOf (fun (p : Packet) => p.id == id && p.holding.isNone) s.links.packets with
    | none => .next s
    | some p => .next (modLinks s fun l => advancePacket l p)

/-- The packet that a holding buffer releases: the oldest of a class whose next router has two free slots (R57). Where both
classes hold one that can leave, R57 does not say which leaves first: the response does, the model's choice (log 98). -/
def releasable (ps : List Packet) (r out : Nat) : Option Packet :=
  firstSome (fun resp => match heldAt ps r out resp with
    | [] => none
    | p :: _ => if slotsFree ps p out true then some p else none) [true, false]

/-- HOLDING_BUFFER_RELEASE (R57): a held branch enters its output in arrival order. -/
def execHoldingBufferRelease (router out : Nat) (s : State) : Res :=
  match releasable s.links.packets router out with
  | none => .next s
  | some p =>
    .next (modLinks s fun l =>
      let rest := l.packets.filter fun q => q.id != p.id
      { l with packets := if out = 4 then rest else rest ++ [p.through out p.id p.dests] })

/-! ## Ports and wavelengths (R68 to R70) -/

/-- The key of a wavelength: port, direction (0 outbound, 1 inbound) and number (R420). -/
def waveKey (port dir wl : Nat) : Nat := (port * 2 + dir) * 64 + wl

/-- A wavelength's registers. -/
def waveAt (s : State) (port dir wl : Nat) : Wave := look s.links.waves (waveKey port dir wl) Wave.init

/-- Replaces a wavelength's registers. -/
def setWave (s : State) (port dir wl : Nat) (x : Wave) : State :=
  modLinks s fun l => { l with waves := putD l.waves (waveKey port dir wl) Wave.init x }

/-- The wavelength exists. -/
def waveOk (port dir wl : Nat) : Bool := decide (port < 6) && decide (dir < 2) && decide (wl < 64)

/-- The wavelengths of a port direction that are in service. -/
def wavesUp (s : State) (port dir : Nat) : Nat := ((List.range 64).filter fun l => (waveAt s port dir l).state == 0).length

/-- A port's edge boundary is in service (R9, R18). -/
def edgeUp (s : State) (port : Nat) : Bool := s.links.edge.getLsbD (port / 3)

/-- A port may be up: a partner is attached, its edge boundary is in service, and at least 32 wavelengths serve in each
direction (R18, R69). -/
def portMayServe (s : State) (port : Nat) : Bool :=
  (portAt s port).partner && edgeUp s port && decide (32 ≤ wavesUp s port 0) && decide (32 ≤ wavesUp s port 1)

/-- Sets or clears a bit of the ready register (R427). -/
def setReady (s : State) (i : Nat) (b : Bool) : State :=
  modGlob s fun g =>
    { g with ready := if b then g.ready ||| BitVec.ofNat 64 (2 ^ i) else g.ready &&& ~~~(BitVec.ofNat 64 (2 ^ i)) }

/-- An access in flight on a port that goes down: a load or atomic completes with every flit poisoned, a store is
discarded (R69). -/
def failAccess (s : State) (port : Nat) (e : Nat × Nat × LaneAcc × Nat) : State :=
  let a := e.2.2.1
  let s := doneLane s e.1 e.2.1 a.lane 0 (a.op != .store)
  if a.op == .store then setPort s port { portAt s port with lost := (portAt s port).lost + 1 } else s

/-- The accesses in flight on a port. -/
def portAccs (s : State) (port : Nat) : List (Nat × Nat × LaneAcc × Nat) :=
  (fabricAccs s).filter fun e => portOf s e.2.2.2 == some port

/-- Brings a port's state and its ready bit in line with its wavelengths (R69, R427). -/
def updatePort (s : State) (port : Nat) : State :=
  let p := portAt s port
  let up := portMayServe s port
  if up = p.up then s
  else
    let s := if up then s else (portAccs s port).foldl (fun s e => failAccess s port e) s
    drainRoutes (setReady (setPort s port { portAt s port with up := up }) (23 + port) up)

/-- Counts a training (R70), in a 64-bit counter that stays at its last value (log 85). -/
def countTraining (s : State) (port : Nat) : State :=
  setPort s port { portAt s port with trainings := satAdd 64 (portAt s port).trainings 1 }

/-- The bits of a received flit of 256 bytes that wavelength l carries: a flit is striped over the inbound wavelengths in
service (R68). -/
def flitShare (s : State) (port l : Nat) : Nat :=
  let up := (List.range 64).filter fun k => (waveAt s port 1 k).state == 0
  if up.contains l then 2048 / up.length + (if (up.filter fun k => k < l).length < 2048 % up.length then 1 else 0) else 0

/-- A wavelength's window after some more bits, of which some were corrected: a window of 2^30 bits that is full gives way
to the next, unless its count exceeds the threshold, for then the wavelength is to leave service (R69). -/
def Wave.count (x : Wave) (bits errs : Nat) : Wave :=
  if 2 ^ 30 ≤ x.winBits ∧ x.winErrs ≤ x.thresh.toNat then { x with winBits := bits, winErrs := errs }
  else { x with winBits := x.winBits + bits, winErrs := x.winErrs + errs }

/-- The inbound wavelengths of a port count the bits of a flit, with the corrected bits of one of them (R69). -/
def countFlit (s : State) (port wl errs : Nat) : State :=
  (List.range 64).foldl (fun s l =>
    let n := flitShare s port l
    if n = 0 then s else setWave s port 1 l ((waveAt s port 1 l).count n (if l = wl then errs else 0))) s

/-- OPTICAL_FLIT_RECEIVE (R65, R68 to R70): a flit is delivered in order, corrected bits are counted, and one beyond
correction is retransmitted; one with the last of another package's access leaves that access to be performed. The counters
stay at their last value (log 85). -/
def execOpticalFlitReceive (port : Nat) (rx : FlitRx) (s : State) : Res :=
  let p := portAt s port
  if !p.up then .next s
  else match rx with
    | .clean => .next (setPort (countFlit s port 0 0) port { p with rxSeq := p.rxSeq + 1 })
    | .access o r =>
      .next (modLinks (setPort (countFlit s port 0 0) port { p with rxSeq := p.rxSeq + 1 }) fun l =>
        { l with inbound := l.inbound ++ [(port, o, r)] })
    | .corrected wl bits =>
      .next (setPort (countFlit s port wl bits) port { p with rxSeq := p.rxSeq + 1, corrected := satAdd 64 p.corrected bits })
    | .uncorrected =>
      .next (setPort (countFlit s port 0 0) port { p with uncorrected := satAdd 64 p.uncorrected 1, retrans := satAdd 64 p.retrans 1 })

/-- WAVELENGTH_RETIRE (R69): a window's count of corrected bits passes the threshold, and the wavelength leaves service
and retrains. An inbound wavelength is judged by the bits counted here; the count of an outbound one is made where its
light arrives, and the partner reports it (log 92). -/
def execWavelengthRetire (port dir wl bits : Nat) (s : State) : Res :=
  let x := waveAt s port dir wl
  let n := if dir = 1 then x.winErrs else bits
  if waveOk port dir wl && x.state == 0 && decide (x.thresh.toNat < n) then
    .next (updatePort (countTraining (setWave s port dir wl { x with state := 1, winBits := 0, winErrs := 0 }) port) port)
  else .next s

/-- A photodiode reading (R70). -/
def readDiode (s : State) (port dir wl : Nat) (v : BitVec 12) : State :=
  if waveOk port dir wl then setWave s port dir wl { waveAt s port dir wl with pdmon := v } else s

/-- WAVELENGTH_TRAIN_DONE (R69, R70): a training succeeds, or fails; the third failure in a row disables the
wavelength. -/
def execWavelengthTrainDone (port dir wl : Nat) (ok : Bool) (s : State) : Res :=
  let x := waveAt s port dir wl
  if !waveOk port dir wl || x.state != 1 then .next s
  else if ok then
    if (portAt s port).partner then .next (updatePort (setWave s port dir wl { x with state := 0, fails := 0 }) port)
    else .next s
  else
    let n := min (x.fails + 1) 15
    .next (if 3 ≤ n then setWave s port dir wl { x with state := 2, fails := n }
      else countTraining (setWave s port dir wl { x with fails := n }) port)

/-- WAVELENGTH_ENABLE_WRITE (R70, R421): firmware sets the heater, starts the training of a disabled wavelength, or
disables one. -/
def execWavelengthEnableWrite (by_ : Agent) (port dir wl : Nat) (val : Word) (s : State) : Res :=
  if !isFw by_ then .next (countDrop s)
  else if !waveOk port dir wl then .next s
  else
    let x := { waveAt s port dir wl with heat := BitVec.ofNat 8 (bits val.toNat 16 8), ena := bit val.toNat 2 }
    if !x.ena then .next (updatePort (setWave s port dir wl { x with state := 2 }) port)
    else if x.state = 2 then .next (countTraining (setWave s port dir wl { x with state := 1 }) port)
    else .next (setWave s port dir wl x)

/-- OPTICAL_PARTNER_ATTACH (R69): a partner is attached, and the wavelengths that are not disabled train; or it is
removed, and the port goes down. -/
def execOpticalPartnerAttach (port : Nat) (on : Bool) (s : State) : Res :=
  if 6 ≤ port ∨ (portAt s port).partner = on then .next s
  else
    let s := setPort s port { portAt s port with partner := on }
    if !on then .next (updatePort s port)
    else .next ((List.range 128).foldl (fun s i =>
      let x := waveAt s port (i / 64) (i % 64)
      if x.state = 2 then s else countTraining (setWave s port (i / 64) (i % 64) { x with state := 1 }) port) s)

/-! ## Routes (R66, R67) -/

/-- The owner or firmware writes a privileged register of the global block or the management window (R421). -/
def mayPriv (s : State) (a : Agent) : Bool := isFw a || isOwner s a

/-- Accesses to a package are in flight. -/
def routeBusy (s : State) (p : Nat) : Bool := (fabricAccs s).any fun e => e.2.2.2 == p

/-- ROUTE_PORT_WRITE (R66, R67, R421): a route entry is written; where accesses are in flight on its old port, new ones
stall until those have drained. -/
def execRoutePortWrite (by_ : Agent) (p : Nat) (val : Word) (s : State) : Res :=
  if !mayPriv s by_ then .next (countDrop s)
  else if 128 ≤ p then .next s
  else
    let v := val.toNat
    let old := portOf s p
    let s := modLinks s fun l =>
      { l with routes := putD l.routes p 0 (BitVec.ofNat 32 (bits v 7 1 * 128 + bits v 0 3)) }
    match old with
    | none => .next s
    | some q =>
      if routeBusy s p ∧ routePort s p ≠ some q then
        .next (modLinks s fun l => { l with draining := put l.draining p q })
      else .next s

/-! ## The die map (R12 to R14, R394) -/

/-- A die's ring position would change. -/
def dieMoves (s : State) (refl : Bool) (rot : BitVec 2) (v : Nat) : Bool :=
  ringPos refl rot.toNat v != ringPos s.glob.refl s.glob.rot.toNat v

/-- A crew of a span, running or saved, lies on a die whose position would change (R14, R394). -/
def spanBlocks (s : State) (refl : Bool) (rot : BitVec 2) : Bool :=
  (allCrews s).any fun e => e.2.st != .exited && !e.2.span.isEmpty && dieMoves s refl rot (dieOfCore e.2.core)

/-- DIE_MAP_WRITE (R13, R14, R421): a write is dropped while one is pending, refused over a span, accepted and pending,
or changes nothing. -/
def execDieMapWrite (by_ : Agent) (val : Word) (s : State) : Res :=
  if !mayPriv s by_ || s.glob.dmStat == 3 then .next (countDrop s)
  else
    let refl := bit val.toNat 2
    let rot := BitVec.ofNat 2 (bits val.toNat 0 2)
    if refl = s.glob.refl ∧ rot = s.glob.rot then .next (modGlob s fun g => { g with dmStat := 1 })
    else if spanBlocks s refl rot then .next (modGlob s fun g => { g with dmStat := 2 })
    else
      let s := modGlob s fun g => { g with dmStat := 3, dmPend := some (refl, rot) }
      .next { s with stream := s.stream ++ [.dieMap true] }

/-- DIE_MAP_APPLY (R12, R14): the memory, clusters and cores of a die, its fence, its ready bits, its ring boundary and the
steering of its lanes stay with its virtual number (log 93); no warp is resident on a die whose position changes, and the pending map takes effect. -/
def execDieMapApply (s : State) : Res :=
  match s.glob.dmPend with
  | none => .next s
  | some (refl, rot) =>
    if (allWarps s).any fun w => w.st.resident && dieMoves s refl rot (dieOfCore w.core) then .next s
    else
      let s := modGlob s fun g => { g with refl := refl, rot := rot, dmStat := 1, dmPend := none }
      .next { s with stream := s.stream ++ [.dieMap false] }

/-! ## The host link (R419, R427) -/

/-- HOST_LINK_TRAINING (R419, R427): the host link trains or is lost, and ready bit 46 follows. -/
def execHostLinkTraining (up : Bool) (s : State) : Res := .next (setReady s 46 up)

end Sys2Proof.Machine
end

