-- ==== Sys2Proof/Machine/Launch.lean ====
section
/-! DEFINITION. Launches: the launch register and record, placement, the placement stream and the state in which warps
start (R321 to R336). -/

namespace Sys2Proof.Machine

open Sys2Proof

/-! ## The launch record (R323 to R326) -/

/-- The product of the extents of levels 2 up to one, both included, a fabric level counted as 1 (R324). -/
def extProduct (l : List Level) : Nat := ((l.drop 2).map fun v => if v.dom = 7 then 1 else v.ext).foldl (· * ·) 1

/-- NC, the crews of a launch (R324). -/
def crewCount (l : Launch) : Nat := extProduct l.levels

/-- The least scope code of a domain (R324). -/
def domScope (dom : Nat) : Nat := [0, 1, 1, 4, 2, 3, 5, 6].getD dom 0

/-- A level from its word (R324). -/
def levelOf (x : Nat) : Level := { ext := bits x 16 24, scope := bits x 8 3, dom := bits x 0 3 }

/-- The launch that the words of a record describe (R323 to R325). -/
def launchOf (ws : List Nat) : Launch :=
  let w := fun i => ws.getD i 0
  { entry := bits (w 0) 0 56, pcrews := bits (w 1) 48 16, role := bits (w 1) 40 2, det := bit (w 1) 35
    ftz := bit (w 1) 34, rm := BitVec.ofNat 2 (bits (w 1) 32 2), pace := bits (w 1) 24 8, ectr := bits (w 1) 16 8
    accs := bits (w 1) 5 3, tbls := bits (w 1) 0 5, fidx := bits (w 2) 54 7, firn := bits (w 2) 44 10
    wpc := bits (w 2) 39 5, regs := bits (w 2) 36 3, spages := bits (w 2) 25 11, sstk := bits (w 2) 0 16
    spbase := bits (w 3) 0 56
    levels := (List.range (bits (w 1) 12 4)).map fun i => levelOf (w (4 + i))
    queues := (List.range 16).map fun i =>
      (bits (w (12 + i)) 0 2, bits (w (12 + i)) 4 4, bits (w (12 + i)) 16 40 * 2 ^ 16) }

/-- The header's fields break R323. -/
def headerBad (ws : List Nat) (l : Launch) : Bool :=
  let w := fun i => ws.getD i 0
  let n := bits (w 1) 12 4
  bits (w 0) 56 8 != 0 || bit (w 0) 0 || bits (w 1) 42 6 != 0 || decide (2 ≤ l.role) || bits (w 1) 36 4 != 0 ||
    decide (n < 3) || decide (8 < n) || bits (w 1) 8 4 != 0 || decide (4 < l.accs) || decide (16 < l.tbls) ||
    bits (w 2) 61 3 != 0 || decide (512 < l.firn) || decide (l.wpc < 1) || decide (16 < l.wpc) ||
    decide (l.regs < 1) || decide (4 < l.regs) || decide (1024 < l.spages) || bits (w 2) 16 9 != 0 ||
    bits (w 3) 56 8 != 0 || l.spbase % 16 != 0 || (l.sstk == 0 && l.spbase != 0)

/-- A level word and its extent and scope break R324. -/
def levelBad (x : Nat) : Bool :=
  let v := levelOf x
  bits x 40 24 != 0 || bits x 11 5 != 0 || bits x 3 5 != 0 || v.ext == 0 || decide (v.scope < domScope v.dom) ||
    (v.dom == 3 && !([2, 4, 6, 8].contains v.ext))

/-- Domains rise strictly outwards (R324). -/
def domsRise (l : List Level) : Bool :=
  match l with
  | [] => true
  | [_] => true
  | a :: b :: r => decide (a.dom < b.dom) && domsRise (b :: r)

/-- The levels break R324. -/
def levelsBad (ws : List Nat) (l : Launch) : Bool :=
  let n := l.levels.length
  let v := fun i => l.levels.getD i { ext := 0, scope := 0, dom := 0 }
  (List.range 8).any (fun i => if i < n then levelBad (ws.getD (4 + i) 0) else ws.getD (4 + i) 0 != 0) ||
    !domsRise l.levels || (v 0).dom != 0 || (v 0).ext != 32 || (v 1).dom != 1 || (v 1).ext != l.wpc || (v 2).dom != 2 ||
    decide (crewCount l < 1) || decide (65535 < crewCount l)

/-- A queue word breaks R325. -/
def queueBad (x : Nat) : Bool :=
  if bits x 0 2 = 0 then x != 0
  else bits x 0 2 == 3 || bits x 56 8 != 0 || bits x 8 8 != 0 || bits x 2 2 != 0 || decide (bits x 4 4 < 4)

/-- The role and fabric fields break R326. -/
def roleBad (l : Launch) : Bool :=
  let span := l.levels.any fun v => v.dom == 3
  let fab := firstOf (fun (v : Level) => v.dom == 7) l.levels
  (l.role == 1 && (span || l.pcrews == 0 || decide (crewCount l ≤ l.pcrews))) ||
    (match fab with
     | none => l.fidx != 0
     | some v => decide (v.ext ≤ l.fidx))

/-- A malformed record (R326). -/
def recordBad (ws : List Nat) : Bool :=
  let l := launchOf ws
  headerBad ws l || levelsBad ws l || (List.range 16).any (fun i => queueBad (ws.getD (12 + i) 0)) || roleBad l

/-! ## Room on a core (R335) -/

/-- Some command that a crew's warps have had accepted is unretired. -/
def crewBusy (s : State) (k : Nat) (c : Crew) : Bool := (coreCmds s c.core).any fun d => d.crew == k

/-- An access of a partner's warp to a crew's half has issued and has not been performed (R63). -/
def remotePending (s : State) (k : Nat) : Bool :=
  (allWarps s).any fun w => (crewAt s w.crewK).any (fun c => c.partner == some k) && w.slots.any fun sl =>
    sl.accs.any fun a => !a.done && (match a.loc with
      | .scratch _ _ true => true
      | _ => false)

/-- The crews whose shares and pages on a core are in use: those resident (R335), and those that have exited while a command
of theirs is unretired (R307) or their partner's access to their half is in flight, so that neither meets another crew's
allocation (R75). -/
def coreHolders (s : State) (core : Nat) : List Crew :=
  ((allCrews s).filter fun e => e.2.core == core &&
    (e.2.st.resident || (e.2.st == .exited && (crewBusy s e.1 e.2 || remotePending s e.1)))).map (·.2)

/-- The lowest run of n free pages (R335). -/
def freeRun (cs : List Crew) (n : Nat) : Option Nat :=
  let cands := sortBy (fun a b => decide (a ≤ b)) (0 :: cs.map fun c => c.page + c.pages)
  firstOf (fun p => decide (p + n ≤ 1024) && cs.all fun c => decide (p + n ≤ c.page) || decide (c.page + c.pages ≤ p)) cands

/-- The lowest free slot of a quarter, some slots taken besides. -/
def freeSlot (s : State) (core q : Nat) (taken : List (Nat × Nat × Nat)) : Nat :=
  let used := (quarterWarps s core q).map (·.slot) ++ (taken.filter fun t => t.1 == q).map (·.2.1)
  (firstOf (fun i => !used.contains i) (List.range 16)).getD 16

/-- The warps of a quarter, and the registers they hold, some taken besides: (quarter, slot, registers). -/
def quarterLoad (s : State) (core q : Nat) (taken : List (Nat × Nat × Nat)) : Nat × Nat :=
  let t := taken.filter fun t => t.1 == q
  ((quarterWarps s core q).length + t.length,
    ((quarterWarps s core q).map (·.alloc)).foldl (· + ·) 0 + (t.map (·.2.2)).foldl (· + ·) 0)

/-- The quarter that the next warp takes: the fewest resident warps, ties to the lowest, among those with a free slot and
room for its registers (R335). -/
def pickQuarter (s : State) (core a : Nat) (taken : List (Nat × Nat × Nat)) : Option Nat :=
  let ok := (List.range 4).filter fun q =>
    decide ((quarterLoad s core q taken).1 < 16) &&
      decide ((quarterLoad s core q taken).2 + a ≤ capacity (quarterAt (coreAt s core) q))
  ok.foldl (fun (b : Option Nat) q =>
    match b with
    | none => some q
    | some p => if (quarterLoad s core q taken).1 < (quarterLoad s core p taken).1 then some q else some p) none

/-- Quarters and slots for warps of given allocations, in order; none where one finds no quarter (R335). -/
def fitWarps (s : State) (core : Nat) (allocs : List Nat) (taken : List (Nat × Nat × Nat)) :
    Option (List (Nat × Nat × Nat)) :=
  match allocs with
  | [] => some taken
  | a :: as =>
    match pickQuarter s core a taken with
    | none => none
    | some q => fitWarps s core as (taken ++ [(q, freeSlot s core q taken, a)])

/-- A core has room for a crew: the places of its warps, and its first page (R335). -/
def fitCrew (s : State) (core : Nat) (allocs : List Nat) (pages accs tbls firn : Nat) :
    Option (List (Nat × Nat × Nat) × Nat) :=
  let cs := coreHolders s core
  let sum := fun (f : Crew → Nat) => (cs.map f).foldl (· + ·) 0
  if 4 < sum (·.nAcc) + accs ∨ 16 < sum (·.nTbl) + tbls ∨ 512 < sum (·.nFirn) + firn then none
  else
    match fitWarps s core allocs [], freeRun cs pages with
    | some ws, some p => some (ws, p)
    | _, _ => none

/-- Room for a crew of a launch (R335). -/
def fitLaunch (s : State) (core : Nat) (l : Launch) : Option (List (Nat × Nat × Nat) × Nat) :=
  fitCrew s core (List.replicate l.wpc (16 * l.regs)) l.spages l.accs l.tbls l.firn

/-! ## Placement (R333, R334, R336) -/

/-- Where placement stands: the state with the crews placed so far, the crews of the launch on each core, and the die or
cluster that each instance of a level is fixed to (key: level × 2^16 + instance), with the second die of a span. -/
structure Placing where
  st : State
  n : SMap Nat
  fixed : SMap Nat
  other : SMap Nat

/-- The cores that a context may use: eligible and not withheld (R333, R390). -/
def usableCores (s : State) (ctx : Nat) : List Nat :=
  (eligibleCores s ctx).filter fun c => !(ctxAt s ctx).withheld.contains c

/-- The instance of a cluster, die or span level that a crew belongs to (R324, R336). -/
def instanceOf (l : Launch) (lev k : Nat) : Nat :=
  if (l.levels.getD lev { ext := 1, scope := 0, dom := 0 }).dom = 3 then
    k / (l.levels.getD lev { ext := 1, scope := 0, dom := 0 }).ext
  else k / extProduct (l.levels.take (lev + 1))

/-- The span level of a launch: its level number and extent. -/
def spanLevel (l : Launch) : Option (Nat × Nat) :=
  firstOf (fun p => (l.levels.getD p.1 { ext := 1, scope := 0, dom := 0 }).dom == 3)
    ((List.range l.levels.length).map fun i => (i, (l.levels.getD i { ext := 1, scope := 0, dom := 0 }).ext))

/-- A ring boundary between a die and the next is in service (R15, R18). -/
def ringUp (s : State) (v : Nat) : Bool := s.links.ring.getLsbD (v % 8)

/-- The second die of a span that begins on die A (R336). -/
def spanDie (s : State) (cores : List Nat) (room : Nat → Bool) (a : Nat) : Option Nat :=
  let has := fun v => cores.any fun c => dieOfCore c == v && room c
  if ringUp s a && has ((a + 1) % 8) then some ((a + 1) % 8)
  else if ringUp s (a + 7) && has ((a + 7) % 8) then some ((a + 7) % 8)
  else none

/-- A core meets the level constraints of a crew other than the span's (R336). -/
def levelsAllow (p : Placing) (l : Launch) (k core : Nat) : Bool :=
  (l.role != 1 || isPrompt (dieOfCore core) == decide (k < l.pcrews)) &&
    (List.range l.levels.length).all fun i =>
      let d := (l.levels.getD i { ext := 1, scope := 0, dom := 0 }).dom
      let at_ := if d = 4 then clusterOfCore core else dieOfCore core
      !(d == 4 || d == 5) || look p.fixed (i * 2 ^ 16 + instanceOf l i k) at_ == at_

/-- A core meets the span constraint of a crew (R336). -/
def spanAllows (p : Placing) (ctx : Nat) (l : Launch) (k core : Nat) : Bool :=
  match spanLevel l with
  | none => true
  | some (i, e) =>
    let key := i * 2 ^ 16 + k / e
    match look? p.fixed key with
    | none =>
      (spanDie p.st (usableCores p.st ctx) (fun c => (fitLaunch p.st c l).isSome) (dieOfCore core)).isSome
    | some a => dieOfCore core == (if k % e % 2 = 0 then a else look p.other key a)

/-- (n + 1) × 128 / w of a core does not exceed that of another; ties keep the first (R334). -/
def loadBefore (s : State) (n : SMap Nat) (a b : Nat) : Bool :=
  decide ((look n a 0 + 1) * liveWidth s b ≤ (look n b 0 + 1) * liveWidth s a)

/-- The core of a list with the least load, ties to the lowest number (R334). -/
def leastLoaded (s : State) (n : SMap Nat) (l : List Nat) : Option Nat :=
  l.foldl (fun (b : Option Nat) c =>
    match b with
    | none => some c
    | some p => if loadBefore s n p c then some p else some c) none

/-- A core's index in a list. -/
def indexOf (l : List Nat) (c : Nat) : Nat := (l.takeWhile fun x => x != c).length

/-- The barriers of a new crew (R292). -/
def newBarriers (wpc : Nat) (far : Bool) : List Barrier :=
  List.replicate 16 { count := wpc, far := far, ph := false, arrivals := 0, farGot := [], farNext := [], posted := false }

/-- A new crew (R237, R292, R330). -/
def newCrew (ctx k core vcore page : Nat) (l : Launch) : Crew :=
  let e := ((spanLevel l).map (·.2)).getD 0
  let base := if e = 0 then 0 else k / e * e
  { ctx := ctx, id := k, core := core, vcore := vcore, wpc := l.wpc, page := page, pages := l.spages
    nAcc := l.accs, nTbl := l.tbls, nFirn := l.firn, st := .live
    span := (List.range e).map fun j => crewKey ctx (base + j)
    partner := if e = 0 then none else some (crewKey ctx (if (k - base) % 2 = 0 then k + 1 else k - 1))
    bars := newBarriers l.wpc (e != 0), acc := [], accPois := [], tables := [], firn := [], wrap := 0
    img := [], imgPois := [], imgGen := [], imgTl := [] }

/-- A new warp (R101, R106, R330): it starts once its die's replica has applied the launch. -/
def newWarp (ctx k core i : Nat) (q : Nat × Nat × Nat) (l : Launch) : Warp :=
  { ctx := ctx, crew := k, idx := i, core := core, quarter := q.1, slot := q.2.1, st := .unstarted
    alloc := 16 * l.regs, main := [], ue := [], xr := [], run := RunState.start, code := none
    exec := BitVec.allOnes 32, live := BitVec.allOnes 32, stack := [], spilled := 0
    spBase := l.spbase + 16 * l.sstk * (k * l.wpc + i), spSize := l.sstk, pc := l.entry, slots := [], nextSlot := 0
    runNo := 0, prio := 3
    aflags := BitVec.ofNat 12 ((if l.ftz then 1 else 0) * 2 ^ 11 + l.rm.toNat * 2 ^ 8)
    items := List.replicate 4 0, tcause := 0, taddr := 0, tinfo := 0, tm := false, escr := List.replicate 4 0
    shadow := none, back := none, prog := 0, send := [], recv := [], recvBound := 0, producer := 0, held := []
    pend := none, lastStart := none, promoted := false, committed := 0, sample := none, calveWait := false }

/-- Some pages of a scratchpad hold zero without poison. -/
def wipePages (s : State) (core page n : Nat) : State :=
  let lo := scrKey core (page * 4096)
  let hi := lo + n * 4096
  { s with scr := s.scr.filter (fun e => decide (e.1 < lo) || decide (hi ≤ e.1))
           scrPois := s.scrPois.filter fun e => decide (e.1 < lo / 32) || decide (hi / 32 ≤ e.1) }

/-- A new crew's allocation reads as zero without poison, and each page counts as written (R75, R77). -/
def clearPages (s : State) (core page n : Nat) : State :=
  bumpPages (wipePages s core page n) core ((List.range n).map fun i => page + i)

/-- Places crew k on a core with its warps: the next placement entry is the launch that starts it (R332). -/
def placeCrew (s : State) (ctx k core vcore : Nat) (l : Launch) (f : List (Nat × Nat × Nat) × Nat) : State :=
  let s := clearPages s core f.2 l.spages
  let s := setCrew s (crewKey ctx k) { newCrew ctx k core vcore f.2 l with entry := s.stream.length }
  (List.range l.wpc).foldl (fun s i =>
    let w := newWarp ctx k core i (f.1.getD i (0, 0, 0)) l
    setWarp s w.key w) s

/-- Fixes the instances of a crew's levels to its core (R336). -/
def fixLevels (p : Placing) (ctx : Nat) (l : Launch) (k core : Nat) : Placing :=
  (List.range l.levels.length).foldl (fun p i =>
    let d := (l.levels.getD i { ext := 1, scope := 0, dom := 0 }).dom
    let key := i * 2 ^ 16 + instanceOf l i k
    if (look? p.fixed key).isSome then p
    else if d = 4 then { p with fixed := put p.fixed key (clusterOfCore core) }
    else if d = 5 then { p with fixed := put p.fixed key (dieOfCore core) }
    else if d = 3 then
      let a := dieOfCore core
      let b := (spanDie p.st (usableCores p.st ctx) (fun c => (fitLaunch p.st c l).isSome) a).getD a
      { p with fixed := put p.fixed key a, other := put p.other key b }
    else p) p

/-- One crew of R334's loop; none refuses the launch. -/
def placeNext (ctx : Nat) (l : Launch) (p : Placing) (k : Nat) : Option Placing :=
  let cand := (usableCores p.st ctx).filter fun c =>
    levelsAllow p l k c && (fitLaunch p.st c l).isSome && spanAllows p ctx l k c
  match leastLoaded p.st p.n cand with
  | none => none
  | some c =>
    match fitLaunch p.st c l with
    | none => none
    | some f =>
      let p := fixLevels p ctx l k c
      some { p with
        st := placeCrew p.st ctx k c (indexOf (eligibleCores p.st ctx) c) l f
        n := put p.n c (look p.n c 0 + 1) }

/-- Places every crew of a launch in ascending crew id (R334). -/
def placeAll (ctx : Nat) (l : Launch) (ks : List Nat) (p : Placing) : Option Placing :=
  match ks with
  | [] => some p
  | k :: ks =>
    match placeNext ctx l p k with
    | none => none
    | some p => placeAll ctx l ks p

/-! ## LAUNCH_WRITE and LAUNCH_RECORD_READ (R327 to R329) -/

/-- LAUNCH_WRITE (R327, R329): busy while a launch is there, else the record is read. -/
def execLaunchWrite (by_ : Agent) (ctx : Nat) (val : Word) (s : State) : Res :=
  if !mayPage s by_ ctx then .next s
  else if (ctxAt s ctx).state ≠ 0 then .next (modCtx s ctx fun c => { c with err := 1 })
  else .next (modCtx s ctx fun c => { c with raddr := bits val.toNat 6 50 * 64, state := 1 })

/-- The words 0 to 27 of a launch record, in pieces of 64 bytes; none for a record fault (R329 steps 2 and 3). -/
def recordWords (s : State) (ctx : Nat) : Option (List Nat) :=
  let c := ctxAt s ctx
  let parts := (List.range 4).map fun i =>
    match sysTranslate s ctx (c.raddr + 64 * i) 1 .read c.prv with
    | .bad _ => none
    | .ok pa _ =>
      let r := sysRead s pa (if i = 3 then 32 else 64)
      if (paKind pa).homed && !r.2 then some r.1 else none
  if parts.all Option.isSome then
    let bs := parts.flatMap fun p => p.getD []
    some ((List.range 28).map fun i => leNat ((bs.drop (8 * i)).take 8))
  else none

/-- The read of a launch record must wait (R53, R66). -/
def launchWaits (s : State) (ctx : Nat) : Bool :=
  (List.range 4).any fun i => vaWaits s ctx ((ctxAt s ctx).raddr + 64 * i) 64

/-- A refused launch (R329 step 3). -/
def refuseLaunch (s : State) (ctx err : Nat) : State := modCtx s ctx fun c => { c with err := err, state := 0 }

/-- A queue as a launch binds it: the items that wait in a ticket queue stay, deliverable in phase 0 and numbered from 0
(R325, R338, R398, R403). -/
def bindQueue (old : Queue) (b : Nat × Nat × Nat) : Queue :=
  let keep := if b.1 = 2 ∧ old.cls ≠ 1 then old.items else []
  let items := keep.map fun e =>
    (e.1, (List.range e.2.length).map fun j =>
      let x := e.2.getD j { data := [], tile := 0, seg := 0, num := 0, ticket := 0, phase := 0, vc := [] }
      let before := ((keep.filter fun f => decide (f.1 < e.1)).map fun f => f.2.length).foldl (· + ·) 0
      { x with num := before + j, ticket := j, phase := 0 })
  { cls := b.1, logcap := b.2.1, closed := false, everProd := false, items := items
    tickets := items.map fun e => (e.1, e.2.length)
    appended := (items.map fun e => e.2.length).foldl (· + ·) 0, shadow := [] }

/-- Clears what the context's earlier launch left: its crews, and messages for warps that are gone. -/
def clearContext (s : State) (ctx : Nat) : State :=
  let s := { s with crews := s.crews.filter fun e => e.2.ctx != ctx }
  modLinks s fun l =>
    { l with msgs := l.msgs.filter (fun m => m.dst / 2 ^ 20 != ctx)
             credits := l.credits.filter (fun c => c.1 / 2 ^ 20 != ctx)
             far := l.far.filter fun f => f.dst / 2 ^ 16 != ctx }

/-- The context as a launch starts it (R318, R329 step 4, R396, R397). No event creates a context: its timelines and its
overflow counter go on from an earlier launch (R86 leaves open what context creation is; log 45). -/
def startContext (s : State) (ctx : Nat) (l : Launch) : State :=
  modCtx s ctx fun c =>
    let qs := (List.range 16).map fun i =>
      (i, bindQueue (look c.queues i { cls := 0, logcap := 0, closed := false, everProd := false, items := []
                                       tickets := [], appended := 0, shadow := [] }) (l.queues.getD i (0, 0, 0)))
    { c with launch := some l, placed := crewCount l, livec := crewCount l, err := 0, state := 2, det := l.det
             phase := 0, detHeld := [], digests := [], savedc := 0, groups := [], returning := [], noRoom := [], queues := qs }

/-- LAUNCH_RECORD_READ (R329): the record is read and checked, and the launch is refused, or placed and started. It waits
for the commands that an earlier launch of the context left. -/
def execLaunchRecordRead (ctx : Nat) (s : State) : Res :=
  if (ctxAt s ctx).state ≠ 1 || (s.queues.any fun q => q.2.any fun c => c.ctx == ctx) || launchWaits s ctx then .next s
  else match recordWords s ctx with
    | none => .next (refuseLaunch s ctx 2)
    | some ws =>
      if recordBad ws then .next (refuseLaunch s ctx 3)
      else
        let l := launchOf ws
        match placeAll ctx l (List.range (crewCount l)) { st := clearContext s ctx, n := [], fixed := [], other := [] } with
        | none => .next (refuseLaunch s ctx 4)
        | some p =>
          let s := startContext p.st ctx l
          .next { s with stream := s.stream ++ [.launch ctx l (ctxAt s ctx).clusters] }

/-! ## PLACEMENT_ENTRY_APPLY (R332) -/

/-- The warps of a die that placement entry v, applied to its replica, lets start: those of the crews that it placed
(R332). -/
def startWarps (s : State) (die v : Nat) : State :=
  { s with warps := s.warps.map fun e =>
      if e.2.st == .unstarted && dieOfCore e.2.core == die && (crewAt s e.2.crewK).any fun c => c.entry == v then
        (e.1, { e.2 with st := .ready })
      else e }

/-- PLACEMENT_ENTRY_APPLY (R332): a die applies the next entry of the stream to its replica, and starts the crews of a
launch or resumption that fall on its own cores. -/
def execPlacementEntryApply (die : Nat) (s : State) : Res :=
  let v := look s.versions die 0
  if 8 ≤ die then .next s
  else match s.stream[v]? with
    | none => .next s
    | some e =>
      let s := { s with versions := put s.versions die (v + 1) }
      match e with
      | .launch _ _ _ => .next (startWarps s die v)
      | .resume _ _ => .next (startWarps s die v)
      | _ => .next s

end Sys2Proof.Machine
end

