-- ==== Sys2Proof/Machine/Calve.lean ====
section
/-! DEFINITION. Calving requests: stopping and saving the crews of chosen cores, the context area, and the resumption of
saved groups (R266, R337, R349, R389 to R393). -/

namespace Sys2Proof.Machine

open Sys2Proof

/-! ## Stopping the warps of a core (R391 steps 1 and 2) -/

/-- A warp stops for a save: a run in a holder at the boundary where it stands; a SLEEP ends (R315, R391). -/
def stopWarp (s : State) (w : Warp) : State :=
  let s := setWarp s w.key w.stopRun
  match w.st with
  | .blocked (.sleep _) => retire (modWarp s w.key fun w => { w with st := .blocked .done }) w.key { size := 4, weight := 4 }
  | _ => s

/-- A calving request reaches a warp: it stops, unless a trap handler of it runs on (R391). On a core out of service
nothing runs on (R349). -/
def calveWarp (s : State) (w : Warp) : State :=
  if w.tm && (coreAt s w.core).inService && w.st != .stopped then setWarp s w.key { w with calveWait := true }
  else stopWarp s w

/-- A context begins to vacate some of its cores. -/
def vacate (s : State) (ctx : Nat) (cores : List Nat) : State :=
  let s := modCtx s ctx fun c => { c with cstat := 1, calveAt := s.time, vacating := dedup (c.vacating ++ cores) }
  (allWarps s).foldl (fun s w => if w.ctx = ctx ∧ cores.contains w.core = true then calveWarp s w else s) s

/-- The cores that hold a live crew of a context's launch, descending (R390). -/
def runningCores (s : State) (ctx : Nat) : List Nat :=
  ((List.range 192).filter fun n => (coreCrews s n).any fun c => c.ctx == ctx).reverse

/-- A core holds a crew of a span with a crew on one of some cores (R390). -/
def spanShares (s : State) (ctx : Nat) (cores : List Nat) (n : Nat) : Bool :=
  (coreCrews s n).any fun c => c.ctx == ctx && c.span.any fun k =>
    (crewAt s k).any fun d => d.st.resident && cores.contains d.core

/-- Some cores closed over spans (R390 step 2). -/
def closeSpans (s : State) (ctx : Nat) (fuel : Nat) (cores : List Nat) : List Nat :=
  match fuel with
  | 0 => cores
  | n + 1 =>
    let more := (runningCores s ctx).filter fun c => !cores.contains c && spanShares s ctx cores c
    if more.isEmpty then cores else closeSpans s ctx n (cores ++ more)

/-- Every write of the calving control register stores N (R389). -/
def storeN (s : State) (ctx n : Nat) : State := modCtx s ctx fun c => { c with calveN := n % 256 }

/-- A calve command (R389, R390, R391): it is refused, or enters the placement stream, chooses cores, which become
withheld, and begins to save their crews. -/
def calveCores (s : State) (ctx n : Nat) : State :=
  let c := ctxAt s ctx
  let s := storeN s ctx n
  if c.cstat = 1 ∨ n % 256 = 0 ∨ c.state ≠ 2 then modCtx s ctx fun c => { c with cstat := 2 }
  else
    let s := { s with stream := s.stream ++ [.calve ctx (n % 256)] }
    let cores := closeSpans s ctx 192 ((runningCores s ctx).take (n % 256))
    vacate (modCtx s ctx fun c => { c with withheld := dedup (c.withheld ++ cores) }) ctx cores

/-- CALVE_COMMAND (R389): the owner and firmware write the register. -/
def execCalveCommand (by_ : Agent) (ctx n : Nat) (s : State) : Res :=
  if mayPriv s by_ then .next (calveCores s ctx n) else .next s

/-- GRACE_EXPIRE (R391): the grace has passed, and a warp that ran on in its handler is stopped. -/
def execGraceExpire (k : Nat) (s : State) : Res :=
  match warpAt s k with
  | none => .next s
  | some w =>
    let c := ctxAt s w.ctx
    if w.calveWait && decide (c.calveAt + 1000 * min c.grace 1000 ≤ s.time) then .next (stopWarp s w) else .next s

/-! ## Saving (R391 to R393) -/

/-- A warp can be saved: it is out of its holder, its results have returned, and no trap of it waits. -/
def warpSavable (w : Warp) : Bool :=
  w.slots.isEmpty && !w.calveWait && w.pend.isNone && (match w.st with
    | .running => false
    | .ended => false
    | _ => true)

/-- The crews of a context that a request saves. -/
def vacatedCrews (s : State) (ctx : Nat) : List (Nat × Crew) :=
  let c := ctxAt s ctx
  (allCrews s).filter fun e => e.2.ctx == ctx && e.2.st.resident && c.vacating.contains e.2.core

/-- The address and size of a crew's record (R393). -/
def recordRange (s : State) (c : Crew) : Option (Nat × Nat) :=
  (ctxAt s c.ctx).launch.map fun l => ((ctxAt s c.ctx).caBase + c.id * crsz l, crsz l)

/-- The walk of some page of a crew's record must wait, so that it cannot be written now (R53, R66). -/
def recordWalks (s : State) (c : Crew) : Bool := (recordRange s c).any fun r => rangeWalks s c.ctx r.1 r.2

/-- A crew's record cannot be read now (R53, R66). -/
def recordUnread (s : State) (c : Crew) : Bool := (recordRange s c).any fun r => rangeWaits s c.ctx r.1 r.2

/-- Every crew to be saved is quiet: its warps can be saved and its commands have retired (R391 steps 2 and 3). -/
def saveReady (s : State) (ctx : Nat) : Bool :=
  (vacatedCrews s ctx).all fun e =>
    (crewWarps s e.1).all warpSavable && !crewBusy s e.1 e.2 && !recordWalks s e.2 &&
      (crewWarps s e.1).all fun w => !stagedBefore s w.key w.nextSlot 5

/-- The T and P of cq0 to cq3, mx and lk of a context on a core (R392). -/
def coreTimelines (s : State) (core ctx : Nat) : List (Nat × Nat) :=
  (List.range 6).map fun e => ((timelineAt s (tlKey core ctx e)).t, (timelineAt s (tlKey core ctx e)).p)

/-- A barrier as one word of the header. -/
def barrierWord (b : Barrier) : Nat :=
  b.count + (if b.far then 2 ^ 5 else 0) + (if b.ph then 2 ^ 6 else 0) + (if b.posted then 2 ^ 7 else 0) + b.arrivals * 2 ^ 8

/-- A Firn region descriptor as four words of the header. -/
def firnWords (f : Firn) : List Nat :=
  let st := match f.st with
    | .invalid => 0
    | .loading => 1
    | .valid => 2
  [st + f.fmt * 2 ^ 8 + f.handle * 2 ^ 16, wrap 64 f.c0, wrap 64 f.c1, f.funit + f.ng * 2 ^ 32]

/-- The words of a crew record's header by their offsets (R393); the state word is 0 for a live crew, 1 for a saved one and 2
for one that has exited, the model's codes (log 24). -/
def headerWords (s : State) (c : Crew) : List (Nat × Nat) :=
  [(0, c.id), (8, c.vcore), (16, (c.partner.map (· % 2 ^ 16)).getD (2 ^ 64 - 1)), (24, 1)] ++
    (List.range 6).flatMap (fun i =>
      let t := (coreTimelines s c.core c.ctx).getD i (0, 0)
      [(0x40 + 16 * i, t.1), (0x48 + 16 * i, t.2)]) ++
    (List.range 16).map (fun i => (0x100 + 8 * i, ((c.bars[i]?).map barrierWord).getD 0)) ++
    (List.range 8).flatMap (fun r =>
      (List.range 4).map fun i => (0x180 + 32 * r + 8 * i, (firnWords (look c.firn r Firn.invalid)).getD i 0)) ++
    [(0x280, c.wrap.toNat)] ++
    (List.range ((c.pages + 3) / 4)).map fun i =>
      (0x800 + 8 * i, leNat ((List.range 4).flatMap fun j => leBytes 2 (if 4 * i + j < c.pages then (genOf s c.core (c.page + 4 * i + j)).toNat else 0)))

/-- The image of an accumulator set: its elements, then its poison bitmap (R393). -/
def accImage (c : Crew) (i : Nat) : List Byte :=
  (List.range 24576).flatMap (fun e => leBytes 4 (look c.acc (i * 24576 + e) 0).toNat) ++
    (List.range 3072).map fun b =>
      BitVec.ofNat 8 ((List.range 8).map fun j => if look c.accPois (i * 24576 + 8 * b + j) false then 2 ^ j else 0).sum

/-- The poison marks of a crew's scratchpad pages, 16 bytes a page (R393). -/
def markImage (s : State) (c : Crew) : List Byte :=
  (List.range (16 * c.pages)).map fun b =>
    BitVec.ofNat 8 ((List.range 8).map fun j => if scrPoison s c.core (c.addr (32 * (8 * b + j))) then 2 ^ j else 0).sum

/-- The virtual address of a crew's record (R393). -/
def recordVa (s : State) (ctx id : Nat) (l : Launch) : Nat := (ctxAt s ctx).caBase + id * crsz l

/-- Writes a crew's record where the context area is mapped and writable, which its context is charged (R391 step 4, R393,
R417). -/
def writeRecord (s : State) (k : Nat) (c : Crew) : State :=
  match (ctxAt s c.ctx).launch with
  | none => s
  | some l =>
    let va := recordVa s c.ctx c.id l
    if !rangeMapped s c.ctx va (crsz l) .write then s
    else
      let s := chargeMicro s c.ctx (dieOfCore c.core) va (crsz l) .write
      let s := (headerWords s c).foldl (fun s w => sysWriteVa s c.ctx (va + w.1) (leBytes 8 w.2)) s
      let s := (crewWarps s k).foldl writeFrame s
      let s := (List.range c.nAcc).foldl (fun s i => sysWriteVa s c.ctx (va + areaAO l + 0x19000 * i) (accImage c i)) s
      let s := (List.range c.nTbl).foldl (fun s i =>
        sysWriteVa s c.ctx (va + areaTO l + 0x2100 * i) (tableImage c (look c.tables i Table.empty) ++ List.replicate 8 0)) s
      let s := sysWriteVa s c.ctx (va + areaSO l) (scrRead s c.core (c.addr 0) c.bytes)
      sysWriteVa s c.ctx (va + areaSO l + 0x1000 * c.pages) (markImage s c)

/-- What the State keeps of a saved crew's core: scratchpad, marks, generations and timelines (R78, R391, R392). -/
def keepImage (s : State) (c : Crew) : Crew :=
  let lo := scrKey c.core (c.addr 0)
  { c with
    st := .saved
    img := (s.scr.filter fun e => decide (lo ≤ e.1) && decide (e.1 < lo + c.bytes)).map fun e => (e.1 - lo, e.2)
    imgPois := (s.scrPois.filter fun e => decide (lo / 32 ≤ e.1) && decide (e.1 < (lo + c.bytes) / 32)).map fun e =>
      (e.1 - lo / 32, e.2)
    imgGen := putAll [] (List.range c.pages) 0 fun p => genOf s c.core (c.page + p)
    imgTl := coreTimelines s c.core c.ctx
    imgVc := clockOf s (dieOfCore c.core) }

/-- Saves one crew: its record, its image, and its warps out of their slots (R391 step 4); the record cache of its core
holds no entry of the context any more (R85). -/
def saveCrew (s : State) (e : Nat × Crew) : State :=
  let s := dropRecs (writeRecord s e.1 e.2) e.2.core e.2.ctx fun _ => true
  let s := setCrew s e.1 (keepImage s e.2)
  let s := (crewWarps s e.1).foldl (fun s w => setWarp s w.key { w with st := .saved (w.st == .stopped), promoted := false }) s
  { s with stream := s.stream ++ [.save e.2.ctx e.2.id] }

/-- The items of a subqueue outside H move, in order of arrival, to the subqueues that the rule gives (R337). -/
def rehashQueue (s : State) (ctx : Nat) (h : List Nat) (q : Queue) : Queue :=
  if q.cls ≠ 1 ∨ h = [] then q
  else
    let out := q.items.filter fun e => !h.contains e.1
    let moved := sortBy (fun (a b : Item) => decide (a.num ≤ b.num)) (out.flatMap (·.2))
    let kept := { q with items := q.items.filter fun e => h.contains e.1 }
    moved.foldl (fun q i =>
      match tileSub s ctx i.tile with
      | none => q
      | some sub => q.setSub sub (q.sub sub ++ [i])) kept

/-- H has changed: every tile queue of the context is rehashed (R337). -/
def rehash (s : State) (ctx : Nat) : State :=
  let h := liveClusters s ctx
  modCtx s ctx fun c => { c with queues := c.queues.map fun e => (e.1, rehashQueue s ctx h e.2) }

/-- Joins the crews saved from one core with groups that share a span with them (R392). -/
def joinGroup (s : State) (ctx : Nat) (gs : List (List Nat)) (g : List Nat) : List (List Nat) :=
  let spans := g.flatMap fun id => ((crewAt s (crewKey ctx id)).map (·.span)).getD []
  let shares := fun (x : List Nat) => x.any fun id => spans.contains (crewKey ctx id)
  let joined := (g ++ (gs.filter shares).flatten)
  sortBy (fun a b => decide (a ≤ b)) joined :: gs.filter fun x => !shares x

/-- The resume groups of the crews being saved, one to a core, a span's joined (R392). -/
def newGroups (s : State) (ctx : Nat) (es : List (Nat × Crew)) (cores : List Nat) : List (List Nat) :=
  (cores.map fun n => (es.filter fun e => e.2.core == n).map fun e => e.2.id).foldl
    (fun gs g => if g.isEmpty then gs else joinGroup s ctx gs g) []

/-- The record of a finished calving request (R387, R391). -/
def calveRecord : FaultRec :=
  { kind := 4, crew := 0, vcore := 0, warp := 0, eng := 0, cause := 0, addr := 0, seq := 0, info := 0 }

/-- The waiting register requests of a core are examined in each quarter (R354). -/
def examineCore (s : State) (core : Nat) : State := (List.range 4).foldl (fun s q => examineRegrs s core q) s

/-- Some crew of a group was saved from a core that has left service. -/
def orphaned (s : State) (es : List (Nat × Crew)) (g : List Nat) : Bool :=
  es.any fun e => g.contains e.2.id && !(coreAt s e.2.core).inService

/-- CALVE_SAVE_DONE (R391): every chosen core is done; the crews are saved and leave H, the queues are rehashed, DONE,
SAVEDC and STAT are set, and a KIND 4 record is written. The groups of a span form one group (R392). A group with crews of
a core that has left service needs no return command to resume (R349, log 58). -/
def execCalveSaveDone (ctx : Nat) (s : State) : Res :=
  let c := ctxAt s ctx
  if c.vacating.isEmpty || !saveReady s ctx then .next s
  else
    let es := vacatedCrews s ctx
    let s := es.foldl saveCrew s
    let gs := newGroups s ctx es c.vacating
    let s := modCtx s ctx fun c =>
      { c with vacating := [], cstat := 0, done := c.vacating.length, savedc := c.savedc + es.length
               groups := sortGroups (c.groups ++ gs.filter fun g => !orphaned s es g)
               returning := sortGroups (c.returning ++ gs.filter (orphaned s es)) }
    .next (c.vacating.foldl examineCore (queueRecord (rehash s ctx) ctx calveRecord))

/-! ## Returning (R389, R392) -/

/-- A return command (R389, R392): refused while a calving runs; else every withheld mark goes and the saved groups may
resume. -/
def returnCores (s : State) (ctx n : Nat) : State :=
  let s := storeN s ctx n
  if (ctxAt s ctx).cstat = 1 then modCtx s ctx fun c => { c with cstat := 2 }
  else
    modCtx s ctx fun c =>
      { c with cstat := 0, withheld := [], returning := sortGroups (c.returning ++ c.groups ++ c.noRoom), groups := []
               noRoom := [] }

/-- RETURN_COMMAND (R389). -/
def execReturnCommand (by_ : Agent) (r : CalvingWrite) (s : State) : Res :=
  if mayPriv s by_ then .next (returnCores s r.ctx r.n) else .next s

/-- The crews of a group that are still saved. -/
def savedOf (s : State) (ctx : Nat) (g : List Nat) : List (Nat × Crew) :=
  g.filterMap fun id => (crewAt s (crewKey ctx id)).bind fun c => if c.st = .saved then some (crewKey ctx id, c) else none

/-- Puts a saved crew on a core with the places of its warps. -/
def seatCrew (s : State) (e : Nat × Crew) (core : Nat) (f : List (Nat × Nat × Nat) × Nat) : State :=
  let s := setCrew s e.1 { e.2 with core := core, page := f.2, st := .live }
  let ws := crewWarps s e.1
  (List.range ws.length).foldl (fun s i =>
    match ws[i]? with
    | none => s
    | some w =>
      let q := f.1.getD i (0, 0, 0)
      let st : WarpSt := match w.st with
        | .saved true => .stopped
        | _ => .unstarted
      setWarp s w.key { w with core := core, quarter := q.1, slot := q.2.1, st := st }) s

/-- Seats some crews on one core, in order; none without room for all (R335, R392). -/
def seatAll (s : State) (core : Nat) (es : List (Nat × Crew)) : Option State :=
  match es with
  | [] => some s
  | e :: es =>
    match fitCrew s core ((crewWarps s e.1).map (·.alloc)) e.2.pages e.2.nAcc e.2.nTbl e.2.nFirn with
    | none => none
    | some f => seatAll (seatCrew s e core f) core es

/-- A core that may take a group: usable, and it holds no crew of the context (R392). -/
def emptyCores (s : State) (ctx : Nat) : List Nat :=
  (usableCores s ctx).filter fun n => !(coreCrews s n).any fun c => c.ctx == ctx

/-- Seats crews on the best of some cores by the comparison of R334. -/
def seatBest (s : State) (es : List (Nat × Crew)) (cores : List Nat) : Option State :=
  match leastLoaded s [] (cores.filter fun n => (seatAll s n es).isSome) with
  | none => none
  | some n => seatAll s n es

/-- The parts of a group: the crews saved from one core, by that core (R392). -/
def groupParts (es : List (Nat × Crew)) : List (List (Nat × Crew)) :=
  (dedup (es.map fun e => e.2.core)).map fun n => es.filter fun e => e.2.core == n

/-- A part was saved from the die of a span group's first crew, its die A (R336). -/
def partOn (die : Nat) (part : List (Nat × Crew)) : Bool := (part.map fun e => dieOfCore e.2.core).headD 0 == die

/-- Seats the further parts of a span group, those of its old die A on one die and the others on another (R336). -/
def seatParts (s : State) (ctx old a b : Nat) (parts : List (List (Nat × Crew))) : Option State :=
  match parts with
  | [] => some s
  | p :: ps =>
    match seatBest s p ((emptyCores s ctx).filter fun n => dieOfCore n == (if partOn old p then a else b)) with
    | none => none
    | some s => seatParts s ctx old a b ps

/-- The dies that may be die B for a die A, in the order tried (R336). -/
def nextDies (s : State) (a : Nat) : List Nat :=
  (if ringUp s a then [(a + 1) % 8] else []) ++ if ringUp s (a + 7) then [(a + 7) % 8] else []

/-- Cores by the comparison of R334. -/
def byLoad (s : State) (cores : List Nat) : List Nat := sortBy (loadBefore s []) cores

/-- Seats a span group on two adjacent dies: die A is that of the best core for the part with its first crew, with which
a die B has room for the rest (R336, R392). -/
def seatSpan (s : State) (ctx : Nat) (parts : List (List (Nat × Crew))) : Option State :=
  match parts with
  | [] => some s
  | p :: ps =>
    let old := (p.map fun e => dieOfCore e.2.core).headD 0
    firstSome (fun n =>
      (seatAll s n p).bind fun s' => firstSome (fun b => seatParts s' ctx old (dieOfCore n) b ps) (nextDies s (dieOfCore n)))
      (byLoad s (emptyCores s ctx))

/-- Seats a group where it has room; none where it must wait (R392). -/
def seatGroup (s : State) (ctx : Nat) (es : List (Nat × Crew)) : Option State :=
  if es.any fun e => !e.2.span.isEmpty then seatSpan s ctx (groupParts es) else seatBest s es (emptyCores s ctx)

/-! ## Reading a record back (R393) -/

/-- The bytes of a range of the context's memory, 8-byte word by word. -/
def readVaBytes (s : State) (ctx va n : Nat) : List Byte :=
  (List.range (n / 8)).flatMap fun i => leBytes 8 (sysReadVa s ctx (va + 8 * i))

/-- Accumulator elements and marks of a set from its image. -/
def accFrom (c : Crew) (i : Nat) (rd : Nat → Nat) : Crew :=
  let acc := (List.range 24576).foldl
    (fun m e => putD m (i * 24576 + e) 0 (BitVec.ofNat 32 (bits (rd (e / 2 * 8)) (32 * (e % 2)) 32))) c.acc
  let pois := (List.range 24576).foldl
    (fun m e => putD m (i * 24576 + e) false (bit (rd (0x18000 + e / 64 * 8)) (e % 64))) c.accPois
  { c with acc := acc, accPois := pois }

/-- The scratchpad image of a crew from its pages and marks. -/
def scratchFrom (c : Crew) (rd mk : Nat → Nat) : Crew :=
  let img := (List.range c.bytes).foldl
    (fun m o => putD m o 0 (BitVec.ofNat 8 (rd (o / 8 * 8) / 2 ^ (8 * (o % 8))))) ([] : Memory)
  let pois := (List.range (c.bytes / 32)).foldl
    (fun m u => putD m u false (bit (mk (u / 64 * 8)) (u % 64))) ([] : SMap Bool)
  { c with img := img, imgPois := pois }

/-- A barrier from its word of the header; the far arrivals it has counted stay (R292, log 24). -/
def barrierFrom (x : Nat) (b : Barrier) : Barrier :=
  { b with count := bits x 0 5, far := bit x 5, ph := bit x 6, posted := bit x 7, arrivals := bits x 8 8 }

/-- A Firn region descriptor from its words of the header; one with another handle names the record as memory now holds
it (R244, R266, log 24). -/
def firnFrom (s : State) (ctx : Nat) (x0 x1 x2 x3 : Nat) (f : Firn) : Firn :=
  let h := bits x0 16 12
  let st : FirnSt := match bits x0 0 8 with
    | 1 => .loading
    | 2 => .valid
    | _ => .invalid
  { f with
    st := st, handle := h, fmt := bits x0 8 8, c0 := sext 64 x1, c1 := sext 64 x2, funit := bits x3 0 32
    ng := bits x3 32 32
    src := if h = f.handle then f.src
           else some (recOf ((List.range 8).map fun i => BitVec.ofNat 64 (sysReadVa s ctx (recVa s ctx h + 8 * i)))) }

/-- A crew as its record now holds it, where the context area is mapped; what the record's layout does not give stays
(R393). -/
def readRecord (s : State) (c : Crew) : Crew :=
  match (ctxAt s c.ctx).launch with
  | none => c
  | some l =>
    let va := recordVa s c.ctx c.id l
    if !rangeMapped s c.ctx va (crsz l) .read then c
    else
      let rd := fun o => sysReadVa s c.ctx (va + o)
      let c := (List.range c.nAcc).foldl (fun c i => accFrom c i fun o => rd (areaAO l + 0x19000 * i + o)) c
      let c := scratchFrom c (fun o => rd (areaSO l + o)) (fun o => rd (areaSO l + 0x1000 * c.pages + o))
      let c := { c with
        partner := if rd 16 = 2 ^ 64 - 1 then none else some (crewKey c.ctx (rd 16 % 2 ^ 16))
        st := if rd 24 = 2 then .exited else c.st
        wrap := BitVec.ofNat 32 (rd 0x280)
        imgTl := (List.range 6).map fun i => (rd (0x40 + 16 * i), rd (0x48 + 16 * i))
        bars := c.bars.zipIdx.map fun (b : Barrier × Nat) => barrierFrom (rd (0x100 + 8 * b.2)) b.1
        firn := putAll [] (List.range 8) Firn.invalid fun r =>
          let x := fun i => rd (0x180 + 32 * r + 8 * i)
          firnFrom s c.ctx (x 0) (x 1) (x 2) (x 3) (look c.firn r Firn.invalid)
        imgGen := putAll [] (List.range c.pages) 0 fun p => BitVec.ofNat 16 (bits (rd (0x800 + p / 4 * 8)) (16 * (p % 4)) 16) }
      { c with tables := (List.range c.nTbl).foldl (fun m i =>
          putD m i Table.empty (tableOf c (readVaBytes s c.ctx (va + areaTO l + 0x2100 * i) 8216))) [] }

/-- A context is charged the reads of a crew's record, where the context area is mapped (R417). -/
def chargeResume (s : State) (c : Crew) : State :=
  match (ctxAt s c.ctx).launch with
  | none => s
  | some l =>
    let va := recordVa s c.ctx c.id l
    if !rangeMapped s c.ctx va (crsz l) .read then s
    else chargeMicro s c.ctx (dieOfCore c.core) va (crsz l) .read

/-- Restores a crew's scratchpad, marks and page generations on its new core; this is no event that writes a page (R77, R78,
R392). -/
def restoreScratch (s : State) (c : Crew) : State :=
  let s := wipePages s c.core c.page c.pages
  let s := c.img.foldl (fun s e => { s with scr := wrByte s.scr (scrKey c.core (c.addr e.1)) e.2 }) s
  let s := c.imgPois.foldl (fun s e => setScrPoison s c.core (c.addr (32 * e.1)) e.2) s
  (List.range c.pages).foldl (fun s p =>
    { s with gens := putD s.gens (genKey c.core (c.page + p)) 0 (look c.imgGen p 0) }) s

/-- The core's timelines for the context take the saved T and P (R392). -/
def restoreTimelines (s : State) (c : Crew) : State :=
  (List.range 6).foldl (fun s e =>
    let t := c.imgTl.getD e (0, 0)
    setTimeline s (tlKey c.core c.ctx e) { t := t.1, p := t.2, next := t.1 + 1 }) s

/-- The reload of a Firn region, ahead on the mx sequence as a load without a number of its own (R246, R266). -/
def reloadCmd (s : State) (k : Nat) (c : Crew) (i : Nat) (f : Firn) (r : TRec) : Cmd :=
  { seq := (timelineAt s (tlKey c.core c.ctx 4)).next, ctx := c.ctx, crew := k, warp := warpKey k 0
    body := .wbld r i f.ng f.c0 f.c1, entries := [], accNo := s.serial, discard := false, fault := none
    waitChain := false, chain := none, fp := none, stream := 4, phase := 0, shadow := false, reload := true }

/-- Starts the reload of one region: it is loading until its load retires. -/
def startReload (k : Nat) (s : State) (i : Nat) : State :=
  match crewAt s k with
  | none => s
  | some c =>
    let f := look c.firn i Firn.invalid
    match f.st, f.src with
    | .valid, some r =>
      let q := queueKey c.core 4
      let s := setQueue { s with serial := s.serial + 1 } q (queueAt s q ++ [reloadCmd s k c i f r])
      setCrew s k { c with firn := put c.firn i { f with st := .loading } }
    | _, _ => s

/-- A resumed warp as its frame now holds it; a run control word that breaks R149 makes it fault-stop (R149, R385,
R393). -/
def resumeWarp (s : State) (w : Warp) : State :=
  let w' := readFrame s w
  if w'.controlOk then setWarp s w.key w' else faultStop s w.key w' (w'.trap cILLEGAL_RUN)

/-- Brings back a crew that has been seated: the next placement entry starts its warps (R332, R392). Its new die's clock
takes that of the die it was saved on, so that its warps read nothing older than they knew (R358). The warps of one whose
record says that it has exited end (R393, log 24). -/
def resumeCrew (s : State) (k : Nat) : State :=
  match crewAt s k with
  | none => s
  | some c0 =>
    let c := readRecord s c0
    let s := restoreTimelines (restoreScratch (setCrew (chargeResume s c) k { c with st := c0.st }) c) c
    let s := modCrew (mergeClock s (dieOfCore c.core) c.imgVc) k fun c =>
      { c with img := [], imgPois := [], imgGen := [], imgTl := [], imgVc := [], entry := s.stream.length }
    let s := (List.range 8).foldl (startReload k) s
    let s := (crewWarps s k).foldl resumeWarp s
    let s := if c.st == .exited then (crewWarps s k).foldl endWarp s else s
    { s with stream := s.stream ++ [.resume c.ctx c.id] }

/-- GROUP_RESUME (R392): a group that may resume takes a core with room, in ascending lowest crew id; one without such a
core waits for the next crew exit or return command. It waits while a record cannot be read (R53, R66). -/
def execGroupResume (ctx grp : Nat) (s : State) : Res :=
  let gs := (ctxAt s ctx).returning
  match gs[grp]? with
  | none => .next s
  | some g =>
    let es := savedOf s ctx g
    if ((gs.take grp).any fun h => (seatGroup s ctx (savedOf s ctx h)).isSome) || es.any fun e => recordUnread s e.2 then .next s
    else match (if es.isEmpty then some s else seatGroup s ctx es) with
    | none =>
      .next (modCtx s ctx fun c =>
        { c with returning := gs.drop (grp + 1), noRoom := sortGroups (c.noRoom ++ gs.take (grp + 1)) })
    | some s =>
      .next (rehash (modCtx ((es.map (·.1)).foldl resumeCrew s) ctx fun c =>
        { c with returning := gs.drop (grp + 1), noRoom := sortGroups (c.noRoom ++ gs.take grp)
                 savedc := c.savedc - es.length }) ctx)

end Sys2Proof.Machine
end

