-- ==== Sys2Proof/Machine/Steer.lean ====
section
/-! DEFINITION. Steering over lost silicon: lanes and register rows, scratchpad banks, matrix columns, and cores that
leave service (R73, R252, R344 to R349). -/

namespace Sys2Proof.Machine

open Sys2Proof

/-! ## Cores that leave service (R349) -/

/-- A core's live width from its quarters (R333). -/
def widthOf (c : Core) : Nat :=
  min 128 ((c.quarters.map fun q => if foldOf q = 0 then 0 else 32 / foldOf q).foldl (· + ·) 0)

/-- Firmware writes a core's live width to the placement stream (R332, R346). -/
def postWidth (s : State) (core w : Nat) : State :=
  let s := modCore s core fun c => { c with width := w }
  { s with stream := s.stream ++ [.width core w] }

/-- A core leaves service: issue stops, its width becomes 0, and the crews resident there are calved (R349). -/
def leaveService (s : State) (core : Nat) : State :=
  let s := postWidth (modCore s core fun c => { c with inService := false }) core 0
  (dedup ((coreCrews s core).map (·.ctx))).foldl (fun s ctx => vacate s ctx (closeSpans s ctx 192 [core])) s

/-- CORE_OUT_OF_SERVICE (R349): a core leaves service because a rule requires it or firmware decides it. -/
def execCoreOutOfService (core : Nat) (s : State) : Res :=
  if core < 192 ∧ (coreAt s core).inService then .next (leaveService s core) else .next s

/-! ## Self-check (R348) -/

/-- A unit is in service, so that self-check may find it failing. -/
def unitLive (c : Core) (u : FailUnit) : Bool :=
  match u with
  | .lane q l => decide (q < 4) && decide (l < 32) && (quarterAt c q).live.getLsbD l
  | .rows q b k => decide (q < 4) && decide (b < 4) && decide (k < 8) && (quarterAt c q).rows.getLsbD (8 * b + k)
  | .bank p => decide (p < 66) && !c.deadBanks.contains p
  | .column p => decide (p < 196) && c.pendCols.getLsbD p

/-- LANE_SELF_CHECK_FAIL (R348): self-check finds a unit failing; a column is marked for the next steering change. -/
def execLaneSelfCheckFail (core : Nat) (u : FailUnit) (s : State) : Res :=
  let c := coreAt s core
  if core < 192 ∧ unitLive c u ∧ !c.failing.contains u then
    .next (modCore s core fun c =>
      { c with
        failing := c.failing ++ [u]
        pendCols := match u with
          | .column p => c.pendCols &&& ~~~(BitVec.ofNat 196 (2 ^ p))
          | _ => c.pendCols })
  else .next s

/-! ## Lanes and rows (R345 to R347) -/

/-- A rewrite of the quarter's steering is under way (R346). -/
def Quarter.busy (q : Quarter) : Bool := q.pendLive.isSome || q.pendRows.isSome

/-- The new steering is refused: a rewrite is under way, the resident warps do not fit, or no lane is left under a resident
warp (R347). -/
def steerRefused (s : State) (core q : Nat) (new : Quarter) : Bool :=
  (quarterAt (coreAt s core) q).busy || decide (capacity new.after < usedRegs s core q (2 ^ 64)) ||
    (new.after.live == 0 && !(quarterWarps s core q).isEmpty)

/-- QLANE_WRITE (R345 to R347, R421): firmware writes a quarter's live lanes. -/
def execQlaneWrite (by_ : Agent) (core quarter : Nat) (val : Word) (s : State) : Res :=
  if !isFw by_ then .next (countDrop s)
  else if 192 ≤ core ∨ 4 ≤ quarter then .next s
  else
    let q := quarterAt (coreAt s core) quarter
    let new := BitVec.ofNat 32 val.toNat
    let put := fun (f : Quarter → Quarter) => (.next (modCore s core fun c => modQuarter c quarter f) : Res)
    if steerRefused s core quarter { q with pendLive := some new } then put fun q => { q with stat := 2 }
    else if new = q.live then put fun q => { q with stat := 0 }
    else put fun q => { q with stat := 1, pendLive := some new }

/-- QROWS_WRITE (R345 to R347, R421): firmware writes a quarter's live row blocks. -/
def execQrowsWrite (by_ : Agent) (core quarter : Nat) (val : Word) (s : State) : Res :=
  if !isFw by_ then .next (countDrop s)
  else if 192 ≤ core ∨ 4 ≤ quarter then .next s
  else
    let q := quarterAt (coreAt s core) quarter
    let new := BitVec.ofNat 32 val.toNat
    let put := fun (f : Quarter → Quarter) => (.next (modCore s core fun c => modQuarter c quarter f) : Res)
    if steerRefused s core quarter { q with pendRows := some new } then put fun q => { q with stat := 2 }
    else if new = q.rows then put fun q => { q with stat := 0 }
    else put fun q => { q with stat := 1, pendRows := some new }

/-- The units still failing after a steering change: those still in service. -/
def Core.settleFailing (c : Core) : Core := { c with failing := c.failing.filter (unitLive c) }

/-- STEERING_REWRITE_DONE (R346): the quarter's runs have drained, the state has moved, and the new table takes effect;
firmware posts the new live width. What the quarter's capacity has gained is offered to its waiting requests (R354). -/
def execSteeringRewriteDone (core quarter : Nat) (s : State) : Res :=
  if !rewriting s core quarter || (quarterWarps s core quarter).any Warp.inHolder then .next s
  else
    let s := modCore s core fun c => (modQuarter c quarter Quarter.after).settleFailing
    let s := examineRegrs s core quarter
    let c := coreAt s core
    if c.quarters.all fun q => q.live == 0 then .next (if c.inService then leaveService s core else s)
    else .next (if c.inService then postWidth s core (widthOf c) else s)

/-! ## Scratchpad banks (R73) -/

/-- The physical bank that serves a logical bank. -/
def bankOf (c : Core) (l : Nat) : Nat := look c.banks l l

/-- The logical banks that a physical bank serves. -/
def served (c : Core) (p : Nat) : List Nat := (List.range 64).filter fun l => bankOf c l == p

/-- The bank that takes a retired bank's logical bank: a spare, else the lowest that serves one (R73). -/
def bankTarget (c : Core) : Option Nat :=
  let alive := (List.range 66).filter fun p => !c.deadBanks.contains p
  (firstOf (fun p => (served c p).isEmpty) alive).orElse fun _ => firstOf (fun p => (served c p).length == 1) alive

/-- Steers the logical banks of a retired bank; none where some bank would serve three (R73). -/
def steerBanks (ls : List Nat) (c : Core) : Option Core :=
  match ls with
  | [] => some c
  | l :: ls =>
    match bankTarget c with
    | none => none
    | some p => steerBanks ls { c with banks := putD c.banks l l p }

/-- BANK_RETIRE (R73): a bank's contents have moved and it retires onto a spare or is folded; the core leaves service
where no bank can take it. -/
def execBankRetire (core phys : Nat) (s : State) : Res :=
  let c := coreAt s core
  if 192 ≤ core || 66 ≤ phys || c.deadBanks.contains phys then .next s
  else
    let ls := served c phys
    let c := { c with deadBanks := c.deadBanks ++ [phys] }
    match steerBanks ls c with
    | some c => .next (setCore s core c.settleFailing)
    | none => .next (let t := setCore s core c; if c.inService then leaveService t core else t)

/-! ## Matrix columns (R252) -/

/-- The live columns of a core. -/
def liveCols (v : BitVec 196) : Nat := popcount 196 v.toNat

/-- The physical column of a logical column (R252). -/
def columnOf (c : Core) (j : Nat) : Nat := look c.steer j j

/-- Moves logical columns off physical columns that are not live, each to the lowest live column that serves none; the
others stay. -/
def moveColumns (live : BitVec 196) (js : List Nat) (c : Core) : Core :=
  match js with
  | [] => c
  | j :: js =>
    if live.getLsbD (columnOf c j) then moveColumns live js c
    else
      let used := (List.range 192).map (columnOf c)
      let p := firstOf (fun p => live.getLsbD p && !used.contains p) (List.range 196)
      moveColumns live js { c with steer := putD c.steer j j (p.getD j) }

/-- The steering table for a set of live columns: one pass with 192 or more, else two passes on the first 96 live ones in
ascending order (R252). -/
def steerColumns (live : BitVec 196) (c : Core) : Core :=
  if 192 ≤ liveCols live then moveColumns live (List.range 192) c
  else
    let ps := (List.range 196).filter live.getLsbD
    { c with steer := (List.range 192).foldl (fun m j => putD m j j (ps.getD (j % 96) 0)) [] }

/-- COLUMN_STEER_REWRITE (R252): between two mx commands the steering table switches; with fewer than 96 live columns the
core leaves service. -/
def execColumnSteerRewrite (core : Nat) (s : State) : Res :=
  let c := coreAt s core
  if c.pendCols = c.cols ∨ 192 ≤ core then .next s
  else
    let s := modCore s core fun c =>
      let c := if liveCols c.pendCols < 96 then c else steerColumns c.pendCols c
      { c with cols := c.pendCols, failing := c.failing.filter fun u => match u with
          | .column _ => false
          | _ => true }
    .next (if liveCols c.pendCols < 96 ∧ c.inService then leaveService s core else s)

end Sys2Proof.Machine
end

