-- ==== Sys2Proof/Machine/Power.lean ====
section
/-! DEFINITION. Power and time: the passing of time, cluster grants, the monitor, token-ring mode, pace groups, budget
tokens, supply droops, and the slew limiter (R19, R350 to R353, R406 to R418). -/

namespace Sys2Proof.Machine

open Sys2Proof

/-! ## Steps and rates in force (R406 to R410) -/

/-- Steps 14 and 15 act as 13 (R406). -/
def capStep (n : Nat) : Nat := min n 13

/-- The highest step of a cluster's rail (R407). -/
def railMax (s : State) (c : Cluster) : Nat := capStep (s.power.smax.getD c.rail 13)

/-- Puts a step in force; a held rail change takes effect when the cluster stops (R407, R408). -/
def Cluster.setStep (c : Cluster) (n : Nat) : Cluster :=
  if n = 0 then { c with step := 0, rail := c.pendRail.getD c.rail, pendRail := none } else { c with step := n }

/-- The pace groups of the launches whose crews a cluster holds (R414). -/
def paceGroups (s : State) (n : Nat) : List Nat :=
  dedup (((allCrews s).filter fun e => clusterOfCore e.2.core == n && e.2.st.resident).filterMap fun e =>
    ((ctxAt s e.2.ctx).launch.map (·.pace)).bind fun g => if g = 0 then none else some g)

/-- A pace group's register. -/
def paceAt (s : State) (g : Nat) : Pace := look s.power.paces g Pace.init

/-- The step that a cluster runs outside fail-safe: of its pace groups for a member, else its granted step (R409,
R414). -/
def grantedStep (s : State) (n : Nat) (c : Cluster) : Nat :=
  match paceGroups s n with
  | [] => min (capStep c.gstep) (railMax s c)
  | gs => min ((gs.map fun g => (paceAt s g).applied).foldl min 13) (railMax s c)

/-- The clusters of a die. -/
def clustersOf (v : Nat) : List Nat := (List.range (dieClusters v)).map fun i => dieFirstCluster v + i

/-- The sum of the rates of a die's clusters, in 1/16 W (R413). -/
def rateSum (s : State) (v : Nat) : Nat := ((clustersOf v).map fun n => (clusterAt s n).rate).foldl (· + ·) 0

/-- The units of 1 W that a die needs for its clusters' rates (R413). -/
def unitsNeeded (s : State) (v : Nat) : Nat := (rateSum s v + 15) / 16

/-- The refill rate in force, in 1/16 W, as a fraction: the one that the last boundary left, scaled down in token-ring mode
in the proportion of the units that the die holds, 16 to a unit, to the sum of its clusters' rates (R409, R410, R413). -/
def rateFrac (s : State) (n : Nat) (c : Cluster) : Nat × Nat :=
  let p := s.power
  let v := dieOfCluster n
  let held := 16 * look p.units v 0
  if c.gstate = 1 ∨ !p.tokenMode ∨ rateSum s v ≤ held then (c.rateNow, 1) else (c.rateNow * held, rateSum s v)

/-- The whole part of the refill rate in force, in 1/16 W. -/
def rateOf (s : State) (n : Nat) (c : Cluster) : Nat := (rateFrac s n c).1 / (rateFrac s n c).2

/-- The fail-safe grant: FSRATE at FSSTEP (R409, R411). -/
def failSafe (s : State) (c : Cluster) : Cluster :=
  ({ c with gstate := 1, rateNow := s.power.fsrate }).setStep (min (capStep s.power.fsstep) (railMax s c))

/-! ## The passing of time (R19, R410, R418) -/

/-- The arithmetic clocks of a cluster in t nanoseconds, in tenths (R19, R418). -/
def Cluster.clocks (c : Cluster) (t : Nat) : Nat := c.step * t - min c.lost (c.step * t)

/-- A cluster after t nanoseconds at a rate, with or without an occupied holder: its clocks and its allowance. -/
def Cluster.pass (c : Cluster) (t rate : Nat) (held : Bool) : Cluster :=
  if c.step = 0 then c
  else
    let sum := c.frac + rate * t
    let top : Int := c.cap * 4096
    let cnt := if c.cnt < top then min top (c.cnt + sum / 16) else c.cnt
    { c with
      cycles := c.cycles + c.clocks t, lost := c.lost - min c.lost (c.step * t), frac := sum % 16, cnt := cnt
      idle := if held then 0 else c.idle + c.clocks t }

/-- A cluster takes up what t nanoseconds give below 1/16 pJ each, at a rate that is a fraction: what makes up whole
sixteenths joins its remainder (R410, R413; log 102). -/
def Cluster.passPart (c : Cluster) (t : Nat) (r : Nat × Nat) : Cluster :=
  if c.step = 0 ∨ r.2 ≤ 1 then c
  else
    let x := (if c.part.2 = r.2 then c.part.1 else 0) + r.1 % r.2 * t
    { c with frac := c.frac + x / r.2, part := (x % r.2, r.2) }

/-- The nanoseconds in which a cluster's clock makes up n tenths of a count of which it has m. -/
def Cluster.until (c : Cluster) (m n : Nat) : Nat := if n ≤ m then 0 else (n - m + c.lost + c.step - 1) / c.step

/-- A warp of a cluster occupies a holder. -/
def clusterHeld (s : State) (c : Nat) : Bool := (allWarps s).any fun w => clusterOfCore w.core == c && w.inHolder

/-- The time of the next grant boundary still to be handled (R409). -/
def nextBoundary (s : State) : Nat := (s.power.boundary + 1) * 100000

/-- A warp would be ready if its cluster were admitted (R340, R353). -/
def wouldBeReady (s : State) (w : Warp) : Bool :=
  w.st.resident && !w.inHolder && w.wants s && w.pend.isNone && !calveHolds s w && (w.st.isBlocked || startAllowed s w)

/-- A quiescent cluster is pending from the first event that makes a warp of it ready (R353). -/
def pendingNow (s : State) (n : Nat) (c : Cluster) : Bool :=
  c.quiet && (c.pending || (allWarps s).any fun w => clusterOfCore w.core == n && wouldBeReady s w)

/-- The pending set (R353). -/
def pendingSet (s : State) : List Nat := (List.range 24).filter fun n => pendingNow s n (clusterAt s n)

/-- What every turn leaves of the clusters' quiescence: a cluster with an occupied holder counts its idle clocks afresh, and
a quiescent one with a ready warp stays pending (R353). -/
def settleClusters (s : State) : State :=
  modPower s fun p =>
    { p with clusters := p.clusters.zipIdx.map fun e =>
        { e.1 with idle := if clusterHeld s e.2 then 0 else e.1.idle, pending := pendingNow s e.2 e.1 } }

/-- A stamp has passed (R414). -/
def stampPassed (time stamp : Nat) : Bool := decide ((time + 2 ^ 48 - stamp % 2 ^ 48) % 2 ^ 48 < 2 ^ 47)

/-- The window of the slew limiter in nanoseconds (R352). -/
def slewWindow (p : Power) : Nat := 10 * max 1 p.win

/-- The time left to each event that a rule fixes to a time, a bound or a number of clocks: the grant boundary (R409), the
handover's expiry (R426), an admission window with clusters pending (R353), a cluster's 128 idle clocks (R353), a ready
warp's 4,096 clocks (R341), a pace group's stamp (R414), a die's 2 µs without a token (R413), and GRACE (R391). -/
def deadlines (s : State) : List Nat :=
  let p := s.power
  [nextBoundary s - s.time] ++
    (if s.glob.hpend then [s.glob.hpendAt + 100000000 - s.time] else []) ++
    (if (pendingSet s).isEmpty then []
     else if p.slewN = 0 ∨ (s.time % slewWindow p = 0 ∧ p.slewAt ≠ some s.time) then [0]
     else [slewWindow p - s.time % slewWindow p]) ++
    ((List.range 24).filterMap fun n =>
      let c := clusterAt s n
      if c.quiet || c.step == 0 || clusterHeld s n then none else some (c.until c.idle 1280)) ++
    ((allWarps s).filterMap fun w =>
      let c := clusterAt s (clusterOfCore w.core)
      if !w.promoted && !w.inHolder && c.step != 0 && readyFor s w then some (c.until w.readyClk 40960) else none) ++
    (p.paces.filterMap fun e =>
      if e.2.stat = 1 ∧ !e.2.late then
        some (if stampPassed s.time e.2.stamp then 0 else (e.2.stamp + 2 ^ 48 - s.time % 2 ^ 48) % 2 ^ 48)
      else none) ++
    (if p.tokenMode && !p.tokenFail then (List.range 8).map fun d => look p.lastTok d 0 + 2000 - s.time else []) ++
    (allWarps s).filterMap fun w =>
      let c := ctxAt s w.ctx
      if w.calveWait then some (c.calveAt + 1000 * min c.grace 1000 - s.time) else none

/-- Time passes, no further than to the next event that a rule fixes to a time (R19, R409, R410, R464). -/
def passTime (s : State) (ns : Nat) : State :=
  let t := (deadlines s).foldl min ns
  let cs := (List.range 24).map fun n =>
    let c := clusterAt s n
    (c.passPart t (rateFrac s n c)).pass t (rateOf s n c) (clusterHeld s n)
  let ws := s.warps.map fun e => (e.1, e.2.countReady s ((clusterAt s (clusterOfCore e.2.core)).clocks t))
  modPower { s with time := s.time + t, warps := ws } fun p => { p with clusters := cs }

/-- The static energy of a cluster measured over an interval is divided among contexts in proportion to their resident
warps there (R417). -/
def chargeStatic (s : State) (c pj : Nat) : State :=
  let ws := (allWarps s).filter fun w => clusterOfCore w.core == c && w.st.resident
  (dedup (ws.map (·.ctx))).foldl (fun s x => chargeCtx s x (pj * (ws.filter (·.ctx == x)).length / ws.length)) s

/-- SUPPLY_DROOP (R418): a cluster stretches clocks, which s13 does not count. -/
def execSupplyDroop (c clocks : Nat) (s : State) : Res :=
  if c < 24 then .next (modCluster s c fun x => { x with lost := x.lost + 10 * clocks }) else .next s

/-! ## GRANT_BOUNDARY (R409, R411 to R415) -/

/-- The boundary's grant of a cluster: misses, state, step and rate in force (R409). -/
def boundCluster (s : State) (overEff : Bool) (n : Nat) (c : Cluster) : Cluster :=
  let miss := if c.wrote then 0 else min 3 (c.miss + 1)
  let c := { c with wrote := false, miss := miss }
  if 2 ≤ miss ∨ overEff then failSafe s c
  else
    let st := grantedStep s n c
    ({ c with rateNow := c.rate, gstate := if st = 0 then 2 else if paceGroups s n = [] then 0 else 3 }).setStep st

/-- The changes of EFF that fall due at a boundary, and those still to come (R411, R415). -/
def dueNow (l : List (Nat × Int)) : Int × List (Nat × Int) :=
  ((l.filter fun e => decide (e.1 ≤ 1)).foldl (fun a e => a + e.2) 0,
    (l.filter fun e => decide (1 < e.1)).map fun e => (e.1 - 1, e.2))

/-- The clusters that are members of a pace group (R414). -/
def paceMembers (s : State) (g : Nat) : List Nat := (List.range 24).filter fun n => (paceGroups s n).contains g

/-- The step that a pace group's members take: no more than the least SMAX among their rails (R414). -/
def paceStep (s : State) (g : Nat) : Nat :=
  min (capStep (paceAt s g).step) (((paceMembers s g).map fun n => railMax s (clusterAt s n)).foldl min 13)

/-- The least SMAX among the rails of a pace group's members is below its STEP (R414). -/
def paceClamped (s : State) (g : Nat) : Bool :=
  (paceMembers s g).any fun n => decide (s.power.smax.getD (clusterAt s n).rail 13 < (paceAt s g).step)

/-- A write to a pace group whose stamp had passed is applied at the boundary (R414). -/
def applyLate (s : State) : State :=
  modPower s fun p =>
    { p with paces := p.paces.map fun e =>
        if e.2.stat = 1 ∧ e.2.late then (e.1, { e.2 with stat := 2, applied := paceStep s e.1, late := false }) else e }

/-- The units dealt in token-ring mode (R413). -/
def tokenTotal (p : Power) : Nat := p.eff - 25 * p.ncrsv

/-- Deals the units afresh, an equal share to each die, where a die has missed its token or the total has changed
(R413). -/
def dealUnits (s : State) (fresh : Bool) : State :=
  modPower s fun p =>
    let share := tokenTotal p / 8
    let sum := (p.units.map (·.2)).foldl (· + ·) 0 + (p.token.map (·.2)).foldl (· + ·) 0
    if !p.tokenMode || (!fresh && sum == 8 * share) then p
    else
      { p with units := putAll [] (List.range 8) 0 (fun _ => share), token := []
               lastTok := putAll [] (List.range 8) 0 (fun _ => s.time)
               lastPass := putAll [] (List.range 8) 0 fun _ => s.time }

/-- GRANT_BOUNDARY (R409): the next multiple of 100,000 ns has come, and the monitor has its 100 samples of the interval
that ends (R412). -/
def execGrantBoundary (s : State) : Res :=
  if s.time < nextBoundary s ∨ s.power.sampleCnt < 100 then .next s
  else
    let p := s.power
    let due := dueNow p.effDue
    let overEff := p.overEff
    let s := applyLate s
    let cs := (List.range 24).map fun n => boundCluster s overEff n (clusterAt s n)
    let missed := (cs.filter fun c => decide (0 < c.miss)).length
    let turned := p.pendMode.isSome && p.pendMode != some p.tokenMode
    .next (dealUnits (modPower s fun p =>
      { p with
        clusters := cs, eff := (p.eff + due.1).toNat, effDue := due.2, misses := min 255 (p.misses + missed)
        paced := overEff, overEff := false, sampleSum := 0, sampleCnt := 0, boundary := p.boundary + 1
        tokenMode := p.pendMode.getD p.tokenMode, pendMode := none, tokenFail := false }) (p.tokenFail || turned))

/-- Firmware's fail-safe values keep R412's obligation: 24 clusters at FSRATE, the die boundaries (2.07 kW) and HBM4 (860 W)
at the paced fraction, and the 785 W of the other consumers stay below 2.4 kW. -/
def Power.failSafeFits (p : Power) : Bool :=
  let k := 2 ^ (p.fslink + 1)
  decide (24 * p.fsrate * k + 16 * (2070 + 860) + 16 * 785 * k < 16 * 2400 * k)

/-- POWER_MONITOR_SAMPLE (R412): the monitor samples every 1 µs; a mean over EFF in an interval of 100 samples sets
OVR. The power of a paced interval cannot exceed EFF where firmware's values keep R412's obligation (R22, R412; log 96). -/
def execPowerMonitorSample (watts : Nat) (s : State) : Res :=
  let p := s.power
  let n := p.sampleCnt + 1
  let sum := p.sampleSum + if p.paced && p.failSafeFits then min watts p.eff else watts
  if 100 < n ∨ s.time < p.boundary * 100000 + 1000 * n then .next s
  else
    let overEff := n == 100 && decide (100 * p.eff < sum)
    .next (modPower s fun p =>
      { p with sampleSum := sum, sampleCnt := n, overEff := p.overEff || overEff, ovr := p.ovr || overEff })

/-! ## Token-ring mode (R413) -/

/-- TOKEN_PASS (R413): every 1 µs a die takes the units it lacks from the token it received, and passes on those it does not
need. -/
def execTokenPass (die : Nat) (s : State) : Res :=
  if !s.power.tokenMode || decide (8 ≤ die) || decide (s.time < look s.power.lastPass die 0 + 1000) then .next s
  else
    let need := unitsNeeded s die
    let t := look s.power.token die 0
    let held := look s.power.units die 0
    let take := min t (need - held)
    let have_ := held + take
    let spare := have_ - need
    let nxt := (die + 1) % 8
    .next (modPower s fun p =>
      let tok := putD p.token die 0 0
      { p with units := putD p.units die 0 (have_ - spare)
               token := putD tok nxt 0 (look tok nxt 0 + (t - take) + spare)
               lastTok := put p.lastTok nxt s.time, lastPass := put p.lastPass die s.time })

/-- TOKEN_TIMEOUT (R413): a die has received no token for 2 µs; every cluster takes the fail-safe grant until the next
boundary. -/
def execTokenTimeout (die : Nat) (s : State) : Res :=
  if s.power.tokenMode && decide (die < 8) && decide (look s.power.lastTok die 0 + 2000 ≤ s.time) then
    let cs := (List.range 24).map fun n => failSafe s (clusterAt s n)
    .next (modPower s fun p => { p with tokenFail := true, clusters := cs })
  else .next s

/-! ## Pace groups (R414) -/

/-- PACE_WRITE (R414, R421): a common step and the time at which it applies. -/
def execPaceWrite (by_ : Agent) (g : Nat) (val : Word) (s : State) : Res :=
  if !mayPriv s by_ then .next (countDrop s)
  else if g = 0 ∨ 256 ≤ g then .next s
  else
    let v := val.toNat
    let x := { paceAt s g with stat := 1, step := bits v 48 4, stamp := bits v 0 48, late := stampPassed s.time (bits v 0 48) }
    .next (modPower s fun p => { p with paces := put p.paces g x })

/-- PACE_APPLY (R414): the stamp is reached, and every member changes step together. -/
def execPaceApply (g : Nat) (s : State) : Res :=
  let x := paceAt s g
  if x.stat ≠ 1 ∨ x.late ∨ !stampPassed s.time x.stamp then .next s
  else
    let ms := paceMembers s g
    let st := paceStep s g
    let s := modPower s fun p =>
      { p with paces := put p.paces g { x with stat := if paceClamped s g then 3 else 0, applied := st } }
    .next (ms.foldl (fun s n => modCluster s n fun c =>
      if c.gstate = 1 then c
      else
        let m := grantedStep s n c
        ({ c with gstate := if m = 0 then 2 else 3 }).setStep m) s)

/-! ## Budget tokens between packages (R415) -/

/-- The changes of EFF still due of one sign. -/
def pendingEff (p : Power) (up : Bool) : Int :=
  (p.effDue.filter fun e => decide (0 < e.2) == up).foldl (fun a e => a + e.2) 0

/-- BUDGET_TOKEN_SEND (R415): firmware sends tokens of 1 W to a package of its group, unless EFF would fall below
2,400 W. -/
def execBudgetTokenSend (pkg k : Nat) (s : State) : Res :=
  let p := s.power
  if p.group = 0 ∨ 128 ≤ pkg ∨ p.eff + pendingEff p false - k < 2400 then .next s
  else
    .next (modPower s fun p => { p with effDue := p.effDue ++ [(1, -(k : Int))], net := p.net - k, pendTok := p.pendTok + k })

/-- BUDGET_TOKEN_RECEIVE (R415): tokens received raise EFF at the second boundary, or go back whole where EFF would pass
4,000 W. -/
def execBudgetTokenReceive (pkg k : Nat) (s : State) : Res :=
  let p := s.power
  if p.group = 0 ∨ 128 ≤ pkg ∨ 4000 < p.eff + pendingEff p true + k then .next s
  else .next (modPower s fun p => { p with effDue := p.effDue ++ [(2, (k : Int))], net := p.net + k })

/-- Tokens sent earlier are acknowledged (R415). -/
def tokenAck (s : State) (k : Nat) : State := modPower s fun p => { p with pendTok := p.pendTok - k }

/-- Tokens sent earlier come back whole (R415). -/
def tokenBack (s : State) (k : Nat) : State :=
  modPower s fun p =>
    if p.pendTok < k then p
    else { p with pendTok := p.pendTok - k, net := p.net + k, effDue := p.effDue ++ [(2, (k : Int))] }

/-! ## The slew limiter (R352, R353) -/

/-- CLUSTER_QUIESCE (R353): a cluster none of whose warps has occupied a holder for 128 arithmetic clocks becomes
quiescent. -/
def execClusterQuiesce (c : Nat) (s : State) : Res :=
  if c < 24 ∧ clusterHeld s c = false ∧ clusterAdmitted s c = true ∧ 1280 ≤ (clusterAt s c).idle then
    .next (modCluster s c fun x => { x with quiet := true, pending := false })
  else .next s

/-- SLEW_ADMIT (R353): at a window boundary up to N pending clusters are admitted, upwards from the start pointer; with
N = 0 all are admitted at once. -/
def execSlewAdmit (s : State) : Res :=
  let p := s.power
  let pend := pendingSet s
  let n := min p.slewN 24
  let due := s.time % slewWindow p == 0 && p.slewAt != some s.time
  if pend.isEmpty then .next (modPower s fun p => { p with episode := none })
  else if !(n == 0 || due) then .next s
  else
    let start := match p.episode with
      | some (x, _) => x
      | none => (p.first + 1) % 24
    let order := ((List.range 24).map fun d => (start + d) % 24).filter pend.contains
    let go := if n = 0 then order else order.take n
    let isFirst := match p.episode with
      | some (_, none_) => none_
      | none => true
    let s := go.foldl (fun s c => modCluster s c fun x => { x with quiet := false, pending := false, idle := 0 }) s
    let left := pend.filter fun c => !go.contains c
    .next (modPower s fun p =>
      { p with
        first := if isFirst then go.headD p.first else p.first, slewAt := some s.time
        episode := if left.isEmpty then none else some (start, false) })

end Sys2Proof.Machine
end

