-- ==== Sys2Proof/Machine/Ce.lean ====
section
/-! DEFINITION. The die collective engines, the phases of deterministic mode and the comparison of digests (R280 to R284,
R397, R402, R405). -/

namespace Sys2Proof.Machine

open Sys2Proof

/-! ## Rings (R280) -/

/-- Replaces a ring. -/
def setRing (s : State) (ctx die : Nat) (r : CeRing) : State :=
  modCtx s ctx fun c => { c with rings := putD c.rings die CeRing.init r }

/-- LOGN enables the ring (R280). -/
def CeRing.enabled (r : CeRing) : Bool := decide (4 ≤ r.logn) && decide (r.logn ≤ 12)

/-- CE_TAIL_WRITE (R280, R422): entries are posted; a write that would leave more than the ring holds is ignored. -/
def execCeTailWrite (by_ : Agent) (ctx die : Nat) (val : Word) (s : State) : Res :=
  let r := ringAt s ctx die
  let t := BitVec.ofNat 16 val.toNat
  if !mayPage s by_ ctx || decide (8 ≤ die) || decide (2 ^ r.logn < (t - r.head).toNat) then .next s
  else .next (setRing s ctx die { r with tail := t })

/-! ## Command entries (R281) -/

/-- Word i of an entry. -/
def ceWord (ws : List Word) (i : Nat) : Nat := (ws.getD i 0).toNat

/-- The element size of FMT in bytes (R282). -/
def ceElem (fmt : Nat) : Nat :=
  match fmt with
  | 0 => 1
  | 1 => 4
  | 2 => 4
  | 3 => 8
  | 4 => 8
  | 5 => 4
  | _ => 2

/-- The sources of an entry. -/
def ceSrcs (ws : List Word) : List Nat := (List.range (bits (ceWord ws 5) 12 4)).map fun i => ceWord ws (1 + i)

/-- LEN of an entry. -/
def ceLen (ws : List Word) : Nat := bits (ceWord ws 5) 32 32

/-- A malformed entry (R281). -/
def ceMalformed (ws : List Word) : Bool :=
  let w := ceWord ws
  let len := ceLen ws
  let n := bits (w 5) 12 4
  let fmt := bits (w 5) 8 4
  let op := bits (w 5) 0 4
  (List.range 7).any (fun i => i != 5 && bits (w i) 56 8 != 0) || bits (w 5) 16 16 != 0 || bits (w 5) 4 4 != 0 ||
    len == 0 || len % 32 != 0 || decide (n < 1) || decide (4 < n) || decide (8 ≤ fmt) || decide (4 ≤ op) ||
    (if op = 0 then n != 1 || fmt != 0 else fmt == 0) ||
    (List.range 4).any (fun i => decide (n ≤ i) && w (1 + i) != 0) ||
    w 0 % 32 != 0 || (ceSrcs ws).any (fun a => a % 32 != 0) || w 6 % 8 != 0 ||
    (ceSrcs ws).any fun a => rangesMeet (w 0) len a len

/-- The FP mode of the ce: RNE, subnormals exact (R282). -/
def ceMode : NumMode := { rm := .rne, ftz := false }

/-- The float type of FMT. -/
def ceFlt (fmt : Nat) : FltTy :=
  match fmt with
  | 5 => .f
  | 6 => .bf
  | _ => .h

/-- combine of R282 on two elements. -/
def ceCombine (op fmt r x : Nat) : Nat :=
  let b := 8 * ceElem fmt
  if 5 ≤ fmt then
    (if op = 1 then eFadd (ceFlt fmt) ceMode r x 0 else minMax (ceFlt fmt) ceMode (op == 3) r x).1
  else if op = 1 then (r + x) % 2 ^ b
  else
    let lt := fun (a c : Nat) => if fmt = 1 ∨ fmt = 3 then decide (sext b a < sext b c) else decide (a < c)
    if op = 2 then (if lt x r then x else r) else (if lt r x then x else r)

/-- The element e of 32 bytes. -/
def ceAt (bs : List Byte) (z e : Nat) : Nat := leNat ((bs.drop (e * z)).take z)

/-- The 32 bytes that a command writes from the 32 bytes of each source, in ascending source order (R282). -/
def ceFlit (op fmt : Nat) (srcs : List (List Byte)) : List Byte :=
  let z := ceElem fmt
  match srcs with
  | [] => []
  | a :: rest =>
    (List.range (32 / z)).flatMap fun e =>
      leBytes z (rest.foldl (fun r b => ceCombine op fmt r (ceAt b z e)) (ceAt a z e))

/-! ## Accesses of the ce (R282) -/

/-- The mark by which a ce's writes are known in the store stage. -/
def ceOwner (ctx die : Nat) : Nat := 2 ^ 41 + ctx * 8 + die

/-- The ce of a die reads n bytes within a line, at its home and never from a replica, or beyond the package (R282); `copy`
for the data of a copy (R17). -/
def ceLoad (ctx die va n : Nat) (copy : Bool) (s : State) : Got Piece :=
  if walkWaits s ctx va then .wait
  else match sysTranslate s ctx va 1 .read true with
  | .bad c => .fault va c
  | .ok pa pte =>
    if (paKind pa).homed then
      match dieLoad s ctx die pa n (pteMt pte != 0) false copy with
      | none => .wait
      | some (s, v, p) => .ok s (leBytes n v, p)
    else if !portFree s pa then .wait
    else .ok (chargeOut s ctx pa n) (dieRead s die pa n)

/-- The ce of a die reads one flit (R282). -/
def ceRead (ctx die va : Nat) (s : State) : Got Piece := ceLoad ctx die va 32 true s

/-- The ce of a die writes bytes within a flit, as a write of that die; a flit that deterministic mode refuses is
discarded (R282, R364, R370, R402). -/
def ceWrite (ctx die seq va : Nat) (copy : Bool) (d : Piece) (s : State) : Got Unit :=
  if walkWaits s ctx va || flitWaits s ctx va then .wait
  else match sysTranslate s ctx va 1 .write true with
  | .bad c => .fault va c
  | .ok pa pte =>
    let r := flitCheck s ctx va (.ce die)
    if !r.2 then .ok r.1 ()
    else
      let s := r.1
      let n := d.1.length
      match paKind pa with
      | .fabric => if portFree s pa then .ok (chargeOut (fabricWrite s pa d.1 d.2) ctx pa n) () else .wait
      | .host => .ok (chargeOut (modMem s fun m => { m with hostMem := wrBytes m.hostMem pa d.1 }) ctx pa n) ()
      | .reserved => .fault va cABSENT
      | _ =>
        let s := stageWrite s ctx die pa n (leNat d.1) d.2 (BitVec.ofNat 2 (pteMt pte)) (ceOwner ctx die) seq
        .ok (chargeHome s ctx (some die) pa n (pteMt pte != 0) copy) ()

/-- One flit of a command (R282). -/
def ceStep (ctx die seq : Nat) (ws : List Word) (s : State) (i : Nat) : Got Unit :=
  match Got.each (fun s a => ceRead ctx die (a + 32 * i) s) s (ceSrcs ws) with
  | .wait => .wait
  | .fault a c => .fault a c
  | .ok s l =>
    let w5 := ceWord ws 5
    ceWrite ctx die seq (ceWord ws 0 + 32 * i) true (ceFlit (bits w5 0 4) (bits w5 8 4) (l.map (·.1)), l.any (·.2)) s

/-- What a command's flits come to from one on: all performed, or as far as they can go now, with the fault of the next one
or none while it must wait. -/
inductive CeRun where
  | all (s : State)
  | upto (s : State) (i : Nat) (fault : Option (Nat × Nat))

/-- n flits of a command from flit i on (R282). -/
def ceFlits (ctx die seq : Nat) (ws : List Word) (n : Nat) (s : State) (i : Nat) : CeRun :=
  match n with
  | 0 => .all s
  | n + 1 =>
    match ceStep ctx die seq ws s i with
    | .wait => .upto s i none
    | .fault a c => .upto s i (some (a, c))
    | .ok s _ => ceFlits ctx die seq ws n s (i + 1)

/-- The 200 pJ of a command and the 2 pJ of each element that it combines (R282). -/
def chargeCe (s : State) (ctx : Nat) (ws : List Word) : State :=
  chargeCtx s ctx (200 + 2 * (ceLen ws / ceElem (bits (ceWord ws 5) 8 4) * (bits (ceWord ws 5) 12 4 - 1)))

/-- One address of every page that a range of n bytes touches. -/
def pageHeads (a n : Nat) : List Nat :=
  a :: ((List.range (n / 65536 + 1)).map fun i => (a / 65536 + 1 + i) * 65536).filter fun b => decide (b < a + n)

/-- The ranges that a command addresses: destination, sources, and its completion word (R281). -/
def ceRanges (ws : List Word) : List (Nat × Nat) :=
  ((ceWord ws 0 :: ceSrcs ws).map fun a => (a, ceLen ws)) ++ if ceWord ws 6 = 0 then [] else [(ceWord ws 6, 8)]

/-- Some address of a command lies in the fabric window: its scope is fabric (R282). -/
def ceFabric (s : State) (ctx : Nat) (ws : List Word) : Bool :=
  (ceRanges ws).any fun r => (pageHeads r.1 r.2).any fun a =>
    match sysTranslate s ctx a 1 .read true with
    | .bad _ => false
    | .ok pa _ => paKind pa == .fabric

/-- The walk of some page that a command addresses must wait (R53, R66). -/
def ceWalks (s : State) (ctx : Nat) (ws : List Word) : Bool :=
  (ceRanges ws).any fun r => (pageHeads r.1 r.2).any fun a => walkWaits s ctx a

/-- The scope of a command (R282). -/
def ceScope (s : State) (ctx : Nat) (ws : List Word) : Nat := if ceFabric s ctx ws then 6 else 5

/-- Every write of a ring up to a command has been performed at its scope. -/
def ceDone (s : State) (ctx die seq : Nat) (ws : List Word) : Bool :=
  !ceWalks s ctx ws && !stagedBefore s (ceOwner ctx die) (seq + 1) (ceScope s ctx ws)

/-- A completion word of fabric scope also waits for every write whose value the die has read (R282, R369). -/
def ceReleased (s : State) (ctx die : Nat) (ws : List Word) : Bool :=
  decide (ceScope s ctx ws < 6) || !unappliedSeen s die

/-! ## CE_COMMAND and CE_FAULT (R278, R280 to R283) -/

/-- The virtual address of the ring's next entry (R280). -/
def entryVa (r : CeRing) : Nat := r.base + 64 * (r.head.toNat % 2 ^ r.logn)

/-- The address of the entry that the ring has taken (R283). -/
def takenVa (r : CeRing) : Nat := r.base + 64 * ((r.head - 1).toNat % 2 ^ r.logn)

/-- The number of the ring's current command (R282). -/
def CeRing.seq (r : CeRing) : Nat := r.tl.t + 1

/-- The command was taken while P was set (R278). -/
def CeRing.discards (r : CeRing) : Bool := r.tl.p != 0 && decide (r.tl.p < r.seq)

/-- The ring takes its next entry, read with acquire order at host scope: the die's clock takes the stamps read (R280,
R365). -/
def ceTake (s : State) (ctx die : Nat) : Adv :=
  let r := ringAt s ctx die
  if r.head = r.tail || !r.enabled then .none
  else
    match ceLoad ctx die (entryVa r) 64 false s with
    | .fault a c => .fault a c
    | .wait => .none
    | .ok s d =>
      let tl := { r.tl with next := r.seq + 1 }
      .ok (setRing s ctx die { r with cmd := some (wordsOf d.1), phase := 0, head := r.head + 1, stat := 1, tl := tl })

/-- The next thing that a ring does with the command it has taken. -/
def ceNext (s : State) (ctx die : Nat) (ws : List Word) : Adv :=
  let r := ringAt s ctx die
  let at_ := fun (s : State) (n : Nat) => setRing s ctx die { ringAt s ctx die with phase := n }
  if r.discards then .ok (setRing s ctx die r.retireHead)
  else if ceMalformed ws then .fault (takenVa r) 0
  else if r.phase = 0 then
    match ceFlits ctx die r.seq ws (ceLen ws / 32 - r.pos) s r.pos with
    | .all s => .ok (at_ (chargeCe s ctx ws) 1)
    | .upto s i f =>
      if r.pos < i then .ok (setRing s ctx die { ringAt s ctx die with pos := i })
      else match f with
        | none => .none
        | some (a, c) => .fault a c
  else if !ceDone s ctx die r.seq ws then .none
  else if r.phase = 1 ∧ ceWord ws 6 ≠ 0 then
    if !ceReleased s ctx die ws then .none
    else match ceWrite ctx die r.seq (ceWord ws 6) false (leBytes 8 (ceWord ws 7), false) s with
    | .wait => .none
    | .fault a c => .fault a c
    | .ok s _ => .ok (at_ s 2)
  else .ok (setRing s ctx die r.retireHead)

/-- The next thing that a ring does (R280, R282). -/
def ceAdvance (s : State) (ctx die : Nat) : Adv :=
  let r := ringAt s ctx die
  if r.fault.isSome || decide (8 ≤ die) then .none
  else match r.cmd with
    | none => ceTake s ctx die
    | some ws => ceNext s ctx die ws

/-- Advances a ring as far as n steps go. -/
def ceSteps (n : Nat) (s : State) (ctx die : Nat) : State :=
  match n with
  | 0 => s
  | n + 1 =>
    match ceAdvance s ctx die with
    | .ok s' => ceSteps n s' ctx die
    | _ => s

/-- CE_COMMAND (R280, R282): the ce takes an entry, performs it, writes its completion word once its writes have been
performed, and retires it in order, as far as these can go now. -/
def execCeCommand (ctx die : Nat) (s : State) : Res := .next (ceSteps 4 s ctx die)

/-- A KIND 2 record of a ring (R283). -/
def ceRecord (die seq va : Nat) : FaultRec :=
  { kind := 2, crew := 0, vcore := die, warp := 0, eng := 6, cause := 0, addr := BitVec.ofNat 64 va, seq := seq, info := 0 }

/-- CE_FAULT (R281, R283): a translation fault stalls the ring; a malformed entry sets P and retires. Either writes a
KIND 2 record. -/
def execCeFault (ctx die : Nat) (s : State) : Res :=
  match ceAdvance s ctx die with
  | .fault va cause =>
    let r := ringAt s ctx die
    let s := queueRecord s ctx (ceRecord die r.seq va)
    if (r.cmd.map ceMalformed).getD false then .next (setRing s ctx die r.abandonHead.retireHead)
    else .next (setRing s ctx die { r with stat := 2, fault := some { addr := va, cause := cause, recorded := true } })
  | _ => .next s

/-! ## PHASE_ADVANCE (R397) -/

/-- Every live warp of the launch has committed in the phase (R397). -/
def allCommitted (s : State) (ctx p : Nat) : Bool :=
  (allWarps s).all fun w => w.ctx != ctx || w.st == .ended || decide (p < w.committed)

/-- A write of a privileged engine for the context is not yet performed at package scope (R397). -/
def privilegedPending (s : State) (ctx : Nat) : Bool :=
  (List.range 8).any fun d => stagedBefore s (ceOwner ctx d) (2 ^ 64) 5

/-- PHASE_ADVANCE (R397): the phase advances at one instant; region-table entries held for the old phase go, and every
write performed in it is acquired. -/
def execPhaseAdvance (ctx : Nat) (s : State) : Res :=
  let c := ctxAt s ctx
  if c.det && c.state == 2 && (allWarps s).any (fun w => w.ctx == ctx && w.st != .ended) && allCommitted s ctx c.phase &&
      !privilegedPending s ctx then
    .next (joinClocks (modCtx s ctx fun c => { c with phase := (c.phase + 1) % 2 ^ 64, detHeld := [] }))
  else .next s

/-! ## DIGEST_COMPARE (R405) -/

/-- DIGEST_COMPARE (R405): both executions of an item are complete, and their digests are compared. -/
def execDigestCompare (ctx k : Nat) (s : State) : Res :=
  let c := ctxAt s ctx
  match c.digests[k]? with
  | none => .next s
  | some a =>
    let other := fun (b : Digest) => b.qb == a.qb && b.num == a.num && b.shadow != a.shadow
    match firstOf other c.digests with
    | none => .next s
    | some b =>
      let p := if a.shadow then b else a
      let q := if a.shadow then a else b
      let s := modCtx s ctx fun c =>
        { c with samples := satAdd 32 c.samples 1, digests := c.digests.filter fun d => d.qb != a.qb || d.num != a.num
                 mismatch := if a.hash = b.hash then c.mismatch else satAdd 32 c.mismatch 1 }
      .next (if a.hash = b.hash then s else detEvent s ctx [ctx, a.qb, a.num, p.crew, q.crew])

end Sys2Proof.Machine
end

