-- ==== Sys2Proof/Machine/HostPort.lean ====
section
/-! DEFINITION. The host side: ownership, the boot, attestation, the doorbell and the registers that have no row of their
own (R25 to R31, R67, R80, R421 to R430, R465). -/

namespace Sys2Proof.Machine

open Sys2Proof

/-! ## Ownership (R426) -/

/-- A command of the owner register that R426 drops; a write of any other than the owner counts (R421, R465). -/
def dropOwner (s : State) (m : Agent) : State := if isOwner s m then s else countDrop s

/-- A claim of a free package at the present time (R426). -/
def takeOwner (s : State) (c : Nat) : State :=
  modGlob s fun g => { g with owner := BitVec.ofNat 2 c, claimAt := some s.time }

/-- OWNER_CLAIM (R426): the successor's accept within 100 ms, or a claim while none owns. Of claims at one time, which is one
fabric clock (log 100), the host's comes first, then the BMC's, then the fabric manager's, whichever is met first here; those
that lose count as dropped (R421). -/
def execOwnerClaim (m : Agent) (s : State) : Res :=
  let g := s.glob
  let c := ownerCode m
  if c = 0 then .next (countDrop s)
  else if g.hpend && g.succ.toNat == c && decide (s.time ≤ g.hpendAt + 100000000) then
    .next (modGlob s fun g => { g with owner := BitVec.ofNat 2 c, hpend := false, claimAt := none })
  else if g.owner = 0 then .next (takeOwner s c)
  else if g.claimAt = some s.time ∧ c < g.owner.toNat then .next (takeOwner (countDrop s) c)
  else .next (dropOwner s m)

/-- OWNER_NAME_SUCCESSOR (R426). -/
def execOwnerNameSuccessor (m succ : Agent) (s : State) : Res :=
  if isOwner s m then
    .next (modGlob s fun g => { g with succ := BitVec.ofNat 2 (ownerCode succ), hpend := true, hpendAt := s.time })
  else .next (countDrop s)

/-- OWNER_RELEASE (R426). -/
def execOwnerRelease (m : Agent) (s : State) : Res :=
  if isOwner s m then .next (modGlob s fun g => { g with owner := 0, claimAt := none }) else .next (countDrop s)

/-- HANDOVER_EXPIRE (R426): no accept has come within 100 ms. -/
def execHandoverExpire (s : State) : Res :=
  if s.glob.hpend && decide (s.glob.hpendAt + 100000000 ≤ s.time) then .next (modGlob s fun g => { g with hpend := false })
  else .next s

/-! ## The boot (R18, R27, R427 to R429) -/

/-- The compute dies that the boot fences: their spoke fails authentication (R18, R429). -/
def fencedDies (b : BootIn) : BitVec 8 := b.failSpoke

/-- The stacks of a virtual die (R6). -/
def stacksOf (v : Nat) : List Nat := setStacks v

/-- A stack is usable: it has passed its self-test and its die is in service. -/
def stackUp (b : BootIn) (st : Nat) : Bool :=
  b.hbmUp.getLsbD st && (List.range 8).all fun v => !((stacksOf v).contains st && (fencedDies b).getLsbD v)

/-- The Generation pool is in use: firmware's choice, not made where a Generation die is fenced (R27, R429). -/
def poolUsed (b : BootIn) : Bool := b.pool && [1, 3, 5, 7].all fun v => !(fencedDies b).getLsbD v

/-- The DDR-5 capacity used on every channel, 0 where a channel has no DIMM (R23). -/
def ddrCapOf (b : BootIn) : Nat :=
  if b.ddrGiB.length = 16 ∧ b.ddrGiB.all (fun g => decide (g ≠ 0)) = true then b.ddrGiB.foldl min 256 else 0

/-- The channels of a set after the boot (R26, R27, R429). -/
def bootN (b : BootIn) (i : Nat) : Nat :=
  if i = 9 then (if ddrCapOf b = 0 then 0 else 16)
  else
    let ok := (setStacks i).all (stackUp b)
    if i = 8 then (if poolUsed b && ok then 256 else 0)
    else if !ok || (poolUsed b && i % 2 == 1) then 0
    else 32 * (setStacks i).length

/-- An interleave set as the boot leaves it: an empty one has no reserve rank (R27, R29, R31). -/
def bootSet (b : BootIn) (i : Nat) : ISet :=
  { ISet.reset i with rsv := b.rsv.getLsbD i && bootN b i != 0, n := bootN b i }

/-- The first region of a set's range in the HBM window without the pool (R27). -/
def firstRegion (i : Nat) : Nat := 192 * (i / 2) + (if i % 2 = 1 then 64 else 0)

/-- The descriptor that maps a frame of a set. -/
def mapped (i fr : Nat) : BitVec 32 := BitVec.ofNat 32 (2 ^ 30 + i * 2 ^ 16 + fr)

/-- The set and frame that firmware maps a region to (R27). -/
def bootRegion (b : BootIn) (r : Nat) : Nat × Nat :=
  let off := r % 192
  if off < 64 then (2 * (r / 192), off)
  else if poolUsed b then (8, r / 192 * 128 + (off - 64))
  else (2 * (r / 192) + 1, off - 64)

/-- The regions that firmware maps: those whose frame lies within its set's capacity (R27, R30). -/
def bootRegions (b : BootIn) (s : State) : SMap (BitVec 32) :=
  (List.range 768).filterMap fun r =>
    let p := bootRegion b r
    if p.2 < setFrames s p.1 (setAtIdx s p.1) then some (r, mapped p.1 p.2) else none

/-- The ready register after the boot (R427): an edge die whose boundary fails stays in service, its ports alone are not
ready (R18). -/
def bootReady (b : BootIn) : Word :=
  let set := fun (n : Nat) (c : Bool) => if c then 2 ^ n else 0
  let l :=
    (List.range 8).map (fun v => set v (!(fencedDies b).getLsbD v)) ++
      [set 8 true, set 9 true, set 10 true] ++
      (List.range 12).map (fun t => set (11 + t) (stackUp b t)) ++
      (List.range 16).map (fun c => set (29 + c) (b.ddrGiB.getD c 0 != 0)) ++
      [set 45 (ddrCapOf b != 0), set 46 b.trained, set 47 true, set 48 true]
  BitVec.ofNat 64 (l.foldl (· + ·) 0)

/-- A quarter's LIVE and ROWS as the boot's self-test gives them; firmware posts the core's live width, and a core without
a live lane leaves service (R333, R345, R349). -/
def bootQuarter (s : State) (e : Nat × BitVec 32 × BitVec 32) : State :=
  let core := e.1 / 4
  if 192 ≤ core then s
  else
    let s := modCore s core fun c => modQuarter c (e.1 % 4) fun q => { q with live := e.2.1, rows := e.2.2 }
    let c := coreAt s core
    if !c.inService then s
    else if c.quarters.all fun q => q.live == 0 then leaveService s core
    else postWidth s core (widthOf c)

/-- The package after firmware has started and the dies have authenticated one another (R18, R27, R345, R429, R465). -/
def bootWith (b : BootIn) (img : Bool) (s : State) : State :=
  let s := modGlob s fun g =>
    { g with img := img, fenced := fencedDies b, pool := poolUsed b, ddrCap := ddrCapOf b, ready := bootReady b
             bootSt := if fencedDies b = 0 then 1 else 2 }
  let s := modLinks s fun l => { l with ring := ~~~b.failRing, spoke := ~~~b.failSpoke, edge := ~~~b.failEdge }
  let s := modMem s fun m =>
    { m with sets := (List.range 10).foldl (fun l i => putD l i (ISet.reset i) (bootSet b i)) [] }
  (List.range 6).foldl updatePort (b.quarters.foldl bootQuarter (modMem s fun m => { m with regions := bootRegions b s }))

/-- BOOT (R428, R429): image A, else image B; with neither the package stays in recovery, ready bits 46 and 48 alone
set, until the owner has written a new image, after which the boot is tried again (log 101). -/
def execBoot (b : BootIn) (s : State) : Res :=
  if s.glob.bootSt ≠ 0 ∧ ¬(s.glob.bootSt = 3 ∧ s.glob.newImage = true) then .next s
  else if b.imageA then .next (bootWith b false s)
  else if b.imageB then .next (bootWith b true s)
  else .next (modGlob s fun g => { g with bootSt := 3, newImage := false, ready := BitVec.ofNat 64 (2 ^ 46 + 2 ^ 48) })

/-! ## Attestation (R430) -/

/-- Records the response to a request. -/
def spdmAnswer (s : State) (code : Nat) (body : List Byte) : Res :=
  .next (modGlob s fun g => { g with spdmResp := some { code := code, body := body } })

/-- No response but an error, which carries no content. -/
def spdmRefuse (s : State) : Res := .next (modGlob s fun g => { g with spdmResp := none })

/-- SPDM_GET_VERSION: version 1.3. -/
def execSpdmGetVersion (s : State) : Res := spdmAnswer s 0x84 (leBytes 2 0x1300)

/-- SPDM_GET_CAPABILITIES: the requests of R430 that a capability flag covers: certificates, challenge, signed
measurements. -/
def execSpdmGetCapabilities (s : State) : Res := spdmAnswer s 0xE1 (leBytes 4 0x16)

/-- SPDM_NEGOTIATE_ALGORITHMS: SHA3-384 and ECDSA P-384, where the requester offers them (R430). -/
def execSpdmNegotiateAlgorithms (hash asym : Nat) (s : State) : Res :=
  if bit hash 4 && bit asym 7 then
    spdmAnswer (modGlob s fun g => { g with spdmReady := true }) 0xE3 (leBytes 4 (2 ^ 7) ++ leBytes 4 (2 ^ 4))
  else spdmRefuse (modGlob s fun g => { g with spdmReady := false })

/-- A request that needs negotiated algorithms. -/
def spdmIf (s : State) (code : Nat) (body : List Byte) : Res :=
  if s.glob.spdmReady then spdmAnswer s code body else spdmRefuse s

/-- SPDM_GET_DIGESTS: the digest of the certificate chain. -/
def execSpdmGetDigests (s : State) : Res := spdmIf s 0x81 (Config.certDigest 0)

/-- SPDM_GET_CERTIFICATE: the chain in a slot. -/
def execSpdmGetCertificate (slot : Nat) (s : State) : Res := spdmIf s 0x82 (Config.certChain slot)

/-- SPDM_CHALLENGE: a signature over the challenge. -/
def execSpdmChallenge (nonce : List Byte) (s : State) : Res :=
  spdmIf s 0x83 (Config.certDigest 0 ++ nonce ++ Config.signature nonce)

/-- The die-map register (R13). -/
def dieMapWord (s : State) : Nat := s.glob.dmStat.toNat * 16 + (if s.glob.refl then 4 else 0) + s.glob.rot.toNat

/-- A measurement block (R430). -/
def measurement (s : State) (i : Nat) : List Byte :=
  match i with
  | 1 => Config.imageDigest s.glob.img
  | 2 => leBytes 8 Config.rollback
  | 3 => leBytes 1 s.glob.fenced.toNat ++ leBytes 8 s.glob.ready.toNat ++ leBytes 4 (dieMapWord s)
  | _ => []

/-- SPDM_GET_MEASUREMENTS: the number of blocks (index 0), one block, or all of them (index 0xFF) (R430). -/
def execSpdmGetMeasurements (index : Nat) (s : State) : Res :=
  if index = 0 then spdmIf s 0x60 [3]
  else if index = 0xFF then spdmIf s 0x60 ([1, 2, 3].flatMap (measurement s))
  else if index ≤ 3 then spdmIf s 0x60 (measurement s index)
  else spdmRefuse s

/-! ## The doorbell (R338, R425) -/

/-- The record of a translation fault on a doorbell's item (R425). -/
def doorRecord (va : Nat) : FaultRec :=
  { kind := 1, crew := 0xFFFF, vcore := 0, warp := 0, eng := 0, cause := cPAGE, addr := BitVec.ofNat 64 va, seq := 0, info := 0 }

/-- The clock that a read of an item's 32 bytes acquires: the stamps of its flits, and of the accepted writes that it reads
(R365, R366, R425). -/
def itemStamp (s : State) (pa : Nat) : VClock :=
  (List.range 32).foldl (fun v i =>
    match acceptedOn s (pa + i) with
    | some x => vcMax v x.stamp
    | none => v) (stampOf s pa 32)

/-- The append that word 1 of a doorbell, holding x, asks for: with space in the queue word 1 is then cleared, and without
it, or while the item cannot be read (R53, R66), the word holds x (R288, R398, R425). The item carries the clock of its bytes, read with acquire
order. -/
def ringDoorbell (s : State) (ctx x : Nat) : State :=
  let c := ctxAt s ctx
  if x = 0 then s
  else
    let done := fun (s : State) => modCtx s ctx fun c => { c with door1 := 0 }
    let qb := bits x 0 4
    let die := bits x 4 3
    let q := queueOf s ctx qb
    let va := bits c.door0.toNat 5 51 * 32
    if vaWaits s ctx va 32 then modCtx s ctx fun c => { c with door1 := BitVec.ofNat 64 x }
    else match sysTranslate s ctx va 32 .read true with
    | .bad _ => done (queueRecord s ctx (doorRecord va))
    | .ok pa _ =>
      if q.cls = 1 ∨ q.closed then done s
      else if q.cls = 2 ∧ q.cap ≤ (q.sub die).length then modCtx s ctx fun c => { c with door1 := BitVec.ofNat 64 x }
      else done (appendItem s ctx qb die die (wordsOf (sysRead s pa 32).1) (itemStamp s pa))

/-- DOORBELL (R422, R425): a write to word 1 starts an append; one made before the last has cleared it is dropped, and its
reserved bits are ignored (R3). Die 0 of queue 0 is the word 0, which the State tells from a cleared word by bit 63. -/
def execDoorbell (by_ : Agent) (ctx : Nat) (val : Word) (s : State) : Res :=
  if !mayPage s by_ ctx || (ctxAt s ctx).door1 != 0 then .next s
  else .next (ringDoorbell s ctx (bits val.toNat 0 7 + 2 ^ 63))

/-! ## REGISTER_WRITE (R421, R422) -/

/-- A region descriptor as it is stored (R25). -/
def storeRegion (s : State) (r v : Nat) : State :=
  if r < 768 ∨ (1024 ≤ r ∧ r < 5120) then
    modMem s fun m =>
      { m with regions := putD m.regions r 0 (BitVec.ofNat 32 (bits v 30 2 * 2 ^ 30 + bits v 16 4 * 2 ^ 16 + bits v 0 12)) }
  else s

/-- A MAPPED descriptor names a set (R30). -/
def setMapped (s : State) (i : Nat) : Bool :=
  s.mem.regions.any fun e => bits e.2.toNat 30 2 == 1 && bits e.2.toNat 16 4 == i

/-- A write of a set control register (R30, R31). -/
def storeSetCtl (s : State) (i v : Nat) : State :=
  if 10 ≤ i then s
  else
    let ch := bits v 45 9
    let keep := setMapped s i
    let s := modSet s i fun x => { x with evch := ch, rsv := if keep then x.rsv else bit v 63 }
    match bits v 43 2 with
    | 1 => modSet s i (evacSet i ch)
    | 2 => modSet s i (failSet ch)
    | _ => s

/-- A write of the slice control register (R49). -/
def storeSliceCtl (s : State) (v : Nat) : State :=
  let n := bits v 46 6
  if bits v 40 2 = 1 then evacSlice s n else modMem s fun m => { m with slices := { m.slices with evsl := n } }

/-- A write of CLGRANT: a new rail waits until the cluster stops (R408, R409). -/
def storeGrant (s : State) (n v : Nat) : State :=
  modCluster s n fun c =>
    let r := bits v 60 2
    { c with
      rail := if c.step = 0 then r else c.rail, pendRail := if c.step = 0 ∨ r = c.rail then none else some r
      gstep := bits v 48 4, cap := bits v 32 16, rate := bits v 16 16, wrote := true }

/-- LIMIT clamped to 2,400 W to 4,000 W, in units of 25 W (R21, R411). -/
def clampLimit (n : Nat) : Nat := max 96 (min n 160)

/-- A write of ARBCTL (R411). -/
def storeArb (s : State) (v : Nat) : State :=
  modPower s fun p =>
    let l := clampLimit (bits v 40 8)
    { p with
      fslink := bits v 61 3, limit := l, fsrate := bits v 24 16, fsstep := bits v 20 4, pendMode := some (bit v 17)
      ovr := p.ovr && !bit v 16, ncrsv := bits v 8 8
      effDue := if l = p.limit then p.effDue else p.effDue ++ [(1, 25 * ((l : Int) - p.limit))] }

/-- A write of RAILCTL: a cluster never runs above SMAX of its rail (R407). A raised SMAX raises steps at the next boundary
(log 96). -/
def storeRail (s : State) (r v : Nat) : State :=
  let s := modPower s fun p => { p with smax := setAt p.smax r (bits v 0 4) }
  (List.range 24).foldl (fun s n => modCluster s n fun c =>
    if c.rail ≠ r then c
    else
      let st := min c.step (railMax s c)
      ({ c with gstate := if st = 0 ∧ c.gstate ≠ 1 then 2 else c.gstate }).setStep st) s

/-- A write to a register of the management window that only firmware writes (R421). -/
def storeFw (s : State) (r : Reg) (v : Nat) : State :=
  match r with
  | .region n => storeRegion s n v
  | .setCtl i => storeSetCtl s i v
  | .sliceCtl => storeSliceCtl s v
  | .alwCtl n => modCluster s n fun c => { c with hi := bits v 44 20, lo := bits v 24 20, pfloor := bits v 16 4 }
  | .slewCtl => modPower s fun p => { p with win := bits v 16 8, slewN := bits v 0 5 }
  | _ => s

/-- A write to a register of the management window or global block that the owner and firmware write (R421). -/
def storePriv (s : State) (r : Reg) (val : Word) : State :=
  let v := val.toNat
  match r with
  | .wlThresh port dir wl =>
    if waveOk port dir wl then setWave s port dir wl { waveAt s port dir wl with thresh := BitVec.ofNat 32 v } else s
  | .clGrant n => storeGrant s n v
  | .railCtl n => if n < 4 then storeRail s n v else s
  | .arbCtl => storeArb s v
  | .siteCtl => modPower s fun p => { p with group := bits v 48 16 }
  | .fabId => modLinks s fun l => { l with fabId := BitVec.ofNat 64 (bits v 0 8) }
  | .image => modGlob s fun g => { g with newImage := g.newImage || g.bootSt == 3 }
  | _ => s

/-- A write of the calving control register by the owner or firmware (R389): its command, or N alone. -/
def storeCalving (s : State) (ctx v : Nat) : State :=
  match bits v 8 2 with
  | 1 => calveCores s ctx (bits v 0 8)
  | 2 => returnCores s ctx (bits v 0 8)
  | _ => storeN s ctx (bits v 0 8)

/-- A write to a context's control page, by an agent that may access the page (R422). -/
def storePage (s : State) (by_ : Agent) (r : Reg) (val : Word) : State :=
  let v := val.toNat
  match r with
  | .ctxCfg ctx =>
    modCtx s ctx fun c =>
      let c := { c with clusters := BitVec.ofNat 24 v }
      if isOwner s by_ then { c with fn := bits v 54 5, prv := bit v 32 } else c
  | .ptRoot ctx => modCtx s ctx fun c => { c with ptRoot := bits v 11 41 * 2 ^ 11 }
  | .recBase ctx => modCtx s ctx fun c => { c with recBase := bits v 16 40 * 2 ^ 16 }
  | .frBase ctx => modCtx s ctx fun c => { c with frBase := bits v 14 42 * 2 ^ 14, recHeld := false }
  | .caBase ctx => modCtx s ctx fun c => { c with caBase := bits v 12 44 * 2 ^ 12 }
  | .doorbell0 ctx => modCtx s ctx fun c => { c with door0 := BitVec.ofNat 64 (bits v 5 51 * 32) }
  | .overflow ctx => modCtx s ctx fun c => { c with ovf := v }
  | .spillKey ctx w =>
    modCtx s ctx fun c =>
      let old := bits c.spillKey.toNat (64 * w) 64
      if 4 ≤ w then c else { c with spillKey := BitVec.ofNat 256 (c.spillKey.toNat - old * 2 ^ (64 * w) + v * 2 ^ (64 * w)) }
  | .csr ctx x => modCtx s ctx fun c => c.writeCsr x v
  | .detBlock ctx w =>
    modCtx s ctx fun c =>
      if c.state ≠ 0 then c
      else match w with
        | 1 => { c with wbase := bits v 33 23 * 2 ^ 33, smp := bit v 0 }
        | 2 => { c with tbase := bits v 14 42 * 2 ^ 14 }
        | 3 => { c with seed := val }
        | _ => c
  | .energy ctx n => if n < 256 then modCtx s ctx fun c => { c with energy := putD c.energy n 0 (v * 1000000) } else s
  | .ceBase ctx die =>
    let x := ringAt s ctx die
    if 8 ≤ die ∨ x.head ≠ x.tail then s
    else setRing s ctx die { x with base := bits v 12 44 * 2 ^ 12, logn := bits v 0 4 }
  | .calving ctx => if mayPriv s by_ then storeCalving s ctx v else s
  | _ => s

/-- The context whose page a register lies in. -/
def regPage (r : Reg) : Option Nat :=
  match r with
  | .ctxCfg c => some c
  | .ptRoot c => some c
  | .recBase c => some c
  | .frBase c => some c
  | .caBase c => some c
  | .doorbell0 c => some c
  | .overflow c => some c
  | .spillKey c _ => some c
  | .csr c _ => some c
  | .detBlock c _ => some c
  | .energy c _ => some c
  | .ceBase c _ => some c
  | .resolve c => some c
  | .calving c => some c
  | _ => none

/-- Only firmware writes the register (R421). -/
def regFwOnly (r : Reg) : Bool :=
  match r with
  | .region _ => true
  | .setCtl _ => true
  | .sliceCtl => true
  | .alwCtl _ => true
  | .slewCtl => true
  | _ => false

/-- The size of BAR2 that the host asks for, 1 GiB to 1 TiB (R420). -/
def bar2Size (v : Nat) : Nat := 2 ^ min 10 (Nat.log2 (max v 1))

/-- A write of a context's resolve register: its ACT acts on the target that the word names; other codes do nothing
(R424). -/
def writeResolve (by_ : Agent) (ctx : Nat) (val : Word) (s : State) : Res :=
  match bits val.toNat 0 3 with
  | 1 => execResolveRetryWarp by_ ctx val s
  | 2 => execResolveEndCrew by_ ctx val s
  | 3 => execResolveRetryEngine by_ ctx val s
  | 4 => execResolveAbandon by_ ctx val s
  | 5 => execResolveClearP by_ ctx val s
  | a => .next (if mayPage s by_ ctx then noteResolve s ctx val a else s)

/-- The host writes a word of the MSI-X window: a vector that is pending and no longer masked is sent (R420, log 99). -/
def writeMsix (s : State) (w : Nat) (val : Word) : State :=
  modGlob s fun g =>
    let g := { g with msix := putD g.msix w 0 val }
    { g with pba := g.pba.filter fun e => g.msixMasked e.1 }

/-- REGISTER_WRITE (R420 to R422): a write takes effect, is ignored, or is dropped and counted. -/
def execRegisterWrite (by_ : Agent) (r : Reg) (val : Word) (s : State) : Res :=
  match regPage r with
  | some ctx =>
    if mayPage s by_ ctx ∧ ctx < 64 then
      match r with
      | .resolve _ => writeResolve by_ ctx val s
      | _ => .next (storePage s by_ r val)
    else .next s
  | none =>
    match r with
    | .msix w => if by_ = Agent.host then .next (writeMsix s (w % 4096) val) else .next (countDrop s)
    | .bar2Size => if by_ = Agent.host then .next (modGlob s fun g => { g with bar2 := bar2Size val.toNat }) else .next (countDrop s)
    | .route p => execRoutePortWrite by_ p val s
    | r =>
      if regFwOnly r then (if isFw by_ then .next (storeFw s r val.toNat) else .next (countDrop s))
      else if mayPriv s by_ then .next (storePriv s r val)
      else .next (countDrop s)

end Sys2Proof.Machine
end

