-- ==== Sys2Proof/Machine/Xl.lean ====
section
/-! DEFINITION. The cross-lane instructions of majors 0x22 to 0x25 (R228 to R236) and the reduction tree (R131,
R132). -/

namespace Sys2Proof.Machine

open Sys2Proof

/-! ## Flat elements (R104, R228) -/

/-- Elements per lane. -/
def perLane (t : NumTy) (g : Nat) : Nat := 64 * g / numBits t

/-- Flat element f of lane groups. -/
def flatElem (t : NumTy) (g : Nat) (vals : List Nat) (f : Nat) : Nat :=
  elem (numBits t) (vals.getD (f / perLane t g) 0) (f % perLane t g)

/-- The group of a lane from a function on flat elements. -/
def laneGroup (t : NumTy) (g : Nat) (f : Nat → Nat) (l : Nat) : Nat :=
  let n := perLane t g
  joinElems (numBits t) ((List.range n).map fun k => f (l * n + k))

/-- Lane groups for the lanes of a mask. -/
def groupsOf (m : Mask) (f : Nat → Nat) : List Nat := laneList.map fun l => if inMask m l then f l else 0

/-- A cross-lane instruction with integer sources; the result is fixed at issue (R228). -/
def xlIssue (i : Instr) (d : Dst) (w : Width) (uses : List Use) (res : Warp → List Nat × Flags) (s : State) : State :=
  issue i
    { size := 4, long := true, weight := 40 * w.regs, uses := uses ++ [dst d w], lanes := fun _ => BitVec.allOnes 32 }
    (slotEff d w.regs fun _ x => res x) s

/-! ## Shuffles (R229) -/

/-- A shuffle by a selector of the flat index and the element of B. -/
def Warp.shuffle (w : Warp) (f : AluOp) (sel : (size i y : Nat) → Nat) : List Nat × Flags :=
  let t := NumTy.int f.t
  let g := f.w.regs
  let as := w.rd f.a g t
  let bs := w.rd f.b g t
  let size := 32 * perLane t g
  (groupsOf w.exec (laneGroup t g fun i => flatElem t g as (sel size i (flatElem t g bs i))), 0)

def selShfl (size _ y : Nat) : Nat := y % size
def selShflx (size i y : Nat) : Nat := i ^^^ (y % size)
def selShflu (_ i y : Nat) : Nat := if y ≤ i then i - y else i
def selShfld (size i y : Nat) : Nat := if i + y < size then i + y else i

def execShfl (f : AluOp) (s : State) : Res :=
  .next (xlIssue (.shfl f) f.d f.w [src f.a f.w, src f.b f.w] (fun w => w.shuffle f selShfl) s)
def execShflx (f : AluOp) (s : State) : Res :=
  .next (xlIssue (.shflx f) f.d f.w [src f.a f.w, src f.b f.w] (fun w => w.shuffle f selShflx) s)
def execShflu (f : AluOp) (s : State) : Res :=
  .next (xlIssue (.shflu f) f.d f.w [src f.a f.w, src f.b f.w] (fun w => w.shuffle f selShflu) s)
def execShfld (f : AluOp) (s : State) : Res :=
  .next (xlIssue (.shfld f) f.d f.w [src f.a f.w, src f.b f.w] (fun w => w.shuffle f selShfld) s)

/-! ## Votes (R230, R231) -/

/-- A vote: the group all ones in every active lane when the condition holds, else zero (R230). -/
def Warp.vote (w : Warp) (f : AluUn) (cond : List Nat → Bool) : List Nat × Flags :=
  let g := f.w.regs
  let as := w.rd f.a g (.int f.t)
  let on := cond ((lanesOf w.exec).map fun l => as.getD l 0)
  (groupsOf w.exec fun _ => if on then 2 ^ (64 * g) - 1 else 0, 0)

def execVany (f : AluUn) (s : State) : Res :=
  .next (xlIssue (.vany f) f.d f.w [src f.a f.w] (fun w => w.vote f fun vs => vs.any (· != 0)) s)
def execVall (f : AluUn) (s : State) : Res :=
  .next (xlIssue (.vall f) f.d f.w [src f.a f.w] (fun w => w.vote f fun vs => vs.all (· != 0)) s)
def execVuni (f : AluUn) (s : State) : Res :=
  .next (xlIssue (.vuni f) f.d f.w [src f.a f.w] (fun w => w.vote f fun vs => vs.all (· == vs.headD 0)) s)

/-- BALLOT: the mask of active lanes with a nonzero group (R231). -/
def Warp.ballot (w : Warp) (f : AluUn) : List Nat × Flags :=
  let as := w.rd f.a f.w.regs (.int f.t)
  let m := maskOf fun l => inMask w.exec l && as.getD l 0 != 0
  (groupsOf w.exec fun _ => m.toNat, 0)

def execBallot (f : AluUn) (s : State) : Res :=
  .next (xlIssue (.ballot f) f.d f.w [src f.a f.w] (fun w => w.ballot f) s)

/-- MATCH: for each active lane the mask of active lanes with the same group (R231). -/
def Warp.matchv (w : Warp) (f : AluUn) : List Nat × Flags :=
  let as := w.rd f.a f.w.regs (.int f.t)
  (groupsOf w.exec fun l => (maskOf fun m => inMask w.exec m && as.getD m 0 == as.getD l 0).toNat, 0)

def execMatchv (f : AluUn) (s : State) : Res :=
  .next (xlIssue (.matchv f) f.d f.w [src f.a f.w] (fun w => w.matchv f) s)

/-! ## The reduction tree (R131, R132) -/

/-- A node of the tree: its value, absent where every element is, and the flags of its combines. -/
abbrev Node := Option Nat × Flags

/-- A combining operator with the flags it sets. -/
abbrev Comb := Nat → Nat → Nat × Flags

/-- Combines two nodes; an absent child leaves the other unchanged (R131). -/
def combine (op : Comb) (x y : Node) : Node :=
  match x.1, y.1 with
  | some a, some b => let r := op a b; (some r.1, x.2 ||| y.2 ||| r.2)
  | some a, none => (some a, x.2 ||| y.2)
  | none, r => (r, x.2 ||| y.2)

/-- The level above a level of nodes. -/
def nextLevel (op : Comb) (ns : List Node) : List Node :=
  match ns with
  | x :: y :: ns => combine op x y :: nextLevel op ns
  | ns => ns

/-- The levels of the tree from level 0, `k` levels above it. -/
def treeLevels (op : Comb) (k : Nat) (ns : List Node) : List (List Node) :=
  match k with
  | 0 => [ns]
  | k + 1 => ns :: treeLevels op k (nextLevel op ns)

/-- The greatest t ≤ k with p mod 2^t = 0 and p + 2^t − 1 ≤ b (R132 step 1). -/
def greatestNode (p b k : Nat) : Nat :=
  match k with
  | 0 => 0
  | k + 1 => if p % 2 ^ (k + 1) = 0 ∧ p + 2 ^ (k + 1) ≤ b + 1 then k + 1 else greatestNode p b k

/-- R132's span_reduce over [p, b], combining left to right. -/
def spanFrom (op : Comb) (levels : List (List Node)) (fuel p b : Nat) (acc : Node) : Node :=
  match fuel with
  | 0 => acc
  | fuel + 1 =>
    if b < p then acc
    else
      let t := greatestNode p b (levels.length - 1)
      let x := (levels.getD t []).getD (p / 2 ^ t) (none, 0)
      spanFrom op levels fuel (p + 2 ^ t) b (combine op acc x)

/-- A span's node. -/
def spanReduce (op : Comb) (levels : List (List Node)) (a b : Nat) : Node := spanFrom op levels 64 a b (none, 0)

/-- The operator on elements of a type (R232, R233). -/
def redOp (k : RedK) (t : NumTy) (m : NumMode) : Comb := fun x y =>
  match t with
  | .int t =>
    match k with
    | .add => eAdd t x y 0
    | .min => eMin t x y 0
    | .max => eMax t x y 0
    | .and => eAnd x y 0
    | .or => eOr x y 0
    | .xor => eXor x y 0
  | .flt t =>
    match k with
    | .add => eFadd t m x y 0
    | .min => eFmin t m x y 0
    | .max => eFmax t m x y 0
    | _ => (x, 0)

/-- The identity of R132. -/
def redIdentity (k : RedK) (t : NumTy) : Nat :=
  match k, t with
  | .min, .int t => wrap (tyBits t) (tyMax t)
  | .max, .int t => wrap (tyBits t) (tyMin t)
  | .min, .flt t => infCode (fmtOf t)
  | .max, .flt t => signed (fmtOf t) true (infCode (fmtOf t))
  | .and, t => 2 ^ numBits t - 1
  | _, _ => 0

/-- The leaves of the tree: the elements of the active lanes (R131). -/
def redLeaves (t : NumTy) (g : Nat) (exec : Mask) (vals : List Nat) : List Node :=
  let n := perLane t g
  (List.range (32 * n)).map fun f => if inMask exec (f / n) then (some (flatElem t g vals f), 0) else (none, 0)

/-- The levels above the leaves: log2 of 32 n. -/
def redHeight (t : NumTy) (g : Nat) : Nat := Nat.log2 (32 * perLane t g)

/-- A reduction that gives each active element the node of a span (R233, R234). -/
def Warp.spans (w : Warp) (t : NumTy) (g : Nat) (k : RedK) (vals : List Nat) (node : List (List Node) → Nat → Node) :
    List Nat × Flags :=
  let op := redOp k t w.mode
  let levels := treeLevels op (redHeight t g) (redLeaves t g w.exec vals)
  let n := perLane t g
  let rs := (List.range (32 * n)).map fun i => if inMask w.exec (i / n) then node levels i else (none, 0)
  let vs := rs.map fun r => r.1.getD (redIdentity k t)
  (groupsOf w.exec (laneGroup t g fun i => vs.getD i 0), orFlags (rs.map (·.2)))

/-- SCAN: element i gets the span [0, i] (R233). -/
def execScan (f : RedOp) (s : State) : Res :=
  .next (xlIssue (.scan f) f.d f.w [src f.a f.w]
    (fun w => w.spans f.t f.w.regs f.op (w.rd f.a f.w.regs f.t) fun lv i => spanReduce (redOp f.op f.t w.mode) lv 0 i) s)

/-- SCANX: element i gets the span [0, i − 1], element 0 the identity (R233). -/
def execScanx (f : RedOp) (s : State) : Res :=
  .next (xlIssue (.scanx f) f.d f.w [src f.a f.w]
    (fun w => w.spans f.t f.w.regs f.op (w.rd f.a f.w.regs f.t) fun lv i =>
      if i = 0 then (none, 0) else spanReduce (redOp f.op f.t w.mode) lv 0 (i - 1)) s)

/-- RED: every element gets the root (R233). -/
def execRed (f : RedOp) (s : State) : Res :=
  .next (xlIssue (.red f) f.d f.w [src f.a f.w]
    (fun w => w.spans f.t f.w.regs f.op (w.rd f.a f.w.regs f.t) fun lv _ =>
      (lv.getLastD []).headD (none, 0)) s)

/-- The type of a SEGRED (R234). -/
def segTy (t : SegTy) : NumTy :=
  match t with
  | .s32 => .int .s32
  | .n32 => .int .n32
  | .s64 => .int .s64
  | .n64 => .int .n64
  | .f => .flt .f

/-- The first element of the segment of element i: the last start at or before it (R234). -/
def segStart (mask i : Nat) : Nat :=
  match i with
  | 0 => 0
  | i + 1 => if bit mask (i + 1) then i + 1 else segStart mask i

/-- The last element of the segment of element i: the one before the next start, searching up to N − 1 (R234). -/
def segEnd (mask i fuel : Nat) : Nat :=
  match fuel with
  | 0 => i
  | fuel + 1 => if bit mask (i + 1) then i else segEnd mask (i + 1) fuel

/-- SEGRED: element i gets its segment's sum (R234). -/
def Warp.segred (w : Warp) (f : SegOp) : List Nat × Flags :=
  let t := segTy f.t
  let mask := (w.rd64 f.b).getD ((lowest w.exec).getD 0) 0
  let n := 32 * perLane t 1
  w.spans t 1 .add (w.rd f.a 1 t) fun lv i =>
    spanReduce (redOp .add t w.mode) lv (segStart mask i) (segEnd mask i (n - 1 - i))

def execSegred (f : SegOp) (s : State) : Res :=
  .next (xlIssue (.segred f) f.d .w1 [src f.a .w1, { src f.b .w1 with lead := true }] (fun w => w.segred f) s)

/-! ## Compress and expand (R235) -/

/-- The active positions in ascending order. -/
def activePos (exec : Mask) (n : Nat) : List Nat := (List.range (32 * n)).filter fun f => inMask exec (f / n)

/-- Lane groups from values at the active positions, in order. -/
def fromPositions (t : NumTy) (g : Nat) (exec : Mask) (q vs : List Nat) : List Nat :=
  let m : SMap Nat := q.zip vs
  groupsOf exec (laneGroup t g fun i => look m i 0)

/-- CMPRS (R235). -/
def Warp.cmprs (w : Warp) (f : AluOp) : List Nat × Flags :=
  let t := NumTy.int f.t
  let g := f.w.regs
  let as := w.rd f.a g t
  let bs := w.rd f.b g t
  let q := activePos w.exec (perLane t g)
  let sel := (q.filter fun i => flatElem t g bs i != 0).map (flatElem t g as)
  (fromPositions t g w.exec q (sel ++ List.replicate (q.length - sel.length) 0), 0)

def execCmprs (f : AluOp) (s : State) : Res :=
  .next (xlIssue (.cmprs f) f.d f.w [src f.a f.w, src f.b f.w] (fun w => w.cmprs f) s)

/-- EXPND's values: at each selected position the next element of A in order, 0 elsewhere (R235). -/
def expandVals (sel : Nat → Bool) (q vals : List Nat) : List Nat :=
  match q with
  | [] => []
  | f :: q => if sel f then vals.headD 0 :: expandVals sel q vals.tail else 0 :: expandVals sel q vals

/-- EXPND (R235). -/
def Warp.expnd (w : Warp) (f : AluOp) : List Nat × Flags :=
  let t := NumTy.int f.t
  let g := f.w.regs
  let as := w.rd f.a g t
  let bs := w.rd f.b g t
  let q := activePos w.exec (perLane t g)
  (fromPositions t g w.exec q (expandVals (fun i => flatElem t g bs i != 0) q (q.map (flatElem t g as))), 0)

def execExpnd (f : AluOp) (s : State) : Res :=
  .next (xlIssue (.expnd f) f.d f.w [src f.a f.w, src f.b f.w] (fun w => w.expnd f) s)

end Sys2Proof.Machine
end

