-- ==== Sys2Proof/Machine/Dispatch.lean ====
section
/-! DEFINITION. The meaning of every instruction and event: one arm per constructor of `Instr`. -/

namespace Sys2Proof.Machine

open Sys2Proof

def exec (i : Instr) (s : State) : Host.Outcome State Fault Refusal :=
  match i with
  | .iadd f => Sys2Proof.Machine.execIadd f s
  | .isub f => Sys2Proof.Machine.execIsub f s
  | .iadds f => Sys2Proof.Machine.execIadds f s
  | .isubs f => Sys2Proof.Machine.execIsubs f s
  | .iaddi f => Sys2Proof.Machine.execIaddi f s
  | .imul f => Sys2Proof.Machine.execImul f s
  | .imulh f => Sys2Proof.Machine.execImulh f s
  | .imad f => Sys2Proof.Machine.execImad f s
  | .imin f => Sys2Proof.Machine.execImin f s
  | .imax f => Sys2Proof.Machine.execImax f s
  | .iabs f => Sys2Proof.Machine.execIabs f s
  | .ineg f => Sys2Proof.Machine.execIneg f s
  | .and f => Sys2Proof.Machine.execAnd f s
  | .or f => Sys2Proof.Machine.execOr f s
  | .xor f => Sys2Proof.Machine.execXor f s
  | .andn f => Sys2Proof.Machine.execAndn f s
  | .andi f => Sys2Proof.Machine.execAndi f s
  | .ori f => Sys2Proof.Machine.execOri f s
  | .xori f => Sys2Proof.Machine.execXori f s
  | .shl f => Sys2Proof.Machine.execShl f s
  | .shr f => Sys2Proof.Machine.execShr f s
  | .sra f => Sys2Proof.Machine.execSra f s
  | .rot f => Sys2Proof.Machine.execRot f s
  | .shli f => Sys2Proof.Machine.execShli f s
  | .shri f => Sys2Proof.Machine.execShri f s
  | .srai f => Sys2Proof.Machine.execSrai f s
  | .roti f => Sys2Proof.Machine.execRoti f s
  | .popc f => Sys2Proof.Machine.execPopc f s
  | .clz f => Sys2Proof.Machine.execClz f s
  | .ctz f => Sys2Proof.Machine.execCtz f s
  | .brev f => Sys2Proof.Machine.execBrev f s
  | .bfx f => Sys2Proof.Machine.execBfx f s
  | .bfxs f => Sys2Proof.Machine.execBfxs f s
  | .bfi f => Sys2Proof.Machine.execBfi f s
  | .lea f => Sys2Proof.Machine.execLea f s
  | .iseteq f => Sys2Proof.Machine.execIseteq f s
  | .isetne f => Sys2Proof.Machine.execIsetne f s
  | .isetlt f => Sys2Proof.Machine.execIsetlt f s
  | .isetle f => Sys2Proof.Machine.execIsetle f s
  | .isetgt f => Sys2Proof.Machine.execIsetgt f s
  | .isetge f => Sys2Proof.Machine.execIsetge f s
  | .itest f => Sys2Proof.Machine.execItest f s
  | .sel f => Sys2Proof.Machine.execSel f s
  | .mov f => Sys2Proof.Machine.execMov f s
  | .movi f => Sys2Proof.Machine.execMovi f s
  | .rds d sp => Sys2Proof.Machine.execRds d sp s
  | .wrs a sp => Sys2Proof.Machine.execWrs a sp s
  | .mov16 f => Sys2Proof.Machine.execMov16 f s
  | .zeroHalfword => Sys2Proof.Machine.execZeroHalfword s
  | .iadd16 f => Sys2Proof.Machine.execIadd16 f s
  | .isub16 f => Sys2Proof.Machine.execIsub16 f s
  | .and16 f => Sys2Proof.Machine.execAnd16 f s
  | .or16 f => Sys2Proof.Machine.execOr16 f s
  | .xor16 f => Sys2Proof.Machine.execXor16 f s
  | .shli16 f => Sys2Proof.Machine.execShli16 f s
  | .shri16 f => Sys2Proof.Machine.execShri16 f s
  | .movi16 f => Sys2Proof.Machine.execMovi16 f s
  | .iaddi16 f => Sys2Proof.Machine.execIaddi16 f s
  | .fadd16 f => Sys2Proof.Machine.execFadd16 f s
  | .fmul16 f => Sys2Proof.Machine.execFmul16 f s
  | .fsub16 f => Sys2Proof.Machine.execFsub16 f s
  | .imul16 f => Sys2Proof.Machine.execImul16 f s
  | .lds16 x d => Sys2Proof.Machine.execLds16 x d s
  | .sts16 x d => Sys2Proof.Machine.execSts16 x d s
  | .bra off => Sys2Proof.Machine.execBra off s
  | .brc off a c => Sys2Proof.Machine.execBrc off a c s
  | .brx off a z => Sys2Proof.Machine.execBrx off a z s
  | .brk a z => Sys2Proof.Machine.execBrk a z s
  | .pj off => Sys2Proof.Machine.execPj off s
  | .call off => Sys2Proof.Machine.execCall off s
  | .join => Sys2Proof.Machine.execJoin s
  | .jmpr a => Sys2Proof.Machine.execJmpr a s
  | .exit => Sys2Proof.Machine.execExit s
  | .callr a => Sys2Proof.Machine.execCallr a s
  | .mskrd d sel => Sys2Proof.Machine.execMskrd d sel s
  | .mskwr a => Sys2Proof.Machine.execMskwr a s
  | .mskand a => Sys2Proof.Machine.execMskand a s
  | .fadd f => Sys2Proof.Machine.execFadd f s
  | .fsub f => Sys2Proof.Machine.execFsub f s
  | .fmul f => Sys2Proof.Machine.execFmul f s
  | .ffma f => Sys2Proof.Machine.execFfma f s
  | .fmin f => Sys2Proof.Machine.execFmin f s
  | .fmax f => Sys2Proof.Machine.execFmax f s
  | .fabs f => Sys2Proof.Machine.execFabs f s
  | .fneg f => Sys2Proof.Machine.execFneg f s
  | .frcp f => Sys2Proof.Machine.execFrcp f s
  | .frsq f => Sys2Proof.Machine.execFrsq f s
  | .fsqrt f => Sys2Proof.Machine.execFsqrt f s
  | .fexp2 f => Sys2Proof.Machine.execFexp2 f s
  | .flog2 f => Sys2Proof.Machine.execFlog2 f s
  | .fsin f => Sys2Proof.Machine.execFsin f s
  | .fcos f => Sys2Proof.Machine.execFcos f s
  | .frnd f => Sys2Proof.Machine.execFrnd f s
  | .fseteq f => Sys2Proof.Machine.execFseteq f s
  | .fsetne f => Sys2Proof.Machine.execFsetne f s
  | .fsetlt f => Sys2Proof.Machine.execFsetlt f s
  | .fsetle f => Sys2Proof.Machine.execFsetle f s
  | .fsetgt f => Sys2Proof.Machine.execFsetgt f s
  | .fsetge f => Sys2Proof.Machine.execFsetge f s
  | .fsetun f => Sys2Proof.Machine.execFsetun f s
  | .fclass f => Sys2Proof.Machine.execFclass f s
  | .cvt f => Sys2Proof.Machine.execCvt f s
  | .sepk f => Sys2Proof.Machine.execSepk f s
  | .seunpk f => Sys2Proof.Machine.execSeunpk f s
  | .f8pk f => Sys2Proof.Machine.execF8pk f s
  | .f8unpk f => Sys2Proof.Machine.execF8unpk f s
  | .shfl f => Sys2Proof.Machine.execShfl f s
  | .shflx f => Sys2Proof.Machine.execShflx f s
  | .shflu f => Sys2Proof.Machine.execShflu f s
  | .shfld f => Sys2Proof.Machine.execShfld f s
  | .vany f => Sys2Proof.Machine.execVany f s
  | .vall f => Sys2Proof.Machine.execVall f s
  | .vuni f => Sys2Proof.Machine.execVuni f s
  | .ballot f => Sys2Proof.Machine.execBallot f s
  | .scan f => Sys2Proof.Machine.execScan f s
  | .scanx f => Sys2Proof.Machine.execScanx f s
  | .red f => Sys2Proof.Machine.execRed f s
  | .segred f => Sys2Proof.Machine.execSegred f s
  | .cmprs f => Sys2Proof.Machine.execCmprs f s
  | .expnd f => Sys2Proof.Machine.execExpnd f s
  | .matchv f => Sys2Proof.Machine.execMatchv f s
  | .ldg f => Sys2Proof.Machine.execLdg f s
  | .stg f => Sys2Proof.Machine.execStg f s
  | .lds f => Sys2Proof.Machine.execLds f s
  | .sts f => Sys2Proof.Machine.execSts f s
  | .cstg f => Sys2Proof.Machine.execCstg f s
  | .csts f => Sys2Proof.Machine.execCsts f s
  | .atomg f => Sys2Proof.Machine.execAtomg f s
  | .atomx f => Sys2Proof.Machine.execAtomx f s
  | .atoms f => Sys2Proof.Machine.execAtoms f s
  | .fence k scope => Sys2Proof.Machine.execFence k scope s
  | .tlwait e n => Sys2Proof.Machine.execTlwait e n s
  | .tlrd e d fault => Sys2Proof.Machine.execTlrd e d fault s
  | .deq d c scope => Sys2Proof.Machine.execDeq d c scope s
  | .enq d c scope close => Sys2Proof.Machine.execEnq d c scope close s
  | .qtry d c scope => Sys2Proof.Machine.execQtry d c scope s
  | .qbind c => Sys2Proof.Machine.execQbind c s
  | .barinit c => Sys2Proof.Machine.execBarinit c s
  | .bararv d c scope => Sys2Proof.Machine.execBararv d c scope s
  | .barwait n c scope => Sys2Proof.Machine.execBarwait n c scope s
  | .bararvw c scope => Sys2Proof.Machine.execBararvw c scope s
  | .cpy f => Sys2Proof.Machine.execCpy f s
  | .cpyt f => Sys2Proof.Machine.execCpyt f s
  | .cpyp f => Sys2Proof.Machine.execCpyp f s
  | .cpyg f => Sys2Proof.Machine.execCpyg f s
  | .cpyr f => Sys2Proof.Machine.execCpyr f s
  | .cpye f => Sys2Proof.Machine.execCpye f s
  | .pfch q c scope cw => Sys2Proof.Machine.execPfch q c scope cw s
  | .recld c => Sys2Proof.Machine.execRecld c s
  | .recinv c => Sys2Proof.Machine.execRecinv c s
  | .recq d c => Sys2Proof.Machine.execRecq d c s
  | .mma c => Sys2Proof.Machine.execMma c s
  | .mman c => Sys2Proof.Machine.execMman c s
  | .accz c => Sys2Proof.Machine.execAccz c s
  | .accrd d c sat => Sys2Proof.Machine.execAccrd d c sat s
  | .accwr c => Sys2Proof.Machine.execAccwr c s
  | .wbld c => Sys2Proof.Machine.execWbld c s
  | .wbq d c => Sys2Proof.Machine.execWbq d c s
  | .tbuild c => Sys2Proof.Machine.execTbuild c s
  | .tlook c => Sys2Proof.Machine.execTlook c s
  | .tfin c acc => Sys2Proof.Machine.execTfin c acc s
  | .tchk d c => Sys2Proof.Machine.execTchk d c s
  | .tspill c => Sys2Proof.Machine.execTspill c s
  | .tfill c => Sys2Proof.Machine.execTfill c s
  | .tinv c => Sys2Proof.Machine.execTinv c s
  | .tfence => Sys2Proof.Machine.execTfence s
  | .flgrd d b => Sys2Proof.Machine.execFlgrd d b s
  | .flgwr a b => Sys2Proof.Machine.execFlgwr a b s
  | .prio a => Sys2Proof.Machine.execPrio a s
  | .regrs d a => Sys2Proof.Machine.execRegrs d a s
  | .yield => Sys2Proof.Machine.execYield s
  | .sleep a => Sys2Proof.Machine.execSleep a s
  | .csrr d r => Sys2Proof.Machine.execCsrr d r s
  | .csrw r a => Sys2Proof.Machine.execCsrw r a s
  | .nop => Sys2Proof.Machine.execNop s
  | .trap code => Sys2Proof.Machine.execTrap code s
  | .bkpt => Sys2Proof.Machine.execBkpt s
  | .phase => Sys2Proof.Machine.execPhase s
  | .limm imm => Sys2Proof.Machine.execLimm imm s
  | .trl mask x y => Sys2Proof.Machine.execTrl mask x y s
  | .runStart core quarter => Sys2Proof.Machine.execRunStart core quarter s
  | .blockedRunResume warp => Sys2Proof.Machine.execBlockedRunResume warp s
  | .slotReturn warp slot => Sys2Proof.Machine.execSlotReturn warp slot s
  | .trapDeliver warp => Sys2Proof.Machine.execTrapDeliver warp s
  | .faultRecordWrite ctx => Sys2Proof.Machine.execFaultRecordWrite ctx s
  | .faultRingHeadWrite by_ ctx val => Sys2Proof.Machine.execFaultRingHeadWrite by_ ctx val s
  | .priorityPromote warp => Sys2Proof.Machine.execPriorityPromote warp s
  | .warpEnd warp => Sys2Proof.Machine.execWarpEnd warp s
  | .sleepExpire warp => Sys2Proof.Machine.execSleepExpire warp s
  | .recordFetch core ctx handle => Sys2Proof.Machine.execRecordFetch core ctx handle s
  | .pageWalk core ctx va => Sys2Proof.Machine.execPageWalk core ctx va s
  | .copyRetire core queue => Sys2Proof.Machine.execCopyRetire core queue s
  | .chainStart core queue => Sys2Proof.Machine.execChainStart core queue s
  | .engineFaultPending core eng => Sys2Proof.Machine.execEngineFaultPending core eng s
  | .mxRetire core => Sys2Proof.Machine.execMxRetire core s
  | .lkRetire core => Sys2Proof.Machine.execLkRetire core s
  | .messageArrive k => Sys2Proof.Machine.execMessageArrive k s
  | .creditReturn k => Sys2Proof.Machine.execCreditReturn k s
  | .remoteHalfAccess warp slot lane => Sys2Proof.Machine.execRemoteHalfAccess warp slot lane s
  | .farArrival k => Sys2Proof.Machine.execFarArrival k s
  | .queueItemDeliver warp slot => Sys2Proof.Machine.execQueueItemDeliver warp slot s
  | .queueOrphan ctx qb => Sys2Proof.Machine.execQueueOrphan ctx qb s
  | .sliceAccess r => Sys2Proof.Machine.execSliceAccess r s
  | .replicaInvalidate line die => Sys2Proof.Machine.execReplicaInvalidate line die s
  | .collapseComplete line => Sys2Proof.Machine.execCollapseComplete line s
  | .sliceWriteApply die num => Sys2Proof.Machine.execSliceWriteApply die num s
  | .channelAccess line act => Sys2Proof.Machine.execChannelAccess line act s
  | .torusHop r => Sys2Proof.Machine.execTorusHop r s
  | .holdingBufferRelease router out => Sys2Proof.Machine.execHoldingBufferRelease router out s
  | .fabricAccess port => Sys2Proof.Machine.execFabricAccess port s
  | .opticalFlitReceive port rx => Sys2Proof.Machine.execOpticalFlitReceive port rx s
  | .wavelengthRetire port dir wl bits => Sys2Proof.Machine.execWavelengthRetire port dir wl bits s
  | .wavelengthTrainDone port dir wl ok => Sys2Proof.Machine.execWavelengthTrainDone port dir wl ok s
  | .wavelengthEnableWrite by_ port dir wl val => Sys2Proof.Machine.execWavelengthEnableWrite by_ port dir wl val s
  | .routePortWrite by_ p val => Sys2Proof.Machine.execRoutePortWrite by_ p val s
  | .dieMapWrite by_ val => Sys2Proof.Machine.execDieMapWrite by_ val s
  | .dieMapApply => Sys2Proof.Machine.execDieMapApply s
  | .setEvacuate by_ set ch => Sys2Proof.Machine.execSetEvacuate by_ set ch s
  | .setFail by_ set ch => Sys2Proof.Machine.execSetFail by_ set ch s
  | .moraineGranuleBegin set => Sys2Proof.Machine.execMoraineGranuleBegin set s
  | .moraineGranuleComplete set => Sys2Proof.Machine.execMoraineGranuleComplete set s
  | .sliceEvacuate by_ slice => Sys2Proof.Machine.execSliceEvacuate by_ slice s
  | .sliceEntryMove => Sys2Proof.Machine.execSliceEntryMove s
  | .bankRetire core phys => Sys2Proof.Machine.execBankRetire core phys s
  | .columnSteerRewrite core => Sys2Proof.Machine.execColumnSteerRewrite core s
  | .shootdown by_ ctx val => Sys2Proof.Machine.execShootdown by_ ctx val s
  | .shootdownComplete ctx => Sys2Proof.Machine.execShootdownComplete ctx s
  | .launchWrite by_ ctx val => Sys2Proof.Machine.execLaunchWrite by_ ctx val s
  | .launchRecordRead ctx => Sys2Proof.Machine.execLaunchRecordRead ctx s
  | .placementEntryApply die => Sys2Proof.Machine.execPlacementEntryApply die s
  | .calveCommand by_ ctx n => Sys2Proof.Machine.execCalveCommand by_ ctx n s
  | .returnCommand by_ w => Sys2Proof.Machine.execReturnCommand by_ w s
  | .graceExpire warp => Sys2Proof.Machine.execGraceExpire warp s
  | .calveSaveDone ctx => Sys2Proof.Machine.execCalveSaveDone ctx s
  | .groupResume ctx grp => Sys2Proof.Machine.execGroupResume ctx grp s
  | .qlaneWrite by_ core quarter val => Sys2Proof.Machine.execQlaneWrite by_ core quarter val s
  | .qrowsWrite by_ core quarter val => Sys2Proof.Machine.execQrowsWrite by_ core quarter val s
  | .steeringRewriteDone core quarter => Sys2Proof.Machine.execSteeringRewriteDone core quarter s
  | .laneSelfCheckFail core u => Sys2Proof.Machine.execLaneSelfCheckFail core u s
  | .coreOutOfService core => Sys2Proof.Machine.execCoreOutOfService core s
  | .regrsGrant core quarter => Sys2Proof.Machine.execRegrsGrant core quarter s
  | .regrsDeny core quarter => Sys2Proof.Machine.execRegrsDeny core quarter s
  | .clusterQuiesce c => Sys2Proof.Machine.execClusterQuiesce c s
  | .slewAdmit => Sys2Proof.Machine.execSlewAdmit s
  | .grantBoundary => Sys2Proof.Machine.execGrantBoundary s
  | .powerMonitorSample watts => Sys2Proof.Machine.execPowerMonitorSample watts s
  | .tokenPass die => Sys2Proof.Machine.execTokenPass die s
  | .tokenTimeout die => Sys2Proof.Machine.execTokenTimeout die s
  | .paceWrite by_ g val => Sys2Proof.Machine.execPaceWrite by_ g val s
  | .paceApply g => Sys2Proof.Machine.execPaceApply g s
  | .budgetTokenSend pkg k => Sys2Proof.Machine.execBudgetTokenSend pkg k s
  | .budgetTokenReceive pkg k => Sys2Proof.Machine.execBudgetTokenReceive pkg k s
  | .supplyDroop c clocks => Sys2Proof.Machine.execSupplyDroop c clocks s
  | .phaseAdvance ctx => Sys2Proof.Machine.execPhaseAdvance ctx s
  | .digestCompare ctx k => Sys2Proof.Machine.execDigestCompare ctx k s
  | .ceTailWrite by_ ctx die val => Sys2Proof.Machine.execCeTailWrite by_ ctx die val s
  | .ceCommand ctx die => Sys2Proof.Machine.execCeCommand ctx die s
  | .ceFault ctx die => Sys2Proof.Machine.execCeFault ctx die s
  | .doorbell by_ ctx val => Sys2Proof.Machine.execDoorbell by_ ctx val s
  | .resolveRetryWarp by_ ctx val => Sys2Proof.Machine.execResolveRetryWarp by_ ctx val s
  | .resolveEndCrew by_ ctx val => Sys2Proof.Machine.execResolveEndCrew by_ ctx val s
  | .resolveRetryEngine by_ ctx val => Sys2Proof.Machine.execResolveRetryEngine by_ ctx val s
  | .resolveAbandon by_ ctx val => Sys2Proof.Machine.execResolveAbandon by_ ctx val s
  | .resolveClearP by_ ctx val => Sys2Proof.Machine.execResolveClearP by_ ctx val s
  | .hostBar2Access pa r => Sys2Proof.Machine.execHostBar2Access pa r s
  | .ownerClaim m => Sys2Proof.Machine.execOwnerClaim m s
  | .ownerNameSuccessor m succ => Sys2Proof.Machine.execOwnerNameSuccessor m succ s
  | .ownerRelease m => Sys2Proof.Machine.execOwnerRelease m s
  | .handoverExpire => Sys2Proof.Machine.execHandoverExpire s
  | .boot b => Sys2Proof.Machine.execBoot b s
  | .spdmGetVersion => Sys2Proof.Machine.execSpdmGetVersion s
  | .spdmGetCapabilities => Sys2Proof.Machine.execSpdmGetCapabilities s
  | .spdmNegotiateAlgorithms hash asym => Sys2Proof.Machine.execSpdmNegotiateAlgorithms hash asym s
  | .spdmGetDigests => Sys2Proof.Machine.execSpdmGetDigests s
  | .spdmGetCertificate slot => Sys2Proof.Machine.execSpdmGetCertificate slot s
  | .spdmChallenge nonce => Sys2Proof.Machine.execSpdmChallenge nonce s
  | .spdmGetMeasurements index => Sys2Proof.Machine.execSpdmGetMeasurements index s
  | .memoryScrub chan flit raced => Sys2Proof.Machine.execMemoryScrub chan flit raced s
  | .registerWrite by_ r val => Sys2Proof.Machine.execRegisterWrite by_ r val s
  | .hostDmaTransfer ctx va r => Sys2Proof.Machine.execHostDmaTransfer ctx va r s
  | .opticalPartnerAttach port on => Sys2Proof.Machine.execOpticalPartnerAttach port on s
  | .hostLinkTraining up => Sys2Proof.Machine.execHostLinkTraining up s

end Sys2Proof.Machine
end

