-- ==== Sys2Proof/Machine/Run.lean ====
section
/-! DEFINITION. How a turn runs: the fetch of a run (R137, R148, R384), the turn of a warp, the environment's acts, and
the schedule that a state without listed turns follows (log 2). -/

namespace Sys2Proof.Machine

open Sys2Proof

/-! ## Fetching a run (R137, R148) -/

/-- The trap of a fetch that fails at a byte: taken at the run start, with POS 0 (R384). -/
def Warp.fetchTrap (w : Warp) (cause va : Nat) : TrapReq :=
  { w.trap cause with addr := BitVec.ofNat 64 va, pos := 0, resume := w.pc }

/-- A read of a halfword of code, or its walk, must wait (R53, R66, R364). -/
def halfWaits (s : State) (w : Warp) (va : Nat) : Bool :=
  transWaits s w.core w.ctx va ||
    ((translate s w.core w.ctx va 2 .fetch).pa?.map fun pa => dieWaits s (dieOfCore w.core) pa 2).getD false

/-- The halfword of two free bytes, from a number on. -/
def freeHalf (n : Nat) : BitVec 16 := BitVec.ofNat 16 (leNat [Config.freeByte n, Config.freeByte (n + 1)])

/-- One halfword of code, translated and checked under R45, and read as the core's die sees it; poison is exact (R386). In a
spill or queue area, where what a program reads is unspecified (R111, R325), a fetch finds free bytes, as a load does
(log 6). -/
def fetchHalf (s : State) (w : Warp) (va : Nat) : BitVec 16 ⊕ TrapReq :=
  match translate s w.core w.ctx va 2 .fetch with
  | .bad c => .inr (w.fetchTrap c va)
  | .ok pa _ =>
    let r := dieRead s (dieOfCore w.core) pa 2
    if r.2 then .inr (w.fetchTrap cPOISON va)
    else if privateVa s w.ctx va then .inl (freeHalf (s.free + (va - w.pc)))
    else .inl (BitVec.ofNat 16 (leNat r.1))

/-- The halfwords from an address through the next trailer, or through n instructions (R148). -/
def fetchRun (s : State) (w : Warp) (n va : Nat) : List (BitVec 16) ⊕ TrapReq :=
  match n with
  | 0 => .inl []
  | n + 1 =>
    match fetchHalf s w va with
    | .inr t => .inr t
    | .inl h =>
      if h.toNat % 2 = 0 then
        match fetchRun s w n (va + 2) with
        | .inr t => .inr t
        | .inl l => .inl (h :: l)
      else
        match fetchHalf s w (va + 2) with
        | .inr t => .inr t
        | .inl k =>
          if h.toNat % 2 ^ 7 = 0x7F then .inl [h, k]
          else match fetchRun s w n (va + 4) with
            | .inr t => .inr t
            | .inl l => .inl (h :: k :: l)

/-- Some halfword that the fetch of a run reads must be waited for. -/
def fetchWaits (s : State) (w : Warp) (n va : Nat) : Bool :=
  match n with
  | 0 => false
  | n + 1 =>
    halfWaits s w va ||
      (match fetchHalf s w va with
       | .inr _ => false
       | .inl h =>
         if h.toNat % 2 = 0 then fetchWaits s w n (va + 2)
         else halfWaits s w (va + 2) ||
           (match fetchHalf s w (va + 2) with
            | .inr _ => false
            | .inl _ => h.toNat % 2 ^ 7 != 0x7F && fetchWaits s w n (va + 4)))

/-- The warp stands at a run start whose fetch must wait. -/
def codeWaits (s : State) (w : Warp) : Bool :=
  match w.code with
  | some (_ :: _) => false
  | _ => fetchWaits s w (25 - w.run.pos) w.pc

/-- The state after the fetch of a run of n halfwords: each line that it reads has been read at its home, the context is
charged (R47, R365, R417), and the free bytes that it found are used up. -/
def fetched (s : State) (w : Warp) (n : Nat) : State :=
  match w.code with
  | some (_ :: _) => s
  | _ =>
    let s := if (List.range n).any fun i => privateVa s w.ctx (w.pc + 2 * i) then { s with free := s.free + 2 * n } else s
    (List.range (n / 64 + 2)).foldl (fun s i =>
      let lo := max w.pc ((w.pc / 128 + i) * 128)
      let m := min (w.pc + 2 * n) ((w.pc / 128 + i + 1) * 128) - lo
      if m = 0 then s
      else match translate s w.core w.ctx lo 2 .fetch with
        | .bad _ => s
        | .ok pa pte => homeServes s w.ctx (dieOfCore w.core) pa m (pteMt pte != 0) false) s

/-- The warp's next halfwords, fetched at a run start. -/
def runCode (s : State) (w : Warp) : List (BitVec 16) ⊕ TrapReq :=
  match w.code with
  | some (h :: l) => .inl (h :: l)
  | _ => fetchRun s w (25 - w.run.pos) w.pc

/-- The trap of a word that is no instruction (R158, R380). -/
def Warp.badWord (w : Warp) (hs : List (BitVec 16)) : TrapReq := { w.trap cILLEGAL_ENC with info := headWord hs }

/-- A warp issues: it fetches its run if it stands at a run start, decodes its next instruction and executes it. -/
def issueTurn (k : Nat) (s : State) : Res :=
  match warpAt s k with
  | none => .next s
  | some w =>
    if !mayIssue s w || codeWaits s w then .next s
    else match runCode s w with
    | .inr t => .next (raise s k w t)
    | .inl hs =>
      match decode hs with
      | none => .next (raise (fetched s w hs.length) k w (w.badWord hs))
      | some (i, _) =>
        exec i (setWarp { fetched s w hs.length with cur := k } k { w with code := some hs })

/-! ## The two holders of a quarter (R343) -/

/-- The ALU-class instructions (R156); the others but the trailer are of the other class. -/
def Instr.isAlu (i : Instr) : Bool :=
  match i with
  | .iadd .. | .isub .. | .iadds .. | .isubs .. | .iaddi .. | .imul .. | .imulh .. | .imad .. | .imin .. | .imax ..
  | .iabs .. | .ineg .. | .and .. | .or .. | .xor .. | .andn .. | .andi .. | .ori .. | .xori .. | .shl .. | .shr ..
  | .sra .. | .rot .. | .shli .. | .shri .. | .srai .. | .roti .. | .popc .. | .clz .. | .ctz .. | .brev .. | .bfx ..
  | .bfxs .. | .bfi .. | .lea .. | .iseteq .. | .isetne .. | .isetlt .. | .isetle .. | .isetgt .. | .isetge ..
  | .itest .. | .sel .. | .mov .. | .movi .. | .mov16 .. | .zeroHalfword | .iadd16 .. | .isub16 .. | .and16 ..
  | .or16 .. | .xor16 .. | .shli16 .. | .shri16 .. | .movi16 .. | .iaddi16 .. | .fadd16 .. | .fmul16 .. | .fsub16 ..
  | .imul16 .. | .fadd .. | .fsub .. | .fmul .. | .ffma .. | .fmin .. | .fmax .. | .fabs .. | .fneg .. | .frnd ..
  | .fseteq .. | .fsetne .. | .fsetlt .. | .fsetle .. | .fsetgt .. | .fsetge .. | .fsetun .. | .fclass .. | .cvt ..
  | .f8pk .. | .f8unpk .. | .limm .. => true
  | _ => false

/-- The octet of a command as a source, read in the leader lane (R159). -/
def octetUse (c : Fin 4) : Use := { src (.v ⟨8 * c.val, by omega⟩) .w1 with g := 8, lead := true }

/-- The operands that an instruction reads at its issue (R142, R146, R159). -/
def Instr.sources (i : Instr) : List Use :=
  match i with
  | .iadd f | .isub f | .iadds f | .isubs f | .imul f | .imulh f | .imin f | .imax f | .and f | .or f | .xor f | .andn f
  | .shl f | .shr f | .sra f | .rot f | .bfx f | .bfxs f | .lea f | .iseteq f | .isetne f | .isetlt f | .isetle f
  | .isetgt f | .isetge f | .itest f | .shfl f | .shflx f | .shflu f | .shfld f | .cmprs f | .expnd f =>
    [src f.a f.w, src f.b f.w]
  | .imad f | .bfi f | .sel f => [src f.a f.w, src f.b f.w, dstRead f.d f.w]
  | .iabs f | .ineg f | .popc f | .clz f | .ctz f | .brev f | .mov f | .vany f | .vall f | .vuni f | .ballot f
  | .matchv f => [src f.a f.w]
  | .iaddi f | .andi f | .ori f | .xori f => [src f.a .w1]
  | .shli f | .shri f | .srai f | .roti f => [src f.a f.w]
  | .fadd f | .fsub f | .fmul f | .fmin f | .fmax f | .fseteq f | .fsetne f | .fsetlt f | .fsetle f | .fsetgt f
  | .fsetge f | .fsetun f => [src f.a f.w, src f.b f.w]
  | .ffma f => [src f.a f.w, src f.b f.w, dstRead f.d f.w]
  | .fabs f | .fneg f | .frcp f | .frsq f | .fsqrt f | .fexp2 f | .flog2 f | .fsin f | .fcos f | .frnd f | .fclass f =>
    [src f.a f.w]
  | .cvt f => [src f.a f.w]
  | .sepk f | .seunpk f => [src f.a .w1]
  | .f8pk f => [src f.a .w1, src f.b .w1]
  | .f8unpk f => [src f.a .w1]
  | .scan f | .scanx f | .red f => [src f.a f.w]
  | .segred f => [src f.a .w1, { src f.b .w1 with lead := true }]
  | .mov16 f => [src (.v f.s) .w1]
  | .iadd16 f | .isub16 f | .and16 f | .or16 f | .xor16 f | .imul16 f | .fadd16 f | .fmul16 f | .fsub16 f =>
    [src (.v f.d) .w1, src (.v f.s) .w1]
  | .shli16 f | .shri16 f | .iaddi16 f => [src (.v f.d) .w1]
  | .lds16 a _ => [src (.v a) .w1]
  | .sts16 a d => [src (.v a) .w1, src (.v d) .w1]
  | .ldg f | .lds f => [src f.a .w1]
  | .stg f | .sts f | .cstg f | .csts f => [src f.a .w1, src f.d f.w]
  | .atomg f => [src f.a .w1, dstRead f.d .w1]
  | .atomx f => [src f.a .w1, dstRead f.d .w1]
  | .atoms f => [src f.a .w1, dstRead f.d .w1]
  | .wrs a _ | .brc _ a _ | .brx _ a _ | .brk a _ | .jmpr a | .callr a | .mskwr a | .mskand a | .flgrd _ a | .prio a
  | .regrs _ a | .sleep a | .csrw _ a | .tlwait _ a => [src a .w1]
  | .flgwr a b => [src a .w1, src b .w1]
  | .barwait n c _ => [src n .w1, octetUse c]
  | .deq _ c _ | .enq _ c _ _ | .qtry _ c _ | .qbind c | .barinit c | .bararv _ c _ | .bararvw c _ | .pfch _ c _ _
  | .recld c | .recinv c | .recq _ c | .mma c | .mman c | .accz c | .accrd _ c _ | .accwr c | .wbld c | .wbq _ c
  | .tbuild c | .tlook c | .tfin c _ | .tchk _ c | .tspill c | .tfill c | .tinv c => [octetUse c]
  | .cpy f | .cpyt f | .cpyp f | .cpyg f | .cpyr f | .cpye f => [octetUse f.c]
  | _ => []

/-- The banks of the main file whose read ports an instruction needs (R113). -/
def readBanks (w : Warp) (i : Instr) : List Nat :=
  (List.range 4).filter fun b =>
    (Instr.sources i).any fun u => (u.readLanes w w.exec).any fun l => (u.regsIn w l).any fun r => decide (r < 64) && r % 4 == b

/-- A warp's next instruction; none where it fetches or decodes none, or stands at a trailer, which uses no issue port
(R343). -/
def nextInstr (s : State) (w : Warp) : Option Instr :=
  match runCode s w with
  | .inr _ => none
  | .inl hs =>
    match decode hs with
    | none => none
    | some (i, _) => if headWord hs % 128 = 0x7F then none else some i

/-- The next instructions of two warps do not issue in one clock: they are of one class, or need one bank's read port
(R343). -/
def contend (s : State) (x w : Warp) : Bool :=
  match nextInstr s x, nextInstr s w with
  | some i, some j => Instr.isAlu i == Instr.isAlu j || (readBanks x i).any fun b => (readBanks w j).contains b
  | _, _ => false

/-- A warp's next instruction would issue in its turn. -/
def wouldIssue (s : State) (w : Warp) : Bool :=
  mayIssue s w && (match issueTurn w.key s with
    | .next t => (warpAt t w.key).all fun x => x.pc != w.pc || x.run.pos != w.run.pos || x.runNo != w.runNo || x.st != w.st
    | _ => false)

/-- The warp in the quarter's other holder whose next instruction would issue and contends with the warp's (R343). -/
def rival (s : State) (w : Warp) : Option Warp :=
  firstOf (fun x => x.key != w.key && x.inHolder && wouldIssue s x && contend s x w) (quarterWarps s w.core w.quarter)

/-- The other holder wins the next tie of the quarter (R343). -/
def passTie (s : State) (w : Warp) : State :=
  modCore s w.core fun c => modQuarter c w.quarter fun q => { q with tie := !w.holder }

/-- The turn of a warp. Of two instructions of one class, or that need one bank's read port, in a quarter's two holders only one
issues: that of the higher effective priority, or on a tie that of the warp that lost the last one (R343). -/
def warpTurn (k : Nat) (s : State) : Res :=
  match warpAt s k with
  | none => .next s
  | some w =>
    match rival s w with
    | none => issueTurn k s
    | some x =>
      if !wouldIssue s w || decide (x.effPrio < w.effPrio) then issueTurn k s
      else if w.effPrio < x.effPrio ∨ (quarterAt (coreAt s w.core) w.quarter).tie ≠ w.holder then .next s
      else issueTurn k (passTie s w)

/-! ## The environment -/

/-- Retires the shared or own translation that an eviction names (R46). -/
def evictTlb (s : State) (core ctx va : Nat) : State :=
  if s.mem.tlb.any fun t => t.covers core ctx va then
    modMem s fun m => { m with tlb := m.tlb.filter fun t => !t.covers core ctx va }
  else
    modMem s fun m => { m with dieTlb := m.dieTlb.filter fun t => !t.covers (dieOfCore core) ctx va }

/-- An uncorrectable error strikes words of a register that the warp holds, or with 64 to 69 of o0 to o5 of its run
(R102, R107, R112). -/
def strikeReg (s : State) (k reg : Nat) (lanes : Mask) : State :=
  modWarp s k fun w =>
    if reg < w.alloc then { w with ue := putD w.ue reg 0 (look w.ue reg 0 ||| lanes) }
    else if 64 ≤ reg ∧ reg < 70 then
      { w with run := { w.run with oue := putD w.run.oue (reg - 64) 0 (look w.run.oue (reg - 64) 0 ||| lanes) } }
    else w

/-- An uncorrectable error strikes a word of a scratchpad and poisons its unit (R76). -/
def strikeScratch (s : State) (core a : Nat) : State :=
  if core < 192 ∧ a < 2 ^ 22 then setScrPoison s core a true else s

/-- An uncorrectable error strikes an accumulator element and poisons it (R243). -/
def strikeAcc (s : State) (ck elem : Nat) : State :=
  modCrew s ck fun c => if elem < c.nAcc * 24576 then { c with accPois := putD c.accPois elem false true } else c

/-- An uncorrectable error strikes flits of a line at its home: those of a dirty line are poisoned; a clean line is
discarded and fetched again from memory (R39, R48), where its write-back, if that still waits behind a move, comes first
(R35, R36). -/
def strikeLine (s : State) (l : Nat) (flits : BitVec 4) : State :=
  match lineAt s l with
  | none => s
  | some x =>
    if x.dirty then setLine s l { x with pois := x.pois ||| flits }
    else if lineStalled s l then s
    else setLine s l { fillLine s l with vec := x.vec }

/-- The state a meaning answers with. -/
def after (f : State → Res) (s : State) : State :=
  match f s with
  | .next s' => s'
  | _ => s

/-- The phase, the oldest digest and the ce rings of a context (R281, R397, R405). -/
def contextAct (s : State) (ctx : Nat) : State :=
  (List.range 8).foldl (fun s d => after (execCeFault ctx d) (after (execCeCommand ctx d) s))
    (after (execDigestCompare ctx 0) (after (execPhaseAdvance ctx) s))

/-- The package's timers (R412 to R414, R426). -/
def timersAct (s : State) (watts : Nat) : State :=
  let s := after (execPowerMonitorSample watts) s
  let s := s.power.paces.foldl (fun s e => after (execPaceApply e.1) s) s
  after execHandoverExpire ((List.range 8).foldl (fun s d => after (execTokenTimeout d) s) s)

/-- What the environment does. -/
def envStep (e : Env) (s : State) : State :=
  match e with
  | .tick ns => passTime s ns
  | .regUe w reg lanes => strikeReg s w reg lanes
  | .scratchUe core a => strikeScratch s core a
  | .accUe ck elem => strikeAcc s ck elem
  | .dirtyUe l flits => strikeLine s l flits
  | .tlbEvict core ctx va => evictTlb s core ctx va
  | .photodiode port dir wl v => readDiode s port dir wl v
  | .replicaEvict l die => modMem s fun m => { m with replicas := del m.replicas (replicaKey die l) }
  | .recordEvict core ctx h =>
    { s with recs := s.recs.filter fun r => !(r.core == core && r.ctx == ctx && r.handle == h) }
  | .chanUe l flits => markFlits s l flits
  | .hostError => modMem s fun m => { m with hostErr := true }
  | .management => raiseIrq s 128
  | .chanMute i => modSet s i fun x => if x.busy then { x with mute := true } else x
  | .sliceMute =>
    modMem s fun m => if m.slices.moving.isEmpty then m else { m with slices := { m.slices with mute := true } }
  | .tokenAck k => tokenAck s k
  | .tokenBack k => tokenBack s k
  | .staticEnergy c pj => chargeStatic s c pj
  | .doorbell ctx => ringDoorbell s ctx (ctxAt s ctx).door1.toNat
  | .coreCorrected core => if core < 192 then modCore s core fun c => { c with errs := c.errs + 1 } else s
  | .contextAgents ctx => contextAct s ctx
  | .timers watts => timersAct s watts

/-! ## Turns (log 1) -/

/-- The rows of the table that no instruction word encodes. -/
def Instr.isEvent (i : Instr) : Bool :=
  match i with
  | .runStart .. | .blockedRunResume .. | .slotReturn .. | .trapDeliver .. | .faultRecordWrite ..
  | .faultRingHeadWrite .. | .priorityPromote .. | .warpEnd .. | .sleepExpire .. | .recordFetch ..
  | .pageWalk .. | .copyRetire .. | .chainStart .. | .engineFaultPending .. | .mxRetire .. | .lkRetire ..
  | .messageArrive .. | .creditReturn .. | .remoteHalfAccess .. | .farArrival .. | .queueItemDeliver ..
  | .queueOrphan .. | .sliceAccess .. | .replicaInvalidate .. | .collapseComplete .. | .sliceWriteApply ..
  | .channelAccess .. | .torusHop .. | .holdingBufferRelease .. | .fabricAccess .. | .opticalFlitReceive ..
  | .wavelengthRetire .. | .wavelengthTrainDone .. | .wavelengthEnableWrite .. | .routePortWrite ..
  | .dieMapWrite .. | .dieMapApply .. | .setEvacuate .. | .setFail .. | .moraineGranuleBegin ..
  | .moraineGranuleComplete .. | .sliceEvacuate .. | .sliceEntryMove .. | .bankRetire ..
  | .columnSteerRewrite .. | .shootdown .. | .shootdownComplete .. | .launchWrite .. | .launchRecordRead ..
  | .placementEntryApply .. | .calveCommand .. | .returnCommand .. | .graceExpire .. | .calveSaveDone ..
  | .groupResume .. | .qlaneWrite .. | .qrowsWrite .. | .steeringRewriteDone .. | .laneSelfCheckFail ..
  | .coreOutOfService .. | .regrsGrant .. | .regrsDeny .. | .clusterQuiesce .. | .slewAdmit ..
  | .grantBoundary .. | .powerMonitorSample .. | .tokenPass .. | .tokenTimeout .. | .paceWrite ..
  | .paceApply .. | .budgetTokenSend .. | .budgetTokenReceive .. | .supplyDroop .. | .phaseAdvance ..
  | .digestCompare .. | .ceTailWrite .. | .ceCommand .. | .ceFault .. | .doorbell .. | .resolveRetryWarp ..
  | .resolveEndCrew .. | .resolveRetryEngine .. | .resolveAbandon .. | .resolveClearP .. | .hostBar2Access ..
  | .ownerClaim .. | .ownerNameSuccessor .. | .ownerRelease .. | .handoverExpire .. | .boot ..
  | .spdmGetVersion .. | .spdmGetCapabilities .. | .spdmNegotiateAlgorithms .. | .spdmGetDigests ..
  | .spdmGetCertificate .. | .spdmChallenge .. | .spdmGetMeasurements .. | .memoryScrub .. | .registerWrite ..
  | .hostDmaTransfer .. | .opticalPartnerAttach .. | .hostLinkTraining .. => true  | _ => false

/-- What a turn does: a warp's, an event's, or the environment's. An encoded instruction is no event: it issues only from
a warp. -/
def turnEffect (t : Turn) (s : State) : Res :=
  match t with
  | .warp k => warpTurn k s
  | .event i => if Instr.isEvent i then exec i s else .next s
  | .env e => .next (envStep e s)

/-- A turn, after which the clusters' quiescence is settled (R353). -/
def runTurn (t : Turn) (s : State) : Res :=
  match turnEffect t s with
  | .next s => .next (settleClusters s)
  | r => r

/-! ## The schedule of a state that lists no turns (log 2) -/

/-- What an outstanding slot may do next. -/
def slotTurns (k : Nat) (sl : Slot) : List Turn :=
  (sl.accs.flatMap fun a =>
    [.event (.sliceAccess (.lane k sl.id a.lane)), .event (.remoteHalfAccess k sl.id a.lane)]) ++
  [.event (.queueItemDeliver k sl.id), .event (.slotReturn k sl.id)]

/-- What a warp's condition may bring next. -/
def warpTurns (e : Nat × Warp) : List Turn :=
  let k := e.1
  let w := e.2
  w.slots.flatMap (slotTurns k) ++
    [.event (.trapDeliver k), .event (.warpEnd k), .event (.sleepExpire k), .event (.graceExpire k),
      .event (.priorityPromote k), .event (.blockedRunResume k), .event (.regrsGrant w.core w.quarter),
      .event (.regrsDeny w.core w.quarter), .event (.runStart w.core w.quarter)]

/-- What the store stages and collapses may do next. -/
def storeTurns (s : State) : List Turn :=
  ((allStaged s).flatMap fun e =>
    [.event (.sliceAccess (.staged e.1 e.2.num)), .event (.sliceWriteApply e.1 e.2.num)]) ++
  ((List.range s.mem.posted.length).map fun n => .event (.sliceAccess (.posted n))) ++
  s.mem.collapses.flatMap fun c =>
    ((List.range 8).map fun d => .event (.replicaInvalidate c.line d)) ++ [.event (.collapseComplete c.line)]

/-- What a core's engines may do next. -/
def engineTurns (core : Nat) : List Turn :=
  ((List.range 4).flatMap fun q => [.event (.copyRetire core q), .event (.chainStart core q)]) ++
    [.event (.mxRetire core), .event (.lkRetire core)] ++
    (List.range 6).map fun e => .event (.engineFaultPending core e)

/-- What a context's agents may do next. -/
def contextTurns (ctx : Nat) : List Turn :=
  [.event (.launchRecordRead ctx), .event (.faultRecordWrite ctx), .event (.shootdownComplete ctx),
    .event (.calveSaveDone ctx), .event (.groupResume ctx 0), .env (.contextAgents ctx)] ++
    (List.range 16).map fun qb => .event (.queueOrphan ctx qb)

/-- What the package's own machinery may do next. -/
def packageTurns (s : State) : List Turn :=
  ((List.range 8).map fun d => .event (.placementEntryApply d)) ++
    (s.fetches.map fun f => .event (.recordFetch f.1 f.2.1 f.2.2)) ++
    [.event (.messageArrive 0), .event (.creditReturn 0), .event (.farArrival 0)] ++
    ((List.range 16).map fun p => .event (.fabricAccess p)) ++
    ((List.range 10).flatMap fun i => [.event (.moraineGranuleComplete i), .event (.moraineGranuleBegin i)]) ++
    ((List.range 24).map fun c => .event (.clusterQuiesce c)) ++
    [.event .sliceEntryMove, .event .dieMapApply, .env (.timers 0), .event .grantBoundary, .event .slewAdmit]

/-- The running warps, those after the one whose turn was last first. -/
def issueTurns (s : State) : List Turn :=
  let ks := (s.warps.filter fun e => e.2.inHolder).map (·.1)
  ((ks.filter fun k => s.cur < k) ++ ks.filter fun k => k ≤ s.cur).map Turn.warp

/-- Every turn the schedule considers, in its order. -/
def candidates (s : State) : List Turn :=
  packageTurns s ++ s.warps.flatMap warpTurns ++ storeTurns s ++
    ((dedup (s.queues.map fun e => e.1 / 8)).flatMap engineTurns) ++ ((keysOf s.ctxs).flatMap contextTurns) ++ issueTurns s

/-- The turn would change the state. -/
def moves (s : State) (t : Turn) : Bool :=
  match runTurn t s with
  | .next s' => s' != s
  | _ => true

/-- The turns of a state that lists none: the first candidate that changes something, then one nanosecond. -/
def defaultTurns (s : State) : List Turn := ((firstOf (moves s) (candidates s)).map fun t => [t]).getD [] ++ [.env (.tick 1)]

end Sys2Proof.Machine
end

