-- ==== Sys2Proof/Machine/Step.lean ====
section
/-! DEFINITION. One step of the package: the turn that the state lists next, or the schedule's (log 1, log 2); and the
state in which that turn issues a given instruction word. -/

namespace Sys2Proof.Machine

open Sys2Proof

/-- Takes the first of some turns and leaves the others listed. -/
def stepWith (ts : List Turn) (s : State) : Res :=
  match ts with
  | [] => .next { s with turns := [] }
  | t :: rest => runTurn t { s with turns := rest }

/-- One step: the next turn listed, or, with none listed, the schedule's next. -/
def step (s : State) : Host.Outcome State Fault Refusal :=
  stepWith (if s.turns.isEmpty then defaultTurns s else s.turns) s

/-! ## An instruction word as the next step's (log 9) -/

/-- A launch record of one crew with one warp, with every resource a small crew can hold. -/
def fetchLaunch : Launch :=
  { entry := 0x10000, pcrews := 1, role := 0, det := false, ftz := false, rm := 0, pace := 0, ectr := 0, accs := 1,
    tbls := 1, fidx := 0, firn := 1, wpc := 1, regs := 4, spages := 1, sstk := 0, spbase := 0, levels := [], queues := [] }

/-- The warp that runs: its launch values, with code not yet fetched. -/
def fetchWarp : Warp := { newWarp 0 0 0 0 (0, 0, 0) fetchLaunch with st := .running }

/-- The code: the instruction and a trailer. -/
def fetchCode (nbits w : Nat) : List (BitVec 16) :=
  match tableHalves nbits w with
  | h :: k :: _ => if h.toNat % 2 = 1 then [h, k, 0x7F, 0] else [h, 0x7F, 0]
  | l => l

/-- The bytes of halfwords, low byte first (R2). -/
def halfBytes (hs : List (BitVec 16)) : List Byte := hs.flatMap fun h => leBytes 2 h.toNat

/-- Memory for the code: region 0 mapped to the first frame of set 0, and a held translation of the code page, which lies at
the same virtual and physical address. -/
def fetchMem (m : Mem) : Mem :=
  { m with
    regions := put m.regions 0 (BitVec.ofNat 32 (2 ^ 30))
    tlb := { unit := 0, ctx := 0, va := 0x10000, size := 0x10000, pte := 0x1000B } :: m.tlb }

/-- The context that has been launched: privileged, with one crew live. -/
def fetchCtx (c : Ctx) : Ctx := { c with prv := true, launch := some fetchLaunch, state := 2, placed := 1, livec := 1 }

/-- The state with a word, numbered as the opcode table numbers it, stored where the next step fetches: a launched
context runs one warp that stands at the word, and the next turn is that warp's. It stands for a launch made from
outside (log 9). -/
def State.withFetchWord (s : State) (nbits w : Nat) : State :=
  let s := { s with mem := fetchMem s.mem, turns := [.warp 0] }
  let s := modCtx s 0 fetchCtx
  let s := setCrew s 0 (newCrew 0 0 0 0 0 fetchLaunch)
  let s := setWarp s 0 fetchWarp
  let bs := halfBytes (fetchCode nbits w)
  (List.range bs.length).foldl (fun s i => memWriteByte s (0x10000 + i) (bs.getD i 0)) s

end Sys2Proof.Machine
end

