-- ==== Sys2Proof/Machine/RegRead.lean ====
section
/-! DEFINITION. What the registers of BAR0 read as: the global block, the control pages and the management window, with
who may read them (R420 to R422, R465 and the rules that give each register its fields). -/

namespace Sys2Proof.Machine

open Sys2Proof

/-! ## The global block (R13, R420, R426, R427, R465) -/

/-- The owner register (R426). -/
def ownerWord (g : Glob) : Nat := g.owner.toNat + 2 ^ 2 * g.succ.toNat + (if g.hpend then 2 ^ 4 else 0)

/-- The boot status register (R465). -/
def bootWord (g : Glob) : Nat :=
  g.drop % 2 ^ 32 * 2 ^ 32 + g.ddrCap % 2 ^ 9 * 2 ^ 23 + (if g.pool then 2 ^ 22 else 0) + (if g.img then 2 ^ 2 else 0) +
    g.bootSt.toNat

/-- The global block. -/
def readGlobal (s : State) (off : Nat) : Nat :=
  match off with
  | 0x000 => ownerWord s.glob
  | 0x008 => s.glob.ready.toNat
  | 0x010 => dieMapWord s
  | 0x018 => bootWord s.glob
  | _ => 0

/-! ## Control pages (R280, R317, R327, R328, R389, R396, R416, R422 to R425) -/

/-- The launch status register (R328). -/
def launchWord (c : Ctx) : Nat := c.placed * 2 ^ 32 + c.livec * 2 ^ 16 + c.err * 2 ^ 12 + c.state

/-- The calving control register (R389). -/
def calveWordOf (c : Ctx) : Nat := c.savedc * 2 ^ 48 + c.done * 2 ^ 40 + c.cstat.toNat * 2 ^ 32 + c.calveN % 2 ^ 8

/-- CTXCFG (R422). -/
def ctxCfgWord (c : Ctx) : Nat := c.fn * 2 ^ 54 + (if c.prv then 2 ^ 32 else 0) + c.clusters.toNat

/-- The shoot-down register (R423). -/
def shootWord (c : Ctx) : Nat :=
  c.shootVa / 2 ^ 16 % 2 ^ 40 * 2 ^ 16 + c.shootLsz * 2 ^ 2 + (if c.shootAll then 2 else 0) + (if c.shootBusy then 1 else 0)

/-- CABASE with CRSZ, which is computed from the launch (R393, R422). -/
def caWord (c : Ctx) : Nat := c.caBase + ((c.launch.map fun l => crsz l / 0x1000).getD 0) % 2 ^ 12

/-- Word w of the determinism block (R396). -/
def detWord (c : Ctx) (w : Nat) : Nat :=
  match w with
  | 0 => c.phase
  | 1 => c.wbase + (if c.smp then 1 else 0)
  | 2 => c.tbase
  | 3 => c.seed.toNat
  | 4 => c.refused * 2 ^ 32 + c.mismatch
  | 5 => c.lastref
  | 6 => c.samples * 2 ^ 32 + c.skipped
  | _ => 0

/-- Register w of the ce ring of die v (R280). -/
def ringWord (r : CeRing) (w : Nat) : Nat :=
  match w with
  | 0 => r.base + r.logn
  | 1 => r.tail.toNat
  | 2 => r.head.toNat
  | _ => r.stat.toNat

/-- A context's control page (R422). The spill key reads zero. -/
def readPage (s : State) (ctx off : Nat) : Nat :=
  let c := ctxAt s ctx
  match off with
  | 0x0000 => c.raddr
  | 0x0008 => launchWord c
  | 0x0010 => calveWordOf c
  | 0x0018 => c.resolve.toNat
  | 0x0020 => ctxCfgWord c
  | 0x0028 => c.ptRoot
  | 0x0030 => c.recBase
  | 0x0038 => c.frBase
  | 0x0040 => c.head * 2 ^ 8 + c.tail
  | 0x0048 => caWord c
  | 0x0050 => shootWord c
  | 0x0058 => c.door0.toNat
  | 0x0060 => c.door1.toNat % 2 ^ 7
  | 0x0068 => c.ovf
  | 0x0100 => ctxctlOf c
  | 0x0108 => c.trapen.toNat
  | 0x0110 => c.tvec
  | 0x0118 => c.grace
  | _ =>
    if off % 8 ≠ 0 then 0
    else if 0x200 ≤ off ∧ off < 0x238 then detWord c ((off - 0x200) / 8)
    else if 0x800 ≤ off ∧ off < 0x1000 then look c.energy ((off - 0x800) / 8) 0 / 1000000
    else if 0x1000 ≤ off ∧ off < 0x1100 then ringWord (ringAt s ctx ((off - 0x1000) / 32)) (off % 32 / 8)
    else 0

/-! ## The management window -/

/-- A set control register (R31). -/
def setCtlWord (x : ISet) : Nat :=
  (if x.rsv then 2 ^ 63 else 0) + x.rrptr * 2 ^ 54 + x.evch * 2 ^ 45 + x.stat.toNat * 2 ^ 41 + x.drops * 2 ^ 32 +
    min x.evposReg (2 ^ 29)

/-- The slice control register (R49). -/
def sliceCtlWord (x : SliceCtl) : Nat :=
  x.rrptr * 2 ^ 52 + x.evsl * 2 ^ 46 + x.stat.toNat * 2 ^ 38 + x.drops * 2 ^ 32 + x.evpos

/-- A wavelength's status register (R70). -/
def waveWord (x : Wave) : Nat :=
  x.state.toNat * 2 ^ 30 + x.fails * 2 ^ 24 + x.heat.toNat * 2 ^ 16 + x.pdmon.toNat * 2 ^ 4 + (if x.ena then 2 ^ 2 else 0)

/-- A port counter (R70, R420). -/
def portWord (x : Port) (w : Nat) : Nat :=
  match w with
  | 0 => x.corrected
  | 1 => x.uncorrected
  | 2 => x.retrans
  | 3 => x.trainings
  | _ => 0

/-- CLGRANT (R408). -/
def grantWord (c : Cluster) : Nat :=
  c.rail * 2 ^ 60 + c.gstate.toNat * 2 ^ 58 + min c.miss 3 * 2 ^ 56 + c.step * 2 ^ 52 + c.gstep * 2 ^ 48 + c.cap * 2 ^ 32 +
    c.rate * 2 ^ 16

/-- STATE of CLGRANT: a cluster that holds a crew of a pace group's launch is paced, unless it is in fail-safe or stopped (R408,
R414). -/
def grantState (s : State) (n : Nat) (c : Cluster) : BitVec 2 :=
  if c.gstate = 1 ∨ c.gstate = 2 then c.gstate else if paceGroups s n = [] then 0 else 3

/-- CLGRANT as it reads (R408, R414). -/
def readGrant (s : State) (n : Nat) : Nat :=
  grantWord { clusterAt s n with gstate := grantState s n (clusterAt s n) }

/-- ALWCTL (R350). -/
def alwWord (c : Cluster) : Nat := c.hi * 2 ^ 44 + c.lo * 2 ^ 24 + c.pfloor * 2 ^ 16

/-- ARBCTL (R411). -/
def arbWord (p : Power) : Nat :=
  p.fslink * 2 ^ 61 + p.eff % 2 ^ 13 * 2 ^ 48 + p.limit * 2 ^ 40 + p.fsrate * 2 ^ 24 + p.fsstep * 2 ^ 20 +
    (if p.tokenMode then 2 ^ 17 else 0) + (if p.ovr then 2 ^ 16 else 0) + p.ncrsv * 2 ^ 8 + min p.misses 255

/-- The slew control register (R352). -/
def slewWord (p : Power) : Nat := p.win * 2 ^ 16 + p.first * 2 ^ 8 + p.slewN

/-- SITECTL (R415). -/
def siteWord (p : Power) : Nat :=
  p.group * 2 ^ 48 + (BitVec.ofInt 16 p.net).toNat * 2 ^ 32 + p.pendTok % 2 ^ 16 * 2 ^ 16

/-- PACECTL (R414). -/
def paceWord (p : Pace) : Nat := p.stat.toNat * 2 ^ 54 + p.step * 2 ^ 48 + p.stamp % 2 ^ 48

/-- QLANE and QROWS (R345). -/
def steerWord (q : Quarter) (rows : Bool) : Nat :=
  if rows then q.rows.toNat else q.stat.toNat * 2 ^ 32 + q.live.toNat

/-- A register of the management window at an offset in it (R420). -/
def readMgmt (s : State) (off : Nat) : Nat :=
  if off < 0x50 then (if off % 8 = 0 then setCtlWord (setAtIdx s (off / 8)) else 0)
  else if 0x10000 ≤ off ∧ off < 0x15000 then (if off % 4 = 0 then (look s.mem.regions ((off - 0x10000) / 4) 0).toNat else 0)
  else if off = 0x20000 then sliceCtlWord s.mem.slices
  else if 0x30000 ≤ off ∧ off < 0x33000 then
    let n := (off - 0x30000) / 0x800
    let i := off % 0x800
    let wl := i % 0x100 / 4
    if i % 4 ≠ 0 ∨ 0x100 ≤ i % 0x200 then 0
    else if i < 0x400 then waveWord (waveAt s n (i / 0x200) wl) else (waveAt s n (i / 0x200 - 2) wl).thresh.toNat
  else if 0x34000 ≤ off ∧ off < 0x34180 then (if off % 8 = 0 then portWord (portAt s ((off - 0x34000) / 0x40)) (off % 0x40 / 8) else 0)
  else if 0x40000 ≤ off ∧ off < 0x40180 then
    let c := clusterAt s ((off - 0x40000) / 16)
    if off % 16 = 0 then (BitVec.ofInt 64 c.cnt).toNat else if off % 16 = 8 then alwWord c else 0
  else if 0x41000 ≤ off ∧ off < 0x410C0 then (if off % 8 = 0 then readGrant s ((off - 0x41000) / 8) else 0)
  else if 0x42000 ≤ off ∧ off < 0x42020 then (if off % 8 = 0 then s.power.smax.getD ((off - 0x42000) / 8) 0 else 0)
  else if off = 0x42020 then arbWord s.power
  else if off = 0x42028 then slewWord s.power
  else if off = 0x42030 then siteWord s.power
  else if 0x43008 ≤ off ∧ off < 0x43800 then (if off % 8 = 0 then paceWord (paceAt s ((off - 0x43000) / 8)) else 0)
  else if 0x50000 ≤ off ∧ off < 0x53000 then
    let k := (off - 0x50000) / 16
    let q := quarterAt (coreAt s (k / 4)) (k % 4)
    if off % 8 = 0 then steerWord q (off % 16 == 8) else 0
  else if off = 0x60000 then s.links.fabId.toNat
  else if 0x60100 ≤ off ∧ off < 0x60300 then (if off % 4 = 0 then (look s.links.routes ((off - 0x60100) / 4) 0).toNat else 0)
  else 0

/-- The registers that the owner may not read: set controls, slice control, wavelength status, ALWCNT, ALWCTL and the slew
control (R421). -/
def hiddenFromOwner (off : Nat) : Bool :=
  decide (off < 0x50) || off == 0x20000 || (decide (0x30000 ≤ off) && decide (off < 0x33000) && decide (off % 0x800 < 0x400)) ||
    (decide (0x40000 ≤ off) && decide (off < 0x40180)) || off == 0x42028

/-! ## BAR0 (R420, R421) -/

/-- A word of the MSI-X window: the table, and from word 2048 on the pending bits, 64 vectors to a word (R420, log 99). -/
def msixWord (g : Glob) (w : Nat) : Nat :=
  if w < 2048 then (look g.msix w 0).toNat
  else ((List.range 64).map fun i => if look g.pba ((w - 2048) * 64 + i) false then 2 ^ i else 0).foldl (· + ·) 0

/-- What a read of BAR0 returns to an agent: the global block to every function, a control page to those that may access
it, the management window to firmware and in part to the owner; a virtual function sees its own pages only. -/
def readBar0 (s : State) (by_ : Agent) (off : Nat) : Nat :=
  match by_ with
  | .vf _ => if off < 0x400000 ∧ mayPage s by_ (off / 0x10000) then readPage s (off / 0x10000) (off % 0x10000) else 0
  | _ =>
    if off < 0x1000 then readGlobal s off
    else if 0x400000 ≤ off ∧ off < 0x800000 then
      let ctx := (off - 0x400000) / 0x10000
      if mayPage s by_ ctx then readPage s ctx (off % 0x10000) else 0
    else if 0xF00000 ≤ off ∧ off < 0xF08000 then (if off % 8 = 0 then msixWord s.glob ((off - 0xF00000) / 8) else 0)
    else if 0x1000000 ≤ off ∧ off < 0x2000000 then
      let m := off - 0x1000000
      if isFw by_ ∨ (isOwner s by_ ∧ !hiddenFromOwner m) then readMgmt s m else 0
    else 0

end Sys2Proof.Machine
end

