-- ==== Sys2Proof/Safety.lean ====
section
/-! DEFINITION. What a safe run is, in the terms the claims use: memories in canonical form, a step that answers, and a
package in which no warp has been stopped by a fault. -/

namespace Sys2Proof.Machine

open Sys2Proof

/-- Every memory of the package is in canonical form: addresses strictly rising, no entry equal to what an unlisted
address reads as. -/
def State.memWf (s : State) : Bool :=
  Memory.wf s.mem.chan && Memory.wf s.mem.fabric && Memory.wf s.mem.hostMem && Memory.wf s.scr

/-- A step answers a next state. -/
def Answers (r : Res) : Prop := ∃ s, r = .next s

/-- The current warp `w` of a state may issue an instruction of shape `m` with its own effect: none of the checks of R155
fails and no stall holds it. The fields are the checks in their order; those from `written` on count only where the
instruction acts (R155: exec is not 0, or it acts whatever exec holds). -/
structure Ready (s : State) (w : Warp) (m : Shape) : Prop where
  warp : warpAt s s.cur = some w
  issues : mayIssue s w = true
  limm : m.limm = true ∨ w.run.limm = []
  chain : m.isLimm = true → w.run.limm.length < 2
  inRun : w.run.pos < 24
  slot : m.long = true → w.run.taken < 6
  trailer : m.ct = true → nextIsTrl w m.size = true
  mode : m.priv = true → (ctxAt s w.ctx).prv = true
  within : ∀ u ∈ m.allUses, u.beyond w.alloc = false
  written : acting m w = true → ∀ u ∈ m.allUses, u.missing w = false
  legal : acting m w = true → m.check s w = none
  known : acting m w = true → m.waits s w = false
  index : acting m w = true → idxTrap w m.allUses (if w.exec = 0 then m.lanes w else w.exec) = none
  intact : acting m w = true → ueFail w m.allUses (m.lanes w) = none
  hazardFree : acting m w = true → (ctxAt s w.ctx).hc = true → hazard w m.allUses (m.lanes w) = false
  arrived : acting m w = true → interlocked w m.uses = false

/-- The main registers and operand-file entries (64 + n) that a destination of g registers names in a lane. -/
def destRegs (w : Warp) (d : Dst) (g l : Nat) : List Nat :=
  Use.regsIn { op := dstOpnd d, g := g, reads := false, writes := true } w l

/-- A destination of g registers lies in the register file: an operand-file entry is single (R103), a direct group ends at
v63 or before, and in every active lane an index register passes the checks of R105 and names registers up to v63
(R99). -/
def DestHere (w : Warp) (d : Dst) (g : Nat) : Prop :=
  match d with
  | .o _ => g = 1
  | .v n => n.val + g ≤ 64
  | .x k => ∀ l < 32, inMask w.exec l = true → idxOk w.alloc g (w.xval k l) = true ∧ idxBase (w.xval k l) + g ≤ 64

/-- The group of a destination in lane l, lowest register in the low bits (R103). -/
def Warp.destGroup (w : Warp) (d : Dst) (g l : Nat) : Nat := (w.rd (dstOpnd d) g (.int .s64)).getD l 0

/-- From w to w' a fixed-latency instruction has given each active lane of its destination the group `val l` and left
every other lane and register, moved l0 to l1 and the destination's lowest register to l0 (R100, R106), and changed
nothing else of the warp but its flags and the error marks of what it wrote (R102). -/
def Resulted (w w' : Warp) (d : Dst) (g : Nat) (val : Nat → Nat) : Prop :=
  (∀ l < 32, w'.destGroup d g l = if inMask w.exec l then val l % 2 ^ (64 * g) else w.destGroup d g l) ∧
    (∀ r l, l < 32 → (inMask w.exec l = false ∨ r ∉ destRegs w d g l) → laneAt (w'.vreg r) l = laneAt (w.vreg r) l) ∧
    (∀ n : Fin 6, d ≠ .o n → look w'.run.ofile n.val Lanes.zero = look w.run.ofile n.val Lanes.zero) ∧
    w'.run.l1 = w.run.l0 ∧ w'.run.l0 = some (w'.lowestOf d g) ∧
    w' = { w with
      main := w'.main, ue := w'.ue, aflags := w'.aflags
      run := { w.run with
        ofile := w'.run.ofile, owr := w'.run.owr, oue := w'.run.oue, l0 := w'.run.l0, l1 := w'.run.l1 } }

/-- From w to w' an element-wise fixed-latency instruction on elements of n bits has had its effect (R100, R122, R193): each
element k of each active lane l of the destination is `f l k` of the flags that go with it, and aflags have gained the flags
of the active lanes' elements. -/
def Elementwise (w w' : Warp) (d : Dst) (g n : Nat) (f : Nat → Nat → Nat × Flags) : Prop :=
  (∃ val, Resulted w w' d g val ∧
    ∀ l < 32, inMask w.exec l = true → ∀ k < 64 * g / n, elem n (val l) k = (f l k).1 % 2 ^ n) ∧
  ∀ j, w'.aflags.getLsbD j = true ↔
    w.aflags.getLsbD j = true ∨
      ∃ l < 32, inMask w.exec l = true ∧ ∃ k < 64 * g / n, (f l k).2.getLsbD j = true

/-- No warp is in a fault stop (R385). -/
def State.noStops (s : State) : Bool :=
  (allWarps s).all fun w =>
    match w.st with
    | .stopped => false
    | .saved true => false
    | _ => true

/-- The state some number of steps after another. -/
inductive Reaches (s : State) : State → Prop where
  | refl : Reaches s s
  | step {t u : State} (h : Reaches s t) (hs : step t = .next u) : Reaches s u

end Sys2Proof.Machine
end

