-- ==== Sys2Proof/Certificates/Slice0/Obligations.lean ====
section
/-! DEFINITION. The statements for the provers. Vocabulary first, then one definition for each statement. A statement that an
instruction completes has the conclusion `exec i s = .next t` for every state in which the instruction is `Ready`
(no check of R155 fails and no stall holds it), and says what t is: `retire` of the state with the instruction's effect,
which advances the position and charges the weight (stated by `IssueAdvances`). -/

namespace Sys2Proof.Claims

open Sys2Proof Sys2Proof.Machine

/-! ## Vocabulary: fixed-latency lane instructions -/

/-- A ready instruction of shape m with destination d of g registers and elements of n bits completes: in every active lane,
element k of the destination is `op` of the elements k of the sources and of the old destination, and nothing else of the
warp changes (`Elementwise`). -/
def LaneOp (i : Instr) (m : Shape) (d : Dst) (g n : Nat) (a b : Warp → List Nat)
    (op : Warp → Nat → Nat → Nat → Nat × Flags) : Prop :=
  ∀ s w, Ready s w m → DestHere w d g →
    ∃ w', exec i s = .next (retire (setWarp s s.cur w') s.cur m) ∧
      Elementwise w w' d g n fun l k =>
        op w (elem n ((a w).getD l 0) k) (elem n ((b w).getD l 0) k) (elem n (w.destGroup d g l) k)

/-- An integer instruction with two sources in the T format (R192, R193). -/
def AluClaim (i : Instr) (f : AluOp) (weight : Nat) (rdD : Bool) (op : Nat → Nat → Nat → Nat × Flags) : Prop :=
  LaneOp i (aluShape f weight rdD) f.d f.w.regs (tyBits f.t) (fun w => w.rd f.a f.w.regs (.int f.t))
    (fun w => w.rd f.b f.w.regs (.int f.t)) fun _ => op

/-- An integer instruction with one source (R192, R193). -/
def UnClaim (i : Instr) (f : AluUn) (op : Nat → Nat × Flags) : Prop :=
  LaneOp i { size := 4, weight := 8 * f.w.regs, uses := [src f.a f.w, dst f.d f.w] } f.d f.w.regs (tyBits f.t)
    (fun w => w.rd f.a f.w.regs (.int f.t)) (fun _ => []) fun _ x _ _ => op x

/-- An exact integer that the element wraps (R116, R193). -/
def int (t : IntTy) (e : Int) : Nat × Flags := (wrap (tyBits t) e, 0)

/-- Element bits. -/
def bits' (e : Nat) : Nat × Flags := (e, 0)

/-- All ones where the condition holds, else 0 (R201). -/
def ones (t : IntTy) (c : Bool) : Nat × Flags := (if c then 2 ^ tyBits t - 1 else 0, 0)

/-- clamp (R194): the type's range, with SAT where it changes the value. -/
def clampTo (t : IntTy) (e : Int) : Nat × Flags :=
  if e < tyMin t then (wrap (tyBits t) (tyMin t), fSAT)
  else if tyMax t < e then (wrap (tyBits t) (tyMax t), fSAT)
  else (wrap (tyBits t) e, 0)

/-- The composed immediate of an I-format instruction in every element, given the LIMM words before it (R144, R202). -/
def immLanes (w : Warp) (t : IntTy) (imm : BitVec 10) : List Nat :=
  List.replicate 32 (splat (tyBits t) (64 / tyBits t) (immOf w.run.limm 10 imm.toNat true))

/-- An I-format instruction (R202). -/
def ImmClaim (i : Instr) (f : AluImm) (op : Nat → Nat → Nat × Flags) : Prop :=
  LaneOp i { size := 4, weight := 8, limm := true, uses := [src f.a .w1, dst f.d .w1] } f.d 1 (tyBits f.t)
    (fun w => w.rd f.a 1 (.int f.t)) (fun w => immLanes w f.t f.imm) fun _ x y _ => op x y

/-- An immediate shift: q is the composed amount read as an unsigned integer (R144, R197). -/
def ShiftImmClaim (i : Instr) (f : ShImm) (op : (q x : Nat) → Nat × Flags) : Prop :=
  LaneOp i { size := 4, weight := 8 * f.w.regs, limm := true, uses := [src f.a f.w, dst f.d f.w] } f.d f.w.regs
    (tyBits f.t) (fun w => w.rd f.a f.w.regs (.int f.t)) (fun _ => [])
    fun w x _ _ => op (immOf w.run.limm 6 f.imm.toNat false) x

/-- The four shifts of R196 on an element x of type t by q. -/
def shl (t : IntTy) (x q : Nat) : Nat × Flags := (if q < tyBits t then x * 2 ^ q % 2 ^ tyBits t else 0, 0)

def shr (t : IntTy) (x q : Nat) : Nat × Flags := (if q < tyBits t then x / 2 ^ q else 0, 0)

def sra (t : IntTy) (x q : Nat) : Nat × Flags :=
  if q < tyBits t then int t (sext (tyBits t) x / (2 ^ q : Nat)) else ones t (decide (sext (tyBits t) x < 0))

def rot (t : IntTy) (x q : Nat) : Nat × Flags :=
  (x * 2 ^ (q % tyBits t) % 2 ^ tyBits t ||| x / 2 ^ (tyBits t - q % tyBits t), 0)

/-- A 16-bit form whose first source is d and whose second is s (R146). -/
def ShortClaim (i : Instr) (f : Short) (weight : Nat) (t : NumTy) (op : Warp → Nat → Nat → Nat × Flags) : Prop :=
  LaneOp i { size := 2, weight := weight, uses := [src (.v f.d) .w1, src (.v f.s) .w1, dst (.v f.d) .w1] } (.v f.d) 1
    (numBits t) (fun w => w.rd (.v f.d) 1 t) (fun w => w.rd (.v f.s) 1 t) fun w x y _ => op w x y

/-- A 16-bit form with an immediate in its s field (R203); `rdD` where it also reads d. -/
def ShortImmClaim (i : Instr) (f : Short) (rdD : Bool) (op : (x imm : Nat) → Nat × Flags) : Prop :=
  LaneOp i { size := 2, weight := 8, uses := [if rdD then dstRead (.v f.d) .w1 else dst (.v f.d) .w1] } (.v f.d) 1
    (tyBits (shortTy f)) (fun w => w.rd (.v f.d) 1 (.int (shortTy f))) (fun _ => shortImm f) fun _ x y _ => op x y

/-- A float instruction with two sources in the T format (R211). -/
def FltClaim (i : Instr) (f : FltOp) (rdD : Bool) (op : NumMode → ElemOp) : Prop :=
  LaneOp i
    { size := 4, weight := fltWeight f.t * f.w.regs
      uses := [src f.a f.w, src f.b f.w, if rdD then dstRead f.d f.w else dst f.d f.w] }
    f.d f.w.regs (numBits (.flt f.t)) (fun w => w.rd f.a f.w.regs (.flt f.t)) (fun w => w.rd f.b f.w.regs (.flt f.t))
    fun w => op w.mode

/-- A float instruction with one source (R211). -/
def FltUnClaim (i : Instr) (f : FltUn) (op : NumMode → ElemOp) : Prop :=
  LaneOp i { size := 4, weight := fltWeight f.t * f.w.regs, uses := [src f.a f.w, dst f.d f.w] } f.d f.w.regs
    (numBits (.flt f.t)) (fun w => w.rd f.a f.w.regs (.flt f.t)) (fun _ => []) fun w => op w.mode

/-! ## Vocabulary: long-latency lane instructions -/

/-- A ready long-latency instruction whose result is fixed at issue completes. With no active lane its slot returns at once and
nothing is written or flagged; else it takes a slot whose value, bound for the destination, holds `val` in each element i of
the active lanes, counting the elements of type t across the lanes (R104), and whose flags are those with `flag` (R150,
R209, R228). -/
def SlotOp (i : Instr) (m : Shape) (d : Dst) (g : Nat) (t : NumTy) (val : Warp → Nat → Nat)
    (flag : Warp → Nat → Prop) : Prop :=
  ∀ s w, Ready s w m →
    (w.exec = 0 → exec i s = .next (retire s s.cur m)) ∧
    (w.exec ≠ 0 → ∃ vals fl,
      exec i s = .next (retire (setWarp s s.cur (w.addSlot .relaxed .warp (w.slotDst d g) (.value vals fl))) s.cur m) ∧
      (∀ e < 32 * perLane t g, inMask w.exec (e / perLane t g) = true →
        flatElem t g vals e = val w e % 2 ^ numBits t) ∧
      ∀ j, fl.getLsbD j = true ↔ flag w j)

/-- No flag. -/
def noFlag (_ : Warp) (_ : Nat) : Prop := False

/-- A function of R216 (R211): every element of the active lanes, with the elements' flags. -/
def FnClaim (i : Instr) (f : FltUn) (fn : Fn) : Prop :=
  let t := NumTy.flt f.t
  let g := f.w.regs
  let x := fun (w : Warp) e => flatElem t g (w.rd f.a g t) e
  SlotOp i { size := 4, long := true, weight := 64 * g, uses := [src f.a f.w, dst f.d f.w] } f.d g t
    (fun w e => (eFn fn f.t w.mode (x w e) 0 0).1)
    fun w j => ∃ e < 32 * perLane t g, inMask w.exec (e / perLane t g) = true ∧
      (eFn fn f.t w.mode (x w e) 0 0).2.getLsbD j = true

/-- The shape of a cross-lane instruction (R160, R228): it reads its sources in every lane. -/
def xlShape (w : Width) (uses : List Use) (d : Dst) : Shape :=
  { size := 4, long := true, weight := 40 * w.regs, uses := uses ++ [dst d w], lanes := fun _ => BitVec.allOnes 32 }

/-- A shuffle: element i of an active lane is the element of A that `sel` names, given the number N of elements, i and
y, the element i of B (R229). -/
def ShuffleClaim (i : Instr) (f : AluOp) (sel : (size i y : Nat) → Nat) : Prop :=
  let t := NumTy.int f.t
  let g := f.w.regs
  SlotOp i (xlShape f.w [src f.a f.w, src f.b f.w] f.d) f.d g t
    (fun w e => flatElem t g (w.rd f.a g t) (sel (32 * perLane t g) e (flatElem t g (w.rd f.b g t) e))) noFlag

/-- A vote, BALLOT or MATCH: the group value of each active lane, given the group values of A (R230, R231). -/
def VoteClaim (i : Instr) (f : AluUn) (val : (w : Warp) → (group : Nat → Nat) → (lane : Nat) → Nat) : Prop :=
  let t := NumTy.int f.t
  let g := f.w.regs
  SlotOp i (xlShape f.w [src f.a f.w] f.d) f.d g t
    (fun w e => elem (numBits t) (val w (fun l => (w.rd f.a g t).getD l 0) (e / perLane t g)) (e % perLane t g)) noFlag

/-- p(l) of R230 and R231, for an active lane. -/
def votes (w : Warp) (group : Nat → Nat) (l : Nat) : Bool := inMask w.exec l && group l != 0

/-- The number Σ 2^l over the lanes with a property. -/
def laneSum (p : Nat → Bool) : Nat := ((List.range 32).map fun l => if p l then 2 ^ l else 0).foldl (· + ·) 0

/-- A reduction (R233): each element of the active lanes is the value of its node of the tree of R131, the identity where
the node has none; the flags are those of the nodes. -/
def ReduceClaim (i : Instr) (f : RedOp) (node : (op : Comb) → List (List Node) → Nat → Node) : Prop :=
  let g := f.w.regs
  let at_ := fun (w : Warp) e =>
    let op := redOp f.op f.t w.mode
    node op (treeLevels op (redHeight f.t g) (redLeaves f.t g w.exec (w.rd f.a g f.t))) e
  SlotOp i (xlShape f.w [src f.a f.w] f.d) f.d g f.t
    (fun w e => ((at_ w e).1.getD (redIdentity f.op f.t)))
    fun w j => ∃ e < 32 * perLane f.t g, inMask w.exec (e / perLane f.t g) = true ∧ (at_ w e).2.getLsbD j = true

/-- The flat indices of the active lanes that an instruction selects by B, below an index (R235). -/
def selectedBelow (w : Warp) (f : AluOp) (e : Nat) : List Nat :=
  let t := NumTy.int f.t
  let g := f.w.regs
  (List.range e).filter fun i => inMask w.exec (i / perLane t g) && flatElem t g (w.rd f.b g t) i != 0

/-- The flat indices of the active lanes below an index (R235). -/
def activeBelow (w : Warp) (f : AluOp) (e : Nat) : List Nat :=
  (List.range e).filter fun i => inMask w.exec (i / perLane (.int f.t) f.w.regs)

/-! ## Vocabulary: rounding -/

/-- The number that a finite float value is. -/
def ratOf (v : FVal) : Rat :=
  match v with
  | .fin n m e => (if n then -1 else 1) * (m : Rat) * (2 : Rat) ^ e
  | _ => 0

/-- The multiple y = k × u of a unit that a number x rounds to (R120). -/
def Nearest (rm : RMode) (u x : Rat) (k : Int) : Prop :=
  let y := (k : Rat) * u
  match rm with
  | .rne => 2 * (y - x).abs ≤ u ∧ (2 * (y - x).abs = u → k % 2 = 0)
  | .rz => y.abs ≤ x.abs ∧ x.abs < y.abs + u ∧ 0 ≤ x * y
  | .rd => y ≤ x ∧ x < y + u
  | .ru => x ≤ y ∧ y < x + u

/-- Bits and flags are what a non-zero number x of sign `neg` rounds to in a format (R119, R120, R122, R123): the multiple y
that its mode gives of the unit in x's last place, where the exponent is not bounded above; beyond the largest finite value
the overflow of R123 with OF and NX; with FTZ a zero for a subnormal y, with UF and NX; else y, with NX where it is not x,
and then UF below the smallest normal. -/
def RoundsTo (f : Fmt) (rm : RMode) (ftz sat neg : Bool) (x : Rat) (r : Nat × Flags) : Prop :=
  ∃ q k : Int,
    let low : Int := 1 - (f.bias : Int) - f.fb
    let y := (k : Rat) * (2 : Rat) ^ q
    let tiny := (2 : Rat) ^ (1 - (f.bias : Int))
    ((q = low ∧ x.abs < (2 : Rat) ^ (q + f.fb + 1)) ∨
      (low ≤ q ∧ (2 : Rat) ^ (q + f.fb) ≤ x.abs ∧ x.abs < (2 : Rat) ^ (q + f.fb + 1))) ∧
    Nearest rm ((2 : Rat) ^ q) x k ∧
    if ratOf (unpack f false (maxCode f)) < y.abs then
      r = (signed f neg (if sat then maxCode f else if !f.hasInf then canonNan f
        else match rm with
          | .rne => infCode f
          | .rz => maxCode f
          | .rd => if neg then infCode f else maxCode f
          | .ru => if neg then maxCode f else infCode f), fOF ||| fNX)
    else if ftz = true ∧ f.ieee = true ∧ y ≠ 0 ∧ y.abs < tiny then r = (signed f neg 0, fUF ||| fNX)
    else (∃ m e, unpack f false r.1 = .fin neg m e) ∧ r.1 < 2 ^ fmtBits f ∧ ratOf (unpack f false r.1) = y ∧
      r.2 = flagIf (decide (y ≠ x)) fNX ||| flagIf (decide (y ≠ x) && decide (y.abs < tiny)) fUF

/-! ## Vocabulary: control -/

/-- A ready instruction of shape m completes under a condition and changes its warp only. -/
def WarpClaim (i : Instr) (m : Shape) (pre : State → Warp → Prop) (f : State → Warp → Warp) : Prop :=
  ∀ s w, Ready s w m → pre s w → exec i s = .next (retire (setWarp s s.cur (f s w)) s.cur m)

/-- No condition beside readiness. -/
def always (_ : State) (_ : Warp) : Prop := True

/-- The shape of a control transfer (R298): it stands before its run's trailer, and it acts whatever exec holds. -/
def ctShape (uses : List Use) (lanes : Warp → Mask := fun w => w.exec) : Shape :=
  { size := 4, ct := true, uses := uses, acts := true, lanes := lanes, check := noCheck }

/-- The warp with the start of its next run (R153). -/
def contAt (w : Warp) (pc : Nat) : Warp := { w with run := { w.run with ct := some pc } }

/-- pc + 2 × offset, for an offset of n bits (R138, R298). -/
def rel (w : Warp) (n off : Nat) : Nat := (((w.pc : Int) + 2 * sext n off) % 2 ^ 64).toNat

/-- The run start after the trailer (R302). -/
def thru (w : Warp) : Nat := (w.pc + 8) % 2 ^ 64

/-- active(l). -/
def active (w : Warp) (l : Nat) : Prop := l < 32 ∧ inMask w.exec l = true

/-- p(l) (R300): A is not zero in lane l; with z, A is zero. -/
def holds (w : Warp) (a : Opnd) (z : Bool) (l : Nat) : Prop :=
  if z then (w.rd64 a).getD l 0 = 0 else (w.rd64 a).getD l 0 ≠ 0

/-- A mask is that of the lanes with a property. -/
def IsMask (m : Mask) (p : Nat → Prop) : Prop := ∀ l < 32, inMask m l = true ↔ p l

/-- A push (R110, R111): within the limit, on top of the hardware entries, with bits [55:1] of its PC; where 16 are held
the oldest is spilled to the next entry of the spill area, a write for the warp's context that its die's spoke carries
(R17, R417), once its walk need not wait. -/
def Pushed (s : State) (w : Warp) (e : StackEntry) (s' : State) (w' : Warp) : Prop :=
  w.stack.length + w.spilled < 16 + w.spSize ∧
    ((w.stack.length < 16 ∧ s' = s ∧ w' = { w with stack := { e with pc := e.pc % 2 ^ 56 / 2 * 2 } :: w.stack }) ∨
      (16 ≤ w.stack.length ∧ ∃ old pa pte,
        w.stack.getLast? = some old ∧ transWaits s w.core w.ctx (w.spBase + 16 * w.spilled) = false ∧
        translate s w.core w.ctx (w.spBase + 16 * w.spilled) 16 .write = .ok pa pte ∧
        s' = sysWrite (chargeAt s w.ctx (some (dieOfCore w.core)) pa 16 (pteMt pte != 0)) pa (entryBytes old) false
          (pteMt pte != 0) (some w.ctx) ∧
        w' = { w with stack := { e with pc := e.pc % 2 ^ 56 / 2 * 2 } :: w.stack.dropLast, spilled := w.spilled + 1 }))

/-- A pop (R111): the top hardware entry, and the most recently spilled one, where it can be read now, refilled below the
others from its home. -/
def Popped (s : State) (w : Warp) (e : StackEntry) (s' : State) (w' : Warp) : Prop :=
  ∃ rest, w.stack = e :: rest ∧
    ((w.spilled = 0 ∧ s' = s ∧ w' = { w with stack := rest }) ∨
      (0 < w.spilled ∧ spillWaits s w (w.spBase + 16 * (w.spilled - 1)) = false ∧ ∃ pa pte,
        translate s w.core w.ctx (w.spBase + 16 * (w.spilled - 1)) 16 .read = .ok pa pte ∧
        (dieRead s (dieOfCore w.core) pa 16).2 = false ∧
        s' = homeServes s w.ctx (dieOfCore w.core) pa 16 (pteMt pte != 0) false ∧
        w' = { w with
          stack := rest ++ [entryOf (leNat ((dieRead s (dieOfCore w.core) pa 16).1.take 8))
            (leNat ((dieRead s (dieOfCore w.core) pa 16).1.drop 8))]
          spilled := w.spilled - 1 }))

/-- What a popped entry gives (R306): exec = MASK AND live and its PC; a TRAP entry's trap mask and saved run return when
the trailer completes, the saved run if it is the last entry popped. -/
def resumed (w : Warp) (e : StackEntry) : Warp :=
  { w with
    exec := e.mask &&& w.live
    run := { w.run with ct := some e.pc }
    back := if e.kind = .trap then some (e.tm, true) else w.back.map fun r => (r.1, false) }

/-- The empty mask resolved (R306). -/
inductive Resolved : State → Warp → State → Warp → Prop where
  | some_lane (s : State) (w : Warp) (h : w.exec ≠ 0) : Resolved s w s w
  | pop (s : State) (w : Warp) (e : StackEntry) (s1 : State) (w1 : Warp) (s2 : State) (w2 : Warp) (h : w.exec = 0)
      (hp : Popped s w e s1 w1) (hr : Resolved s1 (resumed w1 e) s2 w2) : Resolved s w s2 w2
  | all_popped (s : State) (w : Warp) (h : w.exec = 0) (hs : w.stack = []) : Resolved s w s { w with exec := w.live }

/-- The restart progress that a JOIN restores from the shadow where the TRAP entry is the last that it pops (R175,
R382). -/
def rejoined (w : Warp) : Warp :=
  { w with prog := if ∃ tm, w.back = some (tm, true) then (w.shadow.map (·.prog)).getD w.prog else w.prog }

/-- A fixed-latency instruction completes and writes `val` to the group of its destination in every active lane; its flags
become `fl`. -/
def ResultClaim (i : Instr) (m : Shape) (d : Dst) (pre : State → Warp → Prop) (val : State → Warp → Nat → Nat)
    (fl : Warp → BitVec 12) : Prop :=
  ∀ s w, Ready s w m → DestHere w d 1 → pre s w →
    ∃ w', exec i s = .next (retire (setWarp s s.cur w') s.cur m) ∧ Resulted w w' d 1 (val s w) ∧ w'.aflags = fl w

/-- A warp-uniform operand (R299): read in the leader lane, or with exec = 0 in the lowest live lane, as an unsigned
64-bit value. -/
def Uniform (w : Warp) (a : Opnd) (v : Nat) : Prop :=
  ∃ l, (if w.exec = 0 then lowest w.live else lowest w.exec) = some l ∧ (w.rd64 a).getD l 0 = v

/-! ## Vocabulary: memory -/

/-- The address of lane l (R170). -/
def addrOf (w : Warp) (a : Opnd) (off l : Nat) : Nat := ((w.rd64 a).getD l 0 + off) % 2 ^ 64

/-- The warp has an earlier acquire that has not returned (R275, R359). -/
def Held (w : Warp) : Bool := heldBack w w.nextSlot true

/-- Nothing stalls an access at issue: a local scratchpad access that no acquire holds meets no scoreboard entry (R98), and
a fabric access goes to a package whose route is not changing (R66). -/
def Free (s : State) (held writes : Bool) (n : Nat) (x : Loc) : Prop :=
  match x with
  | .scratch c p false => held = false → sbStalls s c p (p + n) writes = false
  | .fabric pa => look? s.links.draining (fabricPkg pa) = none
  | _ => True

/-- A lane access as issue leaves it: to be performed. -/
def Fresh (x : LaneAcc) (m : MemForm) (addr : Nat) (loc : Loc) (data data2 : Nat) : Prop :=
  x.addr = addr ∧ x.loc = loc ∧ x.size = m.size ∧ x.op = m.op ∧ x.data = data % 2 ^ (8 * m.size) ∧
    x.data2 = data2 % 2 ^ (8 * m.size) ∧ x.done = false

/-- A ready lane load, store or atomic completes its issue (R170, R270): with no active lane nothing happens; else, where
every active lane's address passes its checks, for which no walk must wait, and nothing stalls it, it takes a slot with one access for each active
lane, but for a store only those that no higher active lane stores over. One that an earlier acquire holds meets the range
scoreboard when it is performed (R98). -/
def AccessClaim (i : Instr) (sh : Shape) (m : MemForm) (d : Warp → SlotDst) (data data2 : Warp → Nat → Nat)
    (signed : Bool) : Prop :=
  ∀ s w, Ready s w sh →
    (w.exec = 0 → exec i s = .next (retire s s.cur sh)) ∧
    ∀ loc : Nat → Loc, w.exec ≠ 0 → w.sample = none →
      (∀ l, active w l → checkLane s w m (addrOf w m.a m.off l) = .inl (loc l) ∧
        (m.scratch = false → transWaits s w.core w.ctx (addrOf w m.a m.off l) = false) ∧
        Free s (Held w) m.op.writes m.size (loc l)) →
      ∃ accs,
        exec i s =
          .next (retire (setWarp { s with serial := s.serial + (lanesOf w.exec).length } s.cur
            ((w.addSlot m.ord m.scope (d w) (.access accs signed)).modSlot w.nextSlot fun sl =>
              { sl with late := Held w })) s.cur sh) ∧
        accs.map (·.lane) = (lanesOf w.exec).filter (fun l => !(m.op == .store &&
          (lanesOf w.exec).any fun k => decide (l < k) && addrOf w m.a m.off k == addrOf w m.a m.off l)) ∧
        ∀ x ∈ accs, Fresh x m (addrOf w m.a m.off x.lane) (loc x.lane) (data w x.lane) (data2 w x.lane)

/-- The size of a lane's access (R169): the size of T for a single register, else 8 bytes for each of the group. -/
def sizeOf' (t : IntTy) (w : Width) : Nat := if w = .w1 then tySize t else 8 * w.regs

/-- The scope an access acts at: on the scratchpad one wider than pair acts as pair (R172, R272). -/
def scopeOn (scratch : Bool) (scope : Scope) : Scope :=
  if scratch = true ∧ (scope = .package ∨ scope = .fabric ∨ scope = .host) then .pair else scope

/-- The memory form of a lane load or store (R168, R169). -/
def loadForm (f : LoadOp) (scratch : Bool) : MemForm :=
  { a := f.a, off := f.imm.val * sizeOf' f.t f.w, size := sizeOf' f.t f.w, ord := f.ord
    scope := scopeOn scratch f.scope, scratch := scratch, op := .load }

def storeForm (f : StoreOp) (scratch : Bool) : MemForm :=
  { a := f.a, off := f.imm.val * sizeOf' f.t f.w, size := sizeOf' f.t f.w, ord := f.ord
    scope := scopeOn scratch f.scope, scratch := scratch, op := .store }

/-- The shapes of lane loads and stores; a scratchpad access charges half the energy of a global one (R160). -/
def loadShape (f : LoadOp) (scratch : Bool) : Shape :=
  { size := 4, long := true, weight := (if scratch then 32 else 64) * f.w.regs, uses := [src f.a .w1, dst f.d f.w] }

def storeShape (f : StoreOp) (scratch : Bool) : Shape :=
  { size := 4, long := true, weight := (if scratch then 32 else 64) * f.w.regs, uses := [src f.a .w1, src f.d f.w] }

def LoadClaim (i : Instr) (f : LoadOp) (scratch : Bool) : Prop :=
  AccessClaim i (loadShape f scratch) (loadForm f scratch) (fun w => w.slotDst f.d f.w.regs) (fun _ _ => 0) (fun _ _ => 0)
    (f.w == .w1 && tySigned f.t)

def StoreClaim (i : Instr) (f : StoreOp) (scratch : Bool) : Prop :=
  AccessClaim i (storeShape f scratch) (storeForm f scratch) (fun _ => .none)
    (fun w l => (w.rd f.d f.w.regs (.int f.t)).getD l 0) (fun _ _ => 0) false

/-- An atomic (R268 to R270): A is the address, D the operand and the destination; a cas writes the register after D. -/
def AtomClaim (i : Instr) (d : Dst) (a : Opnd) (imm n : Nat) (op : AccOp) (cas : Bool) (ord : Order) (scope : Scope)
    (scratch : Bool) : Prop :=
  AccessClaim i
    { size := 4, long := true, weight := if scratch then 32 else 64
      uses := [src a .w1, dstRead d .w1] ++ if cas then [src (casNew d) .w1] else [] }
    { a := a, off := imm * n, size := n, ord := ord, scope := scopeOn scratch scope, scratch := scratch, op := op }
    (fun w => w.slotDst d 1) (fun w l => (w.rd64 (dstOpnd d)).getD l 0)
    (fun w l => if cas then (w.rd64 (casNew d)).getD l 0 else 0) false

/-- The warp stands at the resume point of the trap whose handler it runs: the PC of its topmost TRAP entry (R379). -/
def AtResume (w : Warp) : Prop :=
  ∃ above e below, w.stack = above ++ e :: below ∧ (∀ x ∈ above, x.kind ≠ .trap) ∧ e.kind = .trap ∧
    e.pc = w.pc - 4 * w.run.limm.length

/-- j0 of R175: the restart progress, but 0 in a handler away from the resume point while it belongs to the run that the
handler interrupted (R383). -/
def Starts (w : Warp) (j : Nat) : Prop :=
  (w.progHeld = true ∧ ¬ AtResume w ∧ j = 0) ∨ ((w.progHeld = false ∨ AtResume w) ∧ j = w.prog)

/-- The warp with its restart progress cleared (R383). -/
def cleared (w : Warp) : Warp := { w with prog := 0, progHeld := false, framed := false }

/-- Where the warp has been resumed from a frame that holds a restart progress, that word of it is cleared too, once the
walks of its pages need not wait (R383, R456; log 97). -/
def FrameCleared (s : State) (w : Warp) (t : State) : Prop :=
  (w.framed = false ∧ t = s) ∨
    (w.framed = true ∧ frameWalks s w = false ∧
      ((frameVa s w = none ∧ t = s) ∨
        ∃ va, frameVa s w = some va ∧ t = sysWriteVa s w.ctx (va + 0x43B8) (List.replicate 8 0)))

/-- A compress store (R175): element j, the value of the j-th active lane, goes to base + j × S; the elements before the
restart progress are not stored again, and the progress is cleared. -/
def CompressClaim (i : Instr) (f : StoreOp) (scratch : Bool) : Prop :=
  let m := storeForm f scratch
  let sh : Shape :=
    { size := 4, long := true, weight := (if scratch then 32 else 64) * f.w.regs
      uses := [{ src f.a .w1 with lead := true }, src f.d f.w] }
  ∀ s w t, Ready s w sh → FrameCleared s w t →
    (w.exec = 0 → exec i s = .next (retire (setWarp t s.cur (cleared w)) s.cur sh)) ∧
    ∀ (b j0 : Nat) (loc : Nat → Loc), w.exec ≠ 0 → w.sample = none → Uniform w f.a b → Starts w j0 →
      (∀ j < (lanesOf w.exec).length, j0 ≤ j →
        checkLane s w m ((b + m.off + j * m.size) % 2 ^ 64) = .inl (loc j) ∧
          (scratch = false → transWaits s w.core w.ctx ((b + m.off + j * m.size) % 2 ^ 64) = false) ∧
          Free s (Held w) true m.size (loc j)) →
      ∃ accs,
        exec i s =
          .next (retire (setWarp { t with serial := t.serial + ((lanesOf w.exec).length - j0) } s.cur
            (((cleared w).addSlot m.ord m.scope .none (.access accs false)).modSlot w.nextSlot fun sl =>
              { sl with late := Held w })) s.cur sh) ∧
        accs.map (·.lane) = (lanesOf w.exec).drop j0 ∧
        ∀ k < accs.length, ∀ x, accs[k]? = some x →
          Fresh x m ((b + m.off + (j0 + k) * m.size) % 2 ^ 64) (loc (j0 + k))
            ((w.rd f.d f.w.regs (.int f.t)).getD x.lane 0) 0

/-! ## Vocabulary: octets, queues and messages -/

/-- A ready instruction completes under a condition, and the state before it retires is `f`. -/
def DoneClaim (i : Instr) (m : Shape) (pre : State → Warp → Prop) (f : State → Warp → State) : Prop :=
  ∀ s w, Ready s w m → pre s w → exec i s = .next (retire (f s w) s.cur m)

/-- Word n of the octet at vC in the leader lane (R159). -/
def Word_ (w : Warp) (c : Fin 4) (n v : Nat) : Prop :=
  ∃ l, lowest w.exec = some l ∧ laneAt (w.vreg (8 * c.val + n)) l = v

/-- A ready instruction with exec = 0 has no effect of its own. -/
def IdleClaim (i : Instr) (m : Shape) : Prop := DoneClaim i m (fun _ w => w.exec = 0) fun s _ => s

/-- The value of a special (R108, R205). -/
def special (s : State) (w : Warp) (sp l : Nat) : Nat :=
  if sp = 0 then l
  else if sp = 1 then w.idx
  else if sp = 2 then w.crew
  else if sp = 3 then w.exec.toNat
  else if 4 ≤ sp ∧ sp ≤ 7 then (w.items.getD (sp - 4) 0).toNat
  else if 8 ≤ sp ∧ sp ≤ 11 then laneAt (look w.xr (sp - 8) Lanes.zero) l % 2 ^ 32
  else if sp = 12 then s.time % 2 ^ 64
  else if sp = 13 then (clusterAt s (w.core / 8)).cycles / 10 % 2 ^ 64
  else if sp = 14 then w.prio.toNat
  else if sp = 15 then w.aflags.toNat
  else if sp = 16 then (eligibleCores s w.ctx).length
  else if sp = 17 then liveWidth s w.core
  else if sp = 18 then ((crewAt s w.crewK).map (·.vcore)).getD 0
  else if sp = 19 then dieOfCore w.core
  else if 24 ≤ sp ∧ sp ≤ 27 then ((look? w.send (sp - 24)).map (·.credits)).getD 0
  else if sp = 28 then (ctxAt s w.ctx).phase % 2 ^ 32
  else if sp = 29 then w.tcause.toNat
  else if sp = 30 then w.taddr.toNat
  else if sp = 31 then w.tinfo.toNat
  else 0

/-- The shape of RDS and WRS. -/
def rdsShape (d : Dst) (sp : Fin 32) : Shape :=
  { size := 4, long := isRecv sp.val, uses := [dst d .w1]
    check := fun _ w => trapIf (isSend sp.val && (look? w.send (sp.val - 24)).isNone) (w.trap cILLEGAL_OPERAND) }

def wrsShape (a : Opnd) (sp : Fin 32) : Shape :=
  { size := 4, uses := [{ src a .w1 with lead := sp.val == 3 || sp.val == 14 || sp.val == 15 }]
    check := fun _ w =>
      trapIf (!writable sp.val || (isSend sp.val && (look? w.send (sp.val - 24)).isNone)) (w.trap cILLEGAL_OPERAND) }

/-- The warp with a slot for an instruction whose outcome is still to come, or is known (R150). -/
def Waits (w : Warp) (scope : Scope) (d : Dst) (b : SlotBody) : Warp := w.addSlot .relaxed scope (w.slotDst d 1) b

/-- The subqueues or segments that a warp sees, in the order it tries them (R287, R338). -/
def seen (q : Queue) (w : Warp) : List Nat :=
  let v := dieOfCore w.core
  if q.cls = 1 then [w.core / 8]
  else [v, (v + 1) % 8, (v + 7) % 8, (v + 2) % 8, (v + 6) % 8, (v + 3) % 8, (v + 5) % 8, (v + 4) % 8]

/-- The first item of the first subqueue or segment that holds one, outside deterministic mode. -/
def Takes (s : State) (w : Warp) (qb sub : Nat) (i : Item) (rest : List Item) : Prop :=
  let q := queueOf s w.ctx qb
  (ctxAt s w.ctx).det = false ∧ look q.shadow (w.core / 8) [] = [] ∧
    ∃ pre post, seen q w = pre ++ sub :: post ∧ (∀ p ∈ pre, look q.items p [] = []) ∧ look q.items sub [] = i :: rest

/-- The status word of R286. -/
def status (ticket sdie stat : Nat) : Nat := ticket % 2 ^ 32 * 2 ^ 32 + sdie % 8 * 2 ^ 8 + stat % 4

/-- No subqueue or segment that the warp sees holds an item, its own shadow copies included. -/
def SeesNone (s : State) (w : Warp) (qb : Nat) : Prop :=
  look (queueOf s w.ctx qb).shadow (w.core / 8) [] = [] ∧
    ∀ p ∈ seen (queueOf s w.ctx qb) w, look (queueOf s w.ctx qb).items p [] = []

/-- The shape of DEQ, QTRY and ENQ. -/
def takeShape (d : Dst) (c : Fin 4) : Shape := queueShape c 1 [dst d .w1] fun s w => qbBad s w (octWord w c 0)

/-- What DEQ and QTRY share at issue (R287, R291): with an item to take, it is taken, its 32 bytes are charged for the
spoke that they cross (R17), and its status and content are on their way; with a closed queue and nothing to see, STAT is 1. -/
def TakeClaim (i : Instr) (d : Dst) (c : Fin 4) (scope : Scope) : Prop :=
  IdleClaim i (takeShape d c) ∧
  ∀ s w qb, Ready s w (takeShape d c) → w.exec ≠ 0 → w.sample = none → Word_ w c 0 qb → queueOrphan s w qb = false →
    heldBack w w.nextSlot true = false →
    (∀ sub x rest, Takes s w qb sub x rest →
      exec i s = .next (retire (setWarp
        (mergeClock (chargeBytes (setQueueOf s w.ctx qb
            { queueOf s w.ctx qb with items := putD (queueOf s w.ctx qb).items sub [] rest }) w.ctx 0 0 0 32 0)
          (dieOfCore w.core) x.vc) s.cur
        (Waits w scope d (.status (status (if (queueOf s w.ctx qb).cls = 2 then x.ticket else 0)
          (if (queueOf s w.ctx qb).cls = 1 then dieOfCore w.core else sub) 0) (some x.data) x.vc true))) s.cur
        (takeShape d c))) ∧
    (SeesNone s w qb → (queueOf s w.ctx qb).closed = true →
      ∃ t, exec i s = .next (retire (setWarp t s.cur (Waits w scope d (.status (status 0 0 1) none [] true))) s.cur
        (takeShape d c)) ∧ t = mergeClock s (dieOfCore w.core) [])

/-- The shape of RECQ: it waits for the fetch of the record it names and takes its fault (R155, R184). -/
def recqShape (d : Dst) (c : Fin 4) : Shape :=
  { size := 4, long := true, weight := 16, octet := some (octBase c), words := 1, uses := [dst d .w1]
    check := fun s w =>
      if recqBad (octWord w c 0) then some (w.trap cILLEGAL_OPERAND)
      else match recqFetch s w (octWord w c 0) with
        | .trap t => some t
        | _ => none
    waits := fun s w => !recqBad (octWord w c 0) && (match recqFetch s w (octWord w c 0) with
      | .wait _ => true
      | _ => false) }

/-- The active lanes of a mask below a lane. -/
def lanesBelow (m : Mask) (l : Nat) : Nat := ((List.range l).filter fun k => inMask m k).length

/-- The payload of a message (R58): the active lanes' values in ascending lane, then zero bytes up to whole flits. -/
def Payload (m : Mask) (vals : List Nat) (data : List Byte) : Prop :=
  data.length = 32 * ((8 * lanesBelow m 32 + 31) / 32) ∧
    (∀ l < 32, inMask m l = true →
      leNat ((data.drop (8 * lanesBelow m l)).take 8) = vals.getD l 0 % 2 ^ 64) ∧
    ∀ b ∈ data.drop (8 * lanesBelow m 32), b = 0

/-! ## Vocabulary: engine commands -/

/-- The shape of an engine command (R159, R160): its octet, of which `words` words are read, and its own field rules. -/
def cmdShape (c : Fin 4) (words : Nat) (long : Bool) (uses : List Use) (bad : State → Warp → Bool) : Shape :=
  { size := 4, long := long, weight := 0, octet := some (octBase c), words := words, uses := uses
    check := fun s w => trapIf (bad s w) (w.trap cILLEGAL_OPERAND) }

/-- The record of a handle is in the core's cache and well formed for the warp's crew y (R82, R85). -/
def Named (s : State) (w : Warp) (h : Nat) (y : Crew) (r : TRec) : Prop :=
  ∃ cr, cachedRec s w.core w.ctx h = some cr ∧ crewAt s w.crewK = some y ∧ recMalformed cr.words y.bytes = false ∧
    r = recOf cr.words

/-- A command of an engine that takes at most n scoreboard entries may be accepted at once (R86, R96, R184, R239, R242): a
place in its queue, the entries, no earlier scratchpad access of the warp in the way, no earlier acquire or release fence
that holds it (R275, R359, R370); and the context is not deterministic. -/
def Roomy (s : State) (w : Warp) (eng n : Nat) : Prop :=
  (ctxAt s w.ctx).det = false ∧ (queueAt s (queueKey w.core eng)).length < 16 ∧ sbUsed s w.core + n ≤ 64 ∧
    scratchQuiet w = true ∧ heldBack w w.nextSlot false = false ∧ w.sample = none

/-- A command has been accepted between s and t (R86, R239, R278): it is the last of its queue, has the next sequence
number, and is discarded if the timeline has a fault mark. -/
def Accepted (s t : State) (w : Warp) (eng : Nat) (body : CmdBody) (chained : Bool) : Prop :=
  let k := tlKey w.core w.ctx eng
  ∃ c, queueAt t (queueKey w.core eng) = queueAt s (queueKey w.core eng) ++ [c] ∧ c.body = body ∧
    c.seq = (timelineAt s k).next ∧ c.ctx = w.ctx ∧ c.crew = w.crewK ∧ c.warp = w.key ∧ c.phase = 0 ∧ c.fault = none ∧
    c.waitChain = chained ∧ ((timelineAt s k).p ≠ 0 → c.discard = true) ∧
    (chained = false → c.discard = decide ((timelineAt s k).p ≠ 0)) ∧
    (timelineAt t k).next = (timelineAt s k).next + 1 ∧ (timelineAt t k).t = (timelineAt s k).t

/-- A ready command completes: it is accepted on its engine, and no warp and no crew changes. -/
def Accepts (i : Instr) (sh : Shape) (s : State) (w : Warp) (eng : Nat) (body : CmdBody) : Prop :=
  ∃ t, exec i s = .next (retire t s.cur sh) ∧ Accepted s t w eng body false ∧ (∀ j, warpAt t j = warpAt s j) ∧
    (∀ j, crewAt t j = crewAt s j) ∧ ∀ q, q ≠ queueKey w.core eng → queueAt t q = queueAt s q

/-- What MMA and MMAN ask of the record of A, of the accumulator set and of the region of B (R248, R249). -/
def MmaFits (y : Crew) (r : TRec) (x0 x1 : Nat) : Prop :=
  let a := r.at (bits x0 16 22) (bits x1 0 22)
  let g := look y.firn (bits x0 40 3) Firn.invalid
  r.ent = false ∧ r.sp = true ∧ r.rank = 2 ∧ mulFmt r.fmt = true ∧ (isSe r.fmt = true ∨ bits x1 0 22 = 0) ∧
    a.offBad = false ∧ (∀ p ∈ a.foot [0, 0] [bits x1 32 13, bits x1 48 8], p.2 ≤ y.bytes) ∧ bits x0 38 2 < y.nAcc ∧
    g.st ≠ .invalid ∧ bits x0 48 9 + bits x1 32 13 / 16 ≤ g.ng ∧ wideFmt r.fmt = wideFmt g.fmt

/-- The command of an MMA or MMAN block. -/
def mmaBody (fresh : Bool) (y : Crew) (r : TRec) (x0 x1 : Nat) : CmdBody :=
  .mma fresh r (bits x0 16 22) (bits x1 0 22) (bits x0 48 9) (bits x0 40 3)
    (look y.firn (bits x0 40 3) Firn.invalid).fmt (bits x0 38 2) (bits x1 56 8) (bits x1 48 8) (bits x1 32 13)

/-- What ACCRD and ACCWR ask (R241, R254). -/
def AccFits (y : Crew) (r : TRec) (x0 x1 : Nat) (wr : Bool) : Prop :=
  let a := r.at (bits x0 16 22) 0
  r.ent = false ∧ r.sp = true ∧ r.rank = 2 ∧ 8 ≤ r.fmt ∧ r.fmt ≤ 12 ∧ (wr = true → r.rdo = false) ∧ a.offBad = false ∧
    (∀ p ∈ a.foot [0, 0] [bits x1 8 8, bits x1 0 8], p.2 ≤ y.bytes) ∧ bits x0 38 2 < y.nAcc

/-- The waits of R257 are over: no setter of the table is unretired, and no write is under way to its source pages, those
held when the first wait ended. -/
def TableReady (s : State) (w : Warp) (y : Crew) (n : Nat) : Prop :=
  setterBusy s w n = false ∧ pagesBusy s y (w.tblPages.getD ((look y.tables n Table.empty).src.map (·.1))) = false

/-- A command without a chained block (R184): what its record and ranges must satisfy. -/
def CopyFits (y : Crew) (c : CopyCmd) : Prop := c.recBad = false ∧ c.rangesBad y.bytes = false

/-- The shape of a copy command (R177). -/
def copyShape (k : CopyKind) (f : CopyOp) : Shape :=
  cmdShape f.c (if f.cw then 8 else 6) false (if f.chain then chainUses f.c2 else [])
    fun _ w => copyWordsBad k (octWord w f.c) f.cw

/-- A ready copy command completes (R94, R177 to R184): accepted on its queue, with the matrix command of its chained block
accepted on the mx sequence after it, waiting for it. -/
def CopyClaim (i : Instr) (k : CopyKind) (f : CopyOp) : Prop :=
  IdleClaim i (copyShape k f) ∧
  ∀ s w y r x, Ready s w (copyShape k f) → w.exec ≠ 0 → (∀ n < 8, Word_ w f.c n (x n)) → Named s w (bits (x 0) 0 12) y r →
    CopyFits y (copyOf k f.st x f.cw f.scope r) → Roomy s w f.q.val 8 →
    (f.chain = false → Accepts i (copyShape k f) s w f.q.val (.copy (copyOf k f.st x f.cw f.scope r))) ∧
    ∀ y0 y1 r1, f.chain = true → Word_ w f.c2 0 y0 → Word_ w f.c2 1 y1 → Named s w (bits y0 0 12) y r1 →
      mmaWordsBad y0 y1 = false → MmaFits y r1 y0 y1 → (queueAt s (queueKey w.core 4)).length < 16 →
      (s.recs.filter fun e => e.core == w.core).length ≤ 64 → (timelineAt s (tlKey w.core w.ctx f.q.val)).p = 0 →
      ∃ t, exec i s = .next (retire t s.cur (copyShape k f)) ∧
        Accepted s t w f.q.val (.copy (copyOf k f.st x f.cw f.scope r)) false ∧
        Accepted s t w 4 (mmaBody f.mman y r1 y0 y1) true ∧ (∀ j, warpAt t j = warpAt s j) ∧ ∀ j, crewAt t j = crewAt s j

/-- Between s and t the head of a queue or sequence has retired: the rest remains and T is its number (R86, R239); the
reload of a resumed crew's region leaves T (R266). -/
def EngineRetired (s t : State) (core eng : Nat) (k : Cmd) (rest : List Cmd) : Prop :=
  queueAt t (queueKey core eng) = rest ∧ (timelineAt t (tlKey core k.ctx eng)).t = (if k.reload then (timelineAt s (tlKey core k.ctx eng)).t else k.seq) ∧
    (timelineAt t (tlKey core k.ctx eng)).next = (timelineAt s (tlKey core k.ctx eng)).next ∧
    ∀ n, n ≠ queueKey core eng → queueAt t n = queueAt s n

/-! ## Vocabulary: what the engines move -/

/-- An engine of a core reads some ranges within flits, one after the other: the states from one to the other, and what is
read with its poison (R186). -/
def FlitsRead (core ctx : Nat) (copy : Bool) : List (Nat × Nat) → State → List (List Byte × Bool) → State → Prop
  | [], s, l, t => l = [] ∧ t = s
  | (a, n) :: ps, s, l, t => ∃ u v p r pa pte, l = (leBytes n v, p) :: r ∧ transWaits s core ctx a = false ∧
      translate s core ctx a 1 .read = .ok pa pte ∧ homeLoad s ctx core pa n (pteMt pte != 0) copy = some (u, v, p) ∧
      FlitsRead core ctx copy ps u r t

/-- An engine reads one source: an address with a length, of the crew's scratchpad or of memory, or none for bytes that
stand in for what is out of bounds; each byte comes with its poison (R84, R93). -/
def SourceRead (core ctx : Nat) (copy : Bool) (y : Crew) (sp : Bool) (x : Option Nat × Nat × List Byte) (s : State)
    (b : List (Byte × Bool)) (t : State) : Prop :=
  match x.1 with
  | none => t = s ∧ b = x.2.2.map (·, false)
  | some a =>
    if sp = true then
      t = s ∧ b = (List.range x.2.1).map fun i =>
        (rdByte s.scr (scrKey core (y.addr (a + i))), scrPoison s core (y.addr (a + i)))
    else ∃ l, FlitsRead core ctx copy ((cut32 a x.2.1).map fun p => (a + p.1, p.2)) s l t ∧
      b = l.flatMap fun p => p.1.map (·, p.2)

/-- An engine reads some sources in their order. -/
def SourcesRead (core ctx : Nat) (copy : Bool) (y : Crew) (sp : Bool) : List (Option Nat × Nat × List Byte) → State →
    List (List (Byte × Bool)) → State → Prop
  | [], s, l, t => l = [] ∧ t = s
  | x :: xs, s, l, t => ∃ u b r, l = b :: r ∧ SourceRead core ctx copy y sp x s b u ∧
      SourcesRead core ctx copy y sp xs u r t

/-- Byte j of source i of what has been read, with its poison. -/
def byteOf (l : List (List (Byte × Bool))) (i j : Nat) : Byte × Bool := (l.getD i []).getD j (0, false)

/-- An engine writes pieces within flits, one after the other: each enters the die's store stage, or goes to host memory or
to the port of another package (R186, R364). -/
def PiecesWritten (core ctx eng seq : Nat) (copy : Bool) : List (Nat × List Byte × Bool) → State → State → Prop
  | [], s, t => t = s
  | (a, d) :: ws, s, t => ∃ pa pte u, transWaits s core ctx a = false ∧ translate s core ctx a 1 .write = .ok pa pte ∧
      (((paKind pa).homed = true ∧ u = chargeHome (stageWrite s ctx (dieOfCore core) pa d.1.length (leNat d.1) d.2
          (BitVec.ofNat 2 (pteMt pte)) (cmdOwner core eng) seq) ctx (some (dieOfCore core)) pa d.1.length (pteMt pte != 0) copy) ∨
        (paKind pa = .host ∧
          u = chargeOut (modMem s fun m => { m with hostMem := wrBytes m.hostMem pa d.1 }) ctx pa d.1.length) ∨
        (paKind pa = .fabric ∧ portFree s pa = true ∧
          u = chargeOut (fabricWrite s pa d.1 d.2) ctx pa d.1.length)) ∧
      PiecesWritten core ctx eng seq copy ws u t

/-- Between s and t one operation has written bytes of a core's scratchpad, `W o b` at offset o of the crew the byte b with
its poison: no other byte has changed; a unit is poisoned if it takes a poisoned byte, or was poisoned and keeps a byte
(R76, R93); and each page written has counted once (R77). -/
def ScratchTook (s t : State) (core : Nat) (y : Crew) (W : Nat → Byte × Bool → Prop) : Prop :=
  (∀ o b, W o b → rdByte t.scr (scrKey core (y.addr o)) = b.1) ∧
    (∀ a, (∀ o b, W o b → a ≠ scrKey core (y.addr o)) → rdByte t.scr a = rdByte s.scr a) ∧
    (∀ u, scrPoison t core (y.addr (32 * u)) = true ↔
      (∃ i < 32, ∃ b, W (32 * u + i) (b, true)) ∨
        (scrPoison s core (y.addr (32 * u)) = true ∧ ∃ i < 32, ∀ b, ¬ W (32 * u + i) b)) ∧
    ∀ p, ((∃ o b, W o b ∧ o / 4096 = p) → genOf t core (y.page + p) = genOf s core (y.page + p) + 1) ∧
      ((∀ o b, W o b → o / 4096 ≠ p) → genOf t core (y.page + p) = genOf s core (y.page + p))

/-- The head of an engine's queue may make its accesses: its cluster runs, it is not discarded, and nothing before it is
in its way (R86, R239, R278, R406). -/
def Works (s : State) (core eng : Nat) (k : Cmd) (rest : List Cmd) (y : Crew) : Prop :=
  queueAt s (queueKey core eng) = k :: rest ∧ clusterRuns s (clusterOfCore core) = true ∧ mayStart s core k = true ∧
    k.discard = false ∧ k.phase = 0 ∧ crewAt s k.crew = some y ∧ y.core = core

/-! ### The box of a copy (R88, R179, R180) -/

/-- Extent k of a copy's box: those that its command does not read count as 1 (R179). -/
def boxExt (c : CopyCmd) (k : Nat) : Nat :=
  if k < (match c.kind with
    | .cpyp => c.trec.rank
    | .pfch => c.trec.rank
    | .cpyt => 2
    | _ => 1) then c.e.getD k 0 else 1

/-- The units of a box. -/
def boxUnits (c : CopyCmd) : Nat :=
  match c.kind with
  | .cpyg => boxExt c 0 * c.n
  | _ => boxExt c 0 * boxExt c 1 * boxExt c 2 * boxExt c 3 * boxExt c 4

/-- The coordinates of unit q of a box, dimension 0 fastest; a CPYG takes dimension 1 from its index list. -/
def boxCo (c : CopyCmd) (ix : Nat → Int) (q : Nat) : List Int :=
  let e := boxExt c
  let step := if isSe c.trec.fmt then 32 else 1
  let c0 := coord c.c 0 + ((step * (q % e 0) : Nat) : Int)
  match c.kind with
  | .cpyg => [c0, ix (q / e 0), coord c.c 2, coord c.c 3, coord c.c 4]
  | _ => [c0, coord c.c 1 + ((q / e 0 % e 1 : Nat) : Int), coord c.c 2 + ((q / (e 0 * e 1) % e 2 : Nat) : Int),
      coord c.c 3 + ((q / (e 0 * e 1 * e 2) % e 3 : Nat) : Int), coord c.c 4 + ((q / (e 0 * e 1 * e 2 * e 3) % e 4 : Nat) : Int)]

/-- The scratchpad position of unit q: transposed for a CPYT, else rows of E0 units a pitch apart. -/
def boxPos (c : CopyCmd) (q : Nat) : Nat :=
  match c.kind with
  | .cpyt => q / boxExt c 0 % boxExt c 1 + c.pitch * (q % boxExt c 0)
  | _ => q % boxExt c 0 + c.pitch * (q / boxExt c 0)

/-- The index list of a CPYG as the scratchpad holds it. -/
def boxIx (s : State) (core : Nat) (y : Crew) (c : CopyCmd) (t : Nat) : Int :=
  sext 32 (leNat (scrRead s core (y.addr (c.idxOff + 4 * t)) 4))

/-- The bytes of a unit: of its element or block, and of an SE block's scale. -/
def unitBytes (c : CopyCmd) : Nat := fmtUnit c.trec.fmt + if isSe c.trec.fmt then 2 else 0

/-- The scratchpad offset of byte i of unit q. -/
def padSide (c : CopyCmd) (q i : Nat) : Nat :=
  if i < fmtUnit c.trec.fmt then c.spoff + fmtUnit c.trec.fmt * boxPos c q + i
  else 64 * c.soff + 2 * boxPos c q + (i - fmtUnit c.trec.fmt)

/-- The record-side address of byte i of the unit at some coordinates. -/
def recSide (r : TRec) (co : List Int) (i : Nat) : Nat :=
  if i < fmtUnit r.fmt then r.elemAddr co + i else r.scaleAddr co + (i - fmtUnit r.fmt)

/-- The sources of the unit at some coordinates: its element or block, with PAD out of bounds, and an SE block's scale
(R84). -/
def unitSources (r : TRec) (co : List Int) : List (Option Nat × Nat × List Byte) :=
  (if r.inBounds co = true then some (r.elemAddr co) else none, fmtUnit r.fmt, leBytes (fmtUnit r.fmt) r.padVal) ::
    if isSe r.fmt then [(if r.inBounds co = true then some (r.scaleAddr co) else none, 2, [0, 0])] else []

/-- Byte i of unit q among the sources read. -/
def unitByte (c : CopyCmd) (l : List (List (Byte × Bool))) (q i : Nat) : Byte × Bool :=
  if isSe c.trec.fmt then
    (if i < fmtUnit c.trec.fmt then byteOf l (2 * q) i else byteOf l (2 * q + 1) (i - fmtUnit c.trec.fmt))
  else byteOf l q i

/-- The pieces that a copy store writes of the unit at some coordinates, cut at flits: the scratchpad's bytes, poisoned where
a unit of theirs is; none out of bounds (R84, R93). -/
def unitPieces (s : State) (core : Nat) (y : Crew) (c : CopyCmd) (co : List Int) (q : Nat) : List (Nat × List Byte × Bool) :=
  let put := fun (a n o : Nat) => (cut32 a n).map fun p =>
    (a + p.1, (List.range p.2).map (fun i => rdByte s.scr (scrKey core (y.addr (o + p.1 + i)))),
      (List.range p.2).any fun i => scrPoison s core (y.addr (o + p.1 + i)))
  if c.trec.inBounds co = true then
    put (c.trec.elemAddr co) (fmtUnit c.trec.fmt) (padSide c q 0) ++
      if isSe c.trec.fmt then put (c.trec.scaleAddr co) 2 (padSide c q (fmtUnit c.trec.fmt)) else []
  else []

/-- The row of flat element f of rows of some lengths, and its place in the row (R89). -/
def rowAt : List Nat → Nat → Nat × Nat
  | [], _ => (0, 0)
  | n :: l, f => if f < n then (0, f) else ((rowAt l (f - n)).1 + 1, (rowAt l (f - n)).2)

/-- The first canonical code of length k + 1 (R90). -/
def firstCode (counts : List Nat) : Nat → Nat
  | 0 => 0
  | k + 1 => 2 * (firstCode counts k + counts.getD k 0)

/-- The number that n bits of a stream form from bit p on, each byte read from its bit 7 down (R90). -/
def streamBits (bs : List Byte) (p n : Nat) : Nat :=
  (List.range n).foldl (fun a j => 2 * a + (bs.getD ((p + j) / 8) 0).toNat / 2 ^ (7 - (p + j) % 8) % 2) 0

/-- The spill image of a table of a crew under a context's key, byte by byte (R263). -/
def SpillImage (s : State) (ctx : Nat) (y : Crew) (b : Table) (img : List Byte) : Prop :=
  let word := fun (o : Nat) => leNat ((img.drop o).take 8)
  let src := fun (i : Nat) => b.src.getD i (0, 0)
  img.length = 8256 ∧ (∀ i < 2048, leNat ((img.drop (4 * i)).take 4) = (look b.ent i 0).toNat) ∧
    bits (word 8192) 0 2 = (if b.built then 0 else 2) ∧ bits (word 8192) 2 1 = (if b.nan then 1 else 0) ∧
    bits (word 8192) 3 1 = (if b.pois then 1 else 0) ∧ bits (word 8192) 4 1 = (if b.stale then 1 else 0) ∧
    bits (word 8192) 5 2 = b.src.length ∧ bits (word 8192) 7 9 = 0 ∧ bits (word 8192) 16 9 = wrap 9 b.et ∧
    bits (word 8192) 25 39 = 0 ∧ bits (word 8200) 0 10 = (src 0).1 ∧ bits (word 8200) 10 6 = 0 ∧
    bits (word 8200) 16 10 = (src 1).1 ∧ bits (word 8200) 26 6 = 0 ∧ bits (word 8200) 32 16 = (src 0).2 ∧
    bits (word 8200) 48 16 = (src 1).2 ∧ word 8208 = y.wrap.toNat ∧ (∀ i < 32, img.getD (8216 + i) 1 = 0) ∧
    (img.drop 8248).take 8 = shake256 (leBytes 32 (ctxAt s ctx).spillKey.toNat ++ img.take 8248) 8

/-! ## Vocabulary: scheduling, traps and returns -/

/-- R340: warp a comes before warp b for a free holder: the higher effective priority, then the longest since its last run
start (one that has never started first), then the lower slot. -/
def Precedes (a b : Warp) : Prop :=
  b.effPrio < a.effPrio ∨ (a.effPrio = b.effPrio ∧
    match a.lastStart, b.lastStart with
    | none, none => a.slot < b.slot
    | none, some _ => True
    | some _, none => False
    | some x, some y => x < y ∨ (x = y ∧ a.slot < b.slot))

/-- Warp w is the one that a free holder of its quarter takes (R340). -/
def NextUp (s : State) (core q : Nat) (w : Warp) : Prop :=
  holderFree s core q = true ∧ w ∈ readyWarps s core q ∧ ∀ x ∈ readyWarps s core q, x = w ∨ Precedes w x

/-- R351 does not withhold the start of a run in the warp's holder. -/
def MayStart (s : State) (w : Warp) : Prop := w.st = .running → startAllowed s w = true

/-- A trap of warp w may enter its handler (R351, R381): nothing is outstanding, traps are unmasked, a handler is set, the
stack holds fewer than 16 entries, none of them spilled, and the handler's start is not withheld. -/
def MayEnter (s : State) (w : Warp) : Prop :=
  w.drained = true ∧ w.tm = false ∧ (ctxAt s w.ctx).tvec ≠ 0 ∧ w.stack.length < 16 ∧ w.spilled = 0 ∧ MayStart s w

/-- The warp in the handler of trap t (R381 steps 3 to 6): the run state and the restart progress in the shadow, a TRAP
entry with the resume point, exec and the old trap mask, the trap registers written, a new run at TVEC + 64 × cause. -/
def inHandler (s : State) (w : Warp) (t : TrapReq) (run : RunState) : Warp :=
  { w with
    stack := { kind := .trap, pc := t.resume % 2 ^ 56 / 2 * 2, mask := w.exec, tm := false } :: w.stack
    shadow := some { run := run, prog := w.prog, runNo := w.runNo }, progHeld := true
    tm := true, tcause := BitVec.ofNat 64 t.cause, taddr := t.addr, tinfo := tinfoOf t
    pc := (ctxAt s w.ctx).tvec + 64 * t.cause, run := RunState.start, runNo := w.runNo + 1
    code := none, pend := none, back := none, tblPages := none }

/-- Warp k, which was w, stands as h at the start of a run: in its holder, as the latest run start, or, if it was in none,
ready for one. -/
def Entered (s : State) (k : Nat) (w h : Warp) : State :=
  if w.st = .running then
    setWarp { s with serial := s.serial + 1 } k
      { h with st := .running, lastStart := some s.serial, promoted := false, readyClk := 0 }
  else setWarp s k { h with st := .ready }

/-- The current warp may meet a trap at its next instruction: it issues, no LIMM waits, and its handler may be entered. -/
def Trappable (s : State) (w : Warp) : Prop :=
  warpAt s s.cur = some w ∧ mayIssue s w = true ∧ w.run.limm = [] ∧ MayEnter s w

/-- Instruction i takes an exact trap of a cause, with `info` in tinfo [63:32] (R379 to R381). -/
def Traps (i : Instr) (s : State) (w : Warp) (cause info : Nat) : Prop :=
  exec i s = .next (Entered s s.cur w (inHandler s w
    { cause := cause, addr := BitVec.ofNat 64 w.pc, info := info, wr := false, eng := 0, tb := 0, pos := w.run.pos
      ret := false, slot := 0, prog := 0, lv := false, lane := 0, resume := w.pc } w.run))

/-- An outstanding instruction of a warp, whose result may return. -/
def Outstanding (s : State) (k : Nat) (w : Warp) (sl : Slot) : Prop :=
  warpAt s k = some w ∧ w.key = k ∧ sl ∈ w.slots ∧ sl.ret = false ∧ (∀ x ∈ w.slots, x.id = sl.id → x = sl) ∧
    (∀ x ∈ w.slots, x.ret = false) ∧
    ∀ n, sl.dst = .ofile n → ∀ x ∈ w.slots, x.id < sl.id → x.run = sl.run → x.dst ≠ .ofile n

/-- From w to w' the result of a slot has returned in the lanes m (R150, R152): its registers, or its operand-file entry if
its run still runs, hold the values; the slot is gone; nothing else changes but the flags and the held poison. -/
def SlotWritten (w w' : Warp) (sl : Slot) (m : Mask) (vals : Nat → Nat) : Prop :=
  (match sl.dst with
   | .none => w'.main = w.main ∧ w'.run = w.run
   | .regs bases g => w'.run = w.run ∧ ∀ r < 64, ∀ l < 32,
      laneAt (w'.vreg r) l =
        if inMask m l = true ∧ bases.getD l 64 ≤ r ∧ r < bases.getD l 64 + g then
          vals l / 2 ^ (64 * (r - bases.getD l 64)) % 2 ^ 64
        else laneAt (w.vreg r) l
   | .ofile n => w'.main = w.main ∧ ∀ l < 32,
      laneAt (look w'.run.ofile n Lanes.zero) l =
        if inMask m l = true ∧ sl.run = w.runNo then vals l % 2 ^ 64 else laneAt (look w.run.ofile n Lanes.zero) l) ∧
    w' = { w with
      main := w'.main, ue := w'.ue, aflags := w'.aflags, held := w'.held
      slots := w.slots.filter fun x => x.id != sl.id
      run := { w.run with ofile := w'.run.ofile, owr := w'.run.owr, oue := w'.run.oue } }

/-- A warp that waits in REGRS at its instruction, as fetched (R314). -/
def WaitsRegrs (s : State) (w : Warp) (n : Nat) (d : Dst) : Prop :=
  warpAt s w.key = some w ∧ w.st = .blocked (.regrs n) ∧ w.calveWait = false ∧
    ∃ h0 h1 rest a, w.code = some (h0 :: h1 :: rest) ∧ decode [h0, h1] = some (.regrs d a, [])

/-- The agent may write a control page, and the context has the pending record p. -/
def MayResolve (s : State) (a : Agent) (ctx : Nat) (p : FaultRec → Bool) : Prop :=
  mayPage s a ctx = true ∧ ∃ r ∈ (ctxAt s ctx).pendRecs, p r = true

/-- The fields of a resolve word (R424): CREW, VCORE, WARP and ENG. -/
def rsCrew (v : Word) : Nat := bits v.toNat 48 16
def rsVcore (v : Word) : Nat := bits v.toNat 40 8
def rsWarp (v : Word) : Nat := bits v.toNat 36 4
def rsEng (v : Word) : Nat := bits v.toNat 32 4

/-- The run of a warp, and the run in its trap shadow, keep R149: at most 24 instructions and six slots. -/
def Bounded (w : Warp) : Prop :=
  w.run.pos ≤ 24 ∧ w.run.taken ≤ 6 ∧ ∀ h, w.shadow = some h → h.run.pos ≤ 24 ∧ h.run.taken ≤ 6

/-- The lowest free holder of a quarter (R343): true is holder 1. -/
def freeOne (s : State) (core q : Nat) : Bool := (quarterWarps s core q).any fun x => x.inHolder && !x.holder

/-- A warp that a calving request lets run on only while its trap mask is set has left its holder once it is not
(R391). -/
def leftHolder (w : Warp) : Warp :=
  if w.calveWait = true ∧ w.tm = false then { w with st := .ready, calveWait := false, tblPages := none } else w

/-! ## Vocabulary: the checks of R155 -/

/-- Instruction i takes an exact trap of a cause at lane l, with `info` in tinfo [63:32], the lane and WR (R379, R380). -/
def LaneTraps (i : Instr) (s : State) (w : Warp) (cause info l addr : Nat) (wr : Bool) : Prop :=
  exec i s = .next (Entered s s.cur w (inHandler s w
    { cause := cause, addr := BitVec.ofNat 64 addr, info := info, wr := wr, eng := 0, tb := 0, pos := w.run.pos
      ret := false, slot := 0, prog := 0, lv := true, lane := l, resume := w.pc } w.run))

/-- An operand with its group size names register r in lane l (R100, R105); 64 and above are operand-file entries. -/
def NamesIn (w : Warp) (o : Opnd × Nat) (l r : Nat) : Prop :=
  match o.1 with
  | .v n => n.val ≤ r ∧ r < n.val + o.2
  | .o n => r = 64 + n.val
  | .x k =>
    w.xval k l % 256 + w.xval k l / 2 ^ 16 % 256 ≤ r ∧ r < w.xval k l % 256 + w.xval k l / 2 ^ 16 % 256 + o.2
  | _ => False

/-- A direct register of the operands lies beyond the allocation (R101). -/
def Beyond (w : Warp) (os : List (Opnd × Nat)) : Prop := ∃ o ∈ os, ∃ n, o.1 = .v n ∧ w.alloc < n.val + o.2

/-- A source names an operand-file entry that is not written, or a last result that is missing (R106). -/
def Missing (w : Warp) (rs : List (Opnd × Nat)) : Prop :=
  ∃ o ∈ rs, (∃ n, o.1 = .o n ∧ w.run.owr.getLsbD n.val = false) ∨ (o.1 = .l0 ∧ w.run.l0 = none) ∨
    (o.1 = .l1 ∧ w.run.l1 = none)

/-- Index register k fails R105 in lane l for a group of g registers: IDX + g exceeds CNT, BASE + IDX is not a multiple of g,
or BASE + IDX + g exceeds A. -/
def BadIndex (w : Warp) (k g l : Nat) : Prop :=
  let base := w.xval k l % 256
  let cnt := w.xval k l / 2 ^ 8 % 256
  let idx := w.xval k l / 2 ^ 16 % 256
  cnt < idx + g ∨ (base + idx) % g ≠ 0 ∨ w.alloc < base + idx + g

/-- Some operand's index register fails in lane l. -/
def IndexFails (w : Warp) (os : List (Opnd × Nat)) (l : Nat) : Prop :=
  ∃ o ∈ os, ∃ k, o.1 = .x k ∧ BadIndex w k.val o.2 l

/-- Register r is a source of lane l and its word has an uncorrectable error (R102). -/
def BadWord (w : Warp) (rs : List (Opnd × Nat)) (l r : Nat) : Prop :=
  ∃ o ∈ rs, NamesIn w o l r ∧ inMask (w.ueOf r) l = true

/-- A long-latency write of main register r is pending (R114). -/
def PendingWrite (w : Warp) (r : Nat) : Prop :=
  ∃ sl ∈ w.slots, sl.ret = false ∧ ∃ bases g, sl.dst = .regs bases g ∧
    ∃ l < 32, inMask sl.mask l = true ∧ bases.getD l 64 ≤ r ∧ r < bases.getD l 64 + g

/-- Lane l is the lowest active lane with a property. -/
def LowestLane (w : Warp) (p : Nat → Prop) (l : Nat) : Prop := active w l ∧ p l ∧ ∀ k < l, active w k → ¬ p k

/-- The checks of orders 2 to 7 of R155 that an instruction makes which reads the operands rs and writes the operands ws, in
their order: each that fails is the trap taken. A register beyond the allocation traps with no active lane too. -/
def OperandChecks (i : Instr) (long : Bool) (rs ws : List (Opnd × Nat)) : Prop :=
  ∀ s w, Trappable s w →
    (24 ≤ w.run.pos → Traps i s w 1 0) ∧
    (w.run.pos < 24 → long = true → 6 ≤ w.run.taken → Traps i s w 1 0) ∧
    (w.run.pos < 24 → (long = true → w.run.taken < 6) →
      (Beyond w (rs ++ ws) → Traps i s w 2 0) ∧
      (¬ Beyond w (rs ++ ws) → w.exec ≠ 0 →
        (Missing w rs → Traps i s w 2 0) ∧
        (¬ Missing w rs →
          (∀ l, LowestLane w (IndexFails w (rs ++ ws)) l →
            ∃ o ∈ rs ++ ws, ∃ k, o.1 = .x k ∧ BadIndex w k.val o.2 l ∧ LaneTraps i s w 12 k.val l w.pc false) ∧
          ((∀ l, active w l → ¬ IndexFails w (rs ++ ws) l) →
            (∀ l, LowestLane w (fun l => ∃ r, BadWord w rs l r) l →
              ∃ r, BadWord w rs l r ∧ LaneTraps i s w 19 r l w.pc false) ∧
            ((∀ l, active w l → ¬ ∃ r, BadWord w rs l r) → (ctxAt s w.ctx).hc = true →
              (∃ l r, active w l ∧ r < 64 ∧ PendingWrite w r ∧ ∃ o ∈ rs ++ ws, NamesIn w o l r) →
              Traps i s w 3 0)))))

/-- Lane l's address a fails its checks with a cause: in the scratchpad those of R74, else those of R45 and R272. -/
def AddressFails (s : State) (w : Warp) (m : MemForm) (a cause : Nat) : Prop :=
  if m.scratch = true then
    (a % m.size ≠ 0 ∧ cause = 9) ∨
      (a % m.size = 0 ∧ cause = 8 ∧
        ¬ (a < 2 ^ 23 ∧ ∃ k x, halfCrew s w a = some (k, x) ∧ a % 2 ^ 22 + m.size ≤ x.bytes))
  else
    translate s w.core w.ctx a m.size (if m.op.writes = true then .write else .read) = .bad cause ∨
      ∃ pa pte, translate s w.core w.ctx a m.size (if m.op.writes = true then .write else .read) = .ok pa pte ∧
        paKind pa = .host ∧ hostAtomic m.op = false ∧ cause = 8

/-- A lane load, store or atomic whose earlier checks pass traps at its lowest active lane whose address fails, with that
lane's cause and address, in the scratchpad its offset (R45, R74, R379). -/
def AddressTraps (i : Instr) (sh : Shape) (m : MemForm) : Prop :=
  ∀ s w l cause, Ready s w sh → MayEnter s w →
    (∀ k, active w k → m.scratch = false → addrOf w m.a m.off k % m.size = 0 →
      transWaits s w.core w.ctx (addrOf w m.a m.off k) = false) →
    active w l → AddressFails s w m (addrOf w m.a m.off l) cause →
    (∀ k < l, active w k → ∀ c, ¬ AddressFails s w m (addrOf w m.a m.off k) c) →
    LaneTraps i s w cause 0 l
      (if m.scratch = true then addrOf w m.a m.off l % 2 ^ 22 else addrOf w m.a m.off l) m.op.writes

/-- The memory form of an atomic (R268, R269). -/
def atomForm (a : Opnd) (imm n : Nat) (op : AccOp) (ord : Order) (scope : Scope) (scratch : Bool) : MemForm :=
  { a := a, off := imm * n, size := n, ord := ord, scope := scopeOn scratch scope, scratch := scratch, op := op }

/-- The shape of an atomic (R267, R268). -/
def atomShape (d : Dst) (a : Opnd) (cas scratch : Bool) : Shape :=
  { size := 4, long := true, weight := if scratch then 32 else 64
    uses := [src a .w1, dstRead d .w1] ++ if cas then [src (casNew d) .w1] else [] }

/-! ## Vocabulary: accesses performed -/

/-- R269: what an operation writes where it finds `old`, for operands of n bits. -/
def written (op : AccOp) (n old v v2 : Nat) : Nat :=
  match op with
  | .load => old
  | .store => v
  | .atomG _ .add => (old + v) % 2 ^ n
  | .atomG _ .mins => if sext n old ≤ sext n v then old else v
  | .atomG _ .maxs => if sext n v ≤ sext n old then old else v
  | .atomG _ .minn => min old v
  | .atomG _ .maxn => max old v
  | .atomG _ .and => old &&& v
  | .atomG _ .or => old ||| v
  | .atomG _ .xor => old ^^^ v
  | .atomX .xchg32 | .atomX .xchg64 => v
  | .atomX .cas32 | .atomX .cas64 => if old = v then v2 else old
  | .atomX .faddf => (addF32 old v).1
  | .atomX .fminf => (minMax .f { rm := .rne, ftz := false } false old v).1
  | .atomX .incw32 => if v ≤ old then 0 else old + 1

/-- The lane of a slot has been performed, with a value and a poison. -/
def LaneDone (t : State) (k : Nat) (sl : Slot) (lane v : Nat) (p : Bool) : Prop :=
  ∃ w' sl', warpAt t k = some w' ∧ firstOf (fun x => x.id == sl.id) w'.slots = some sl' ∧
    ∀ b ∈ sl'.accs, b.lane = lane → b.done = true ∧ b.val = v ∧ b.pois = p

/-- The lane of a slot has entered its die's stage and is not yet performed at its home. -/
def LaneEntered (t : State) (k : Nat) (sl : Slot) (lane : Nat) : Prop :=
  ∃ w' sl', warpAt t k = some w' ∧ firstOf (fun x => x.id == sl.id) w'.slots = some sl' ∧
    ∀ b ∈ sl'.accs, b.lane = lane → b.entered = true ∧ b.done = false

/-- A lane access that its warp's own order lets be performed (R171, R271, R359). -/
def Due (s : State) (k : Nat) (w : Warp) (sl : Slot) (a : LaneAcc) : Prop :=
  laneRequest s k sl.id a.lane = some (w, sl, a) ∧ w.key = k ∧ sl.ret = false

/-- Between two byte memories an access has been performed at address x: a load or an atomic found the old value; a store's
bytes, or the value that an atomic writes unless it met poison, stand there; and every other byte is as before. -/
def BytesDone (m m' : Memory) (x : Nat) (a : LaneAcc) (v : Nat) (p : Bool) : Prop :=
  let old := leNat (rdBytes m x a.size)
  (a.op ≠ .store → v = old) ∧
    (if a.op = .load ∨ (a.op ≠ .store ∧ p = true) then ∀ b, rdByte m' b = rdByte m b
     else
      rdBytes m' x a.size = leBytes a.size (written a.op (8 * a.size) old a.data a.data2) ∧
        ∀ b, b < x ∨ x + a.size ≤ b → rdByte m' b = rdByte m b)

/-- Some 32-byte unit of a range is marked as poisoned (R39, R76). -/
def unitPois (m : SMap Bool) (x n : Nat) : Bool :=
  (List.range (n / 32 + 2)).any fun i => decide ((x / 32 + i) * 32 < x + n) && look m (x / 32 + i) false

/-- The poison that an access finds at address x of a byte memory: none for a store (R173, R273). -/
def foundPois (m : SMap Bool) (x : Nat) (a : LaneAcc) : Bool := if a.op = .store then false else unitPois m x a.size

/-- From memory m to m' the accesses of some lanes to a core's own scratchpad have been performed one after the other, none of
them on poison; they found the values of the list. -/
def Performed (core : Nat) : Memory → List LaneAcc → Memory → List Nat → Prop
  | m, [], m', vs => m' = m ∧ vs = []
  | m, a :: as, m', vs => ∃ x m1 v rest, a.loc = .scratch core x false ∧ BytesDone m m1 (scrKey core x) a v false ∧
      vs = v :: rest ∧ Performed core m1 as m' rest

/-- The lanes of an access that touches no poison and that no scoreboard entry stalls, on the core's own scratchpad. -/
def CleanLocal (s : State) (core : Nat) (op : AccOp) (a : LaneAcc) : Prop :=
  a.op = op ∧ a.done = false ∧ a.entered = false ∧ a.lane < 32 ∧ 0 < a.size ∧
    ∃ x, a.loc = .scratch core x false ∧ scrAnyPoison s core x a.size = false ∧
      sbStalls s core x (x + a.size) a.op.writes = false

/-- The bytes at their home (R47, R48). -/
def homeBytes (s : State) (pa n : Nat) : List Byte := (List.range n).map fun i => (homeByte s (pa + i)).1

/-! ## Vocabulary: the package's own machinery -/

/-- The set's control and table are x after, and no other set has changed. -/
def SetNow (s t : State) (i : Nat) (x : ISet) : Prop := setAtIdx t i = x ∧ ∀ j, j ≠ i → setAtIdx t j = setAtIdx s j

/-- A line's granule lies still in a live channel of a mapped region (R25, R33, R35). -/
def LineSettled (s : State) (l : Nat) : Prop :=
  lineMoving s l = false ∧ ∃ i c k, chanOf s (l * 128) = some (i, c, k) ∧ (setAtIdx s i).failed.contains c = false

/-- The device-memory bytes of [a, a + n) as the Cirque reads them. -/
def sysBytes (s : State) (a n : Nat) : List Byte := (sysRead s a n).1

/-- The lowest virtual-address bit that a level of a page table resolves, and the index that an address has there (R42). -/
def levelBit (lv : Nat) : Nat :=
  match lv with
  | 0 => 16
  | 1 => 21
  | 2 => 30
  | 3 => 39
  | _ => 48

def indexOf (va lv : Nat) : Nat := va / 2 ^ levelBit lv % (if lv = 0 then 32 else if lv = 4 then 256 else 512)

/-- The address that a page-table entry names (R43). -/
def pteBase (e : Nat) : Nat := e / 2 ^ 8 % 2 ^ 44 * 2 ^ 8

/-- An entry of a level is valid and not malformed (R43). -/
def GoodEntry (lv e : Nat) : Prop :=
  e % 2 = 1 ∧ e / 2 ^ 56 % 2 ^ 8 = 0 ∧ e / 2 ^ 5 % 4 ≠ 3 ∧
    if e / 2 % 2 = 1 then lv ≤ 2 ∧ pteBase e % 2 ^ levelBit lv = 0
    else 1 ≤ lv ∧ pteBase e % (if lv = 1 then 256 else 4096) = 0

/-- The entry of a level's table that an address selects: its address, and what a walker reads there with its poison. -/
def entryAddr (va lv tbl : Nat) : Nat := tbl + 8 * indexOf va lv

def entryRead (s : State) (va lv tbl : Nat) : Nat × Bool :=
  (leNat (sysRead s (entryAddr va lv tbl) 8).1, (sysRead s (entryAddr va lv tbl) 8).2)

/-- The walk of an address from the root reaches level lv: the tables of the levels are those of `tbl`, and each entry above lv
is a good one that names the next table (R42). -/
def WalkReaches (s : State) (ctx va lv : Nat) (tbl : Nat → Nat) : Prop :=
  tbl 4 = (ctxAt s ctx).ptRoot ∧ lv ≤ 4 ∧ ∀ n, lv < n → n ≤ 4 →
    present s (entryAddr va n (tbl n)) = true ∧ (entryRead s va n (tbl n)).2 = false ∧
      GoodEntry n (entryRead s va n (tbl n)).1 ∧ (entryRead s va n (tbl n)).1 / 2 % 2 = 0 ∧
      tbl (n - 1) = pteBase (entryRead s va n (tbl n)).1

/-- A leaf allows an access (R43, R45): P for a privileged context alone, W for writes and atomics, X for fetches. -/
def LeafAllows (e : Nat) (k : AccKind) (priv : Bool) : Prop :=
  (e / 2 ^ 4 % 2 = 1 → priv = true) ∧ (k = .write → e / 2 ^ 2 % 2 = 1) ∧ (k = .fetch → e / 2 ^ 3 % 2 = 1)

/-- The ce of a die reads 32 bytes at each of some addresses, one after the other: the states from one to the other, and
what is read with its poison (R282). -/
def CeReads (ctx d : Nat) : List Nat → State → List (List Byte × Bool) → State → Prop
  | [], s, l, t => l = [] ∧ t = s
  | a :: as, s, l, t => ∃ u b r pa pte, l = b :: r ∧ walkWaits s ctx a = false ∧
      sysTranslate s ctx a 1 .read true = .ok pa pte ∧
      (if (paKind pa).homed = true then
          ∃ v p, dieLoad s ctx d pa 32 (pteMt pte != 0) false true = some (u, v, p) ∧ b = (leBytes 32 v, p)
        else portFree s pa = true ∧ u = chargeOut s ctx pa 32 ∧ b = dieRead s d pa 32) ∧ CeReads ctx d as u r t

/-- What a collective operation makes of a result so far and one more element (R282). -/
def CeOne (op fmt r x q : Nat) : Prop :=
  let b := 8 * ceElem fmt
  if 5 ≤ fmt then q = if op = 1 then (eFadd (ceFlt fmt) ceMode r x 0).1 else (minMax (ceFlt fmt) ceMode (op == 3) r x).1
  else if op = 1 then q = (r + x) % 2 ^ b
  else
    let v := fun (a : Nat) => if fmt = 1 ∨ fmt = 3 then sext b a else (a : Int)
    (q = r ∨ q = x) ∧ (op = 2 → v q ≤ v r ∧ v q ≤ v x) ∧ (op = 3 → v r ≤ v q ∧ v x ≤ v q)

/-- Further elements combine, in their order, with a result so far (R282). -/
def CeFold (op fmt : Nat) : List Nat → Nat → Nat → Prop
  | [], r, y => y = r
  | x :: xs, r, y => ∃ q, CeOne op fmt r x q ∧ CeFold op fmt xs q y

/-- The elements of the sources combine, in ascending source index, to a result (R282). -/
def CeCombined (op fmt : Nat) (l : List Nat) (y : Nat) : Prop := ∃ r xs, l = r :: xs ∧ CeFold op fmt xs r y

/-! ## Vocabulary: frames -/

/-- The lane instructions of fixed latency whose sources and destination are registers (R193, R211), and NOP. -/
def registerForm (i : Instr) : Bool :=
  match i with
  | .iadd .. | .isub .. | .iadds .. | .isubs .. | .iaddi .. | .imul .. | .imulh .. | .imad .. | .imin .. | .imax ..
  | .iabs .. | .ineg .. | .and .. | .or .. | .xor .. | .andn .. | .andi .. | .ori .. | .xori .. | .shl .. | .shr ..
  | .sra .. | .rot .. | .shli .. | .shri .. | .srai .. | .roti .. | .popc .. | .clz .. | .ctz .. | .brev ..
  | .bfx .. | .bfxs .. | .bfi .. | .lea .. | .iseteq .. | .isetne .. | .isetlt .. | .isetle .. | .isetgt ..
  | .isetge .. | .itest .. | .sel .. | .mov .. | .movi .. | .mov16 .. | .zeroHalfword | .iadd16 .. | .isub16 ..
  | .and16 .. | .or16 .. | .xor16 .. | .shli16 .. | .shri16 .. | .movi16 .. | .iaddi16 .. | .fadd16 .. | .fmul16 ..
  | .fsub16 .. | .imul16 .. | .fadd .. | .fsub .. | .fmul .. | .ffma .. | .fmin .. | .fmax .. | .fabs .. | .fneg ..
  | .frnd .. | .fseteq .. | .fsetne .. | .fsetlt .. | .fsetle .. | .fsetgt .. | .fsetge .. | .fsetun .. | .fclass ..
  | .cvt .. | .f8pk .. | .f8unpk .. | .nop => true
  | _ => false

/-- The instruction has issued: the warp stands one position further in its run. -/
def Issued (w w' : Warp) : Prop := w'.run.pos = w.run.pos + 1

/-- Between s and t no byte that a warp can read has changed: memory as each die reads it and as it lies at home, the bytes
of other packages and of host memory, and the scratchpads. -/
def SameBytes (s t : State) : Prop :=
  (∀ d a, dieByte t d a = dieByte s d a) ∧ (∀ a, homeByte t a = homeByte s a) ∧
    (∀ a, rdByte t.mem.fabric a = rdByte s.mem.fabric a) ∧ (∀ a, rdByte t.mem.hostMem a = rdByte s.mem.hostMem a) ∧
    ∀ a, rdByte t.scr a = rdByte s.scr a

/-- Between s and t nothing has changed but one warp, the count of a cluster's allowance and the energy counters of a
context. -/
def OnlyWarp (s t : State) (k : Nat) : Prop :=
  t = { s with
    warps := t.warps, ctxs := t.ctxs
    power := { s.power with clusters := t.power.clusters } } ∧
    (∀ j, j ≠ k → warpAt t j = warpAt s j) ∧
    (∀ c, ctxAt t c = { ctxAt s c with energy := (ctxAt t c).energy }) ∧
    ∀ c, clusterAt t c = { clusterAt s c with cnt := (clusterAt t c).cnt }

end Sys2Proof.Claims

open Sys2Proof Sys2Proof.Machine Sys2Proof.Claims

/-! ## Integer lane instructions -/

/-- R194: the eleven arithmetic instructions complete with the table's e in every element of the active lanes; SAT is set
where clamp changes the value, and no other flag. -/
def Sys2Proof.Claims.IntegerArithmetic : Prop :=
  (∀ f : AluOp,
    AluClaim (.iadd f) f 8 false (fun x y _ => int f.t (x + y)) ∧
    AluClaim (.isub f) f 8 false (fun x y _ => int f.t ((x : Int) - y)) ∧
    AluClaim (.iadds f) f 8 false (fun x y _ => clampTo f.t (val f.t x + val f.t y)) ∧
    AluClaim (.isubs f) f 8 false (fun x y _ => clampTo f.t (val f.t x - val f.t y)) ∧
    AluClaim (.imul f) f 16 false (fun x y _ => int f.t (val f.t x * val f.t y)) ∧
    AluClaim (.imulh f) f 16 false (fun x y _ => int f.t (val f.t x * val f.t y / (2 ^ tyBits f.t : Nat))) ∧
    AluClaim (.imad f) f 16 true (fun x y w => int f.t (w + val f.t x * val f.t y)) ∧
    AluClaim (.imin f) f 8 false (fun x y _ => bits' (if val f.t x ≤ val f.t y then x else y)) ∧
    AluClaim (.imax f) f 8 false (fun x y _ => bits' (if val f.t y ≤ val f.t x then x else y))) ∧
  ∀ f : AluUn,
    UnClaim (.iabs f) f (fun x => int f.t (val f.t x).natAbs) ∧
    UnClaim (.ineg f) f (fun x => int f.t (-val f.t x))

/-- R195: the logic, select and move instructions complete with the table's e in every element of the active lanes. -/
def Sys2Proof.Claims.LogicSelectMove : Prop :=
  (∀ f : AluOp,
    AluClaim (.and f) f 8 false (fun x y _ => bits' (x &&& y)) ∧
    AluClaim (.or f) f 8 false (fun x y _ => bits' (x ||| y)) ∧
    AluClaim (.xor f) f 8 false (fun x y _ => bits' (x ^^^ y)) ∧
    AluClaim (.andn f) f 8 false (fun x y _ => bits' (x &&& (2 ^ tyBits f.t - 1 - y))) ∧
    AluClaim (.sel f) f 8 true (fun x y w => bits' ((w &&& x) ||| ((2 ^ tyBits f.t - 1 - w) &&& y)))) ∧
  ∀ f : AluUn, UnClaim (.mov f) f fun x => bits' x

/-- R196, R197: shifts and rotates, by an element of B or by the composed immediate. -/
def Sys2Proof.Claims.ShiftsAndRotates : Prop :=
  (∀ f : AluOp,
    AluClaim (.shl f) f 8 false (fun x q _ => shl f.t x q) ∧
    AluClaim (.shr f) f 8 false (fun x q _ => shr f.t x q) ∧
    AluClaim (.sra f) f 8 false (fun x q _ => sra f.t x q) ∧
    AluClaim (.rot f) f 8 false (fun x q _ => rot f.t x q)) ∧
  ∀ f : ShImm,
    ShiftImmClaim (.shli f) f (fun q x => shl f.t x q) ∧
    ShiftImmClaim (.shri f) f (fun q x => shr f.t x q) ∧
    ShiftImmClaim (.srai f) f (fun q x => sra f.t x q) ∧
    ShiftImmClaim (.roti f) f (fun q x => rot f.t x q)

/-- R198: bit counting. Each result is the number, or for BREV the element, that the table describes by its bits. -/
def Sys2Proof.Claims.BitCounting : Prop :=
  ∀ f : AluUn, ∃ popc clz ctz brev : Nat → Nat,
    UnClaim (.popc f) f (fun x => bits' (popc x)) ∧ UnClaim (.clz f) f (fun x => bits' (clz x)) ∧
    UnClaim (.ctz f) f (fun x => bits' (ctz x)) ∧ UnClaim (.brev f) f (fun x => bits' (brev x)) ∧
    ∀ x < 2 ^ tyBits f.t,
      popc x = ((List.range (tyBits f.t)).filter fun i => x.testBit i).length ∧
      (x = 0 → clz x = tyBits f.t ∧ ctz x = tyBits f.t) ∧
      (x ≠ 0 →
        clz x < tyBits f.t ∧ x.testBit (tyBits f.t - 1 - clz x) = true ∧
          (∀ i, tyBits f.t - 1 - clz x < i → x.testBit i = false) ∧
        x.testBit (ctz x) = true ∧ ∀ i < ctz x, x.testBit i = false) ∧
      ∀ i < tyBits f.t, (brev x).testBit (tyBits f.t - 1 - i) = x.testBit i

/-- R199: bit fields, with p = y[7:0], c′ = min(y[15:8], N) and m = 2^c′ − 1. -/
def Sys2Proof.Claims.BitFields : Prop :=
  ∀ f : AluOp,
    AluClaim (.bfx f) f 8 false (fun x y _ =>
      bits' (if y % 256 < tyBits f.t then x / 2 ^ (y % 256) % 2 ^ min (y / 256 % 256) (tyBits f.t) else 0)) ∧
    AluClaim (.bfxs f) f 8 false (fun x y _ =>
      if min (y / 256 % 256) (tyBits f.t) = 0 then bits' 0
      else int f.t (sext (min (y / 256 % 256) (tyBits f.t))
        (if y % 256 < tyBits f.t then x / 2 ^ (y % 256) % 2 ^ min (y / 256 % 256) (tyBits f.t) else 0))) ∧
    AluClaim (.bfi f) f 8 true (fun x y w =>
      if y % 256 < tyBits f.t then
        let m := 2 ^ min (y / 256 % 256) (tyBits f.t) - 1
        let field := m * 2 ^ (y % 256)
        bits' ((w ^^^ (w &&& field) ||| (x &&& m) * 2 ^ (y % 256)) % 2 ^ tyBits f.t)
      else bits' w)

/-- R200: LEA on each register of the group, whatever the type; the type gives the scale and the extension of the index. -/
def Sys2Proof.Claims.ElementAddress : Prop :=
  ∀ f : AluOp,
    LaneOp (.lea f) (aluShape f 8 false) f.d f.w.regs 64 (fun w => w.rd f.a f.w.regs (.int .s64))
      (fun w => w.rd f.b f.w.regs (.int .s64)) fun _ a b _ =>
        let idx : Int :=
          if tySize f.t = 8 then b else if tySigned f.t then sext 32 b else (b % 2 ^ 32 : Nat)
        (wrap 64 (a + idx * tySize f.t), 0)

/-- R201: the compares write a whole-element mask and set no flag. -/
def Sys2Proof.Claims.IntegerCompares : Prop :=
  ∀ f : AluOp,
    AluClaim (.iseteq f) f 8 false (fun x y _ => ones f.t (x == y)) ∧
    AluClaim (.isetne f) f 8 false (fun x y _ => ones f.t (x != y)) ∧
    AluClaim (.isetlt f) f 8 false (fun x y _ => ones f.t (decide (val f.t x < val f.t y))) ∧
    AluClaim (.isetle f) f 8 false (fun x y _ => ones f.t (decide (val f.t x ≤ val f.t y))) ∧
    AluClaim (.isetgt f) f 8 false (fun x y _ => ones f.t (decide (val f.t y < val f.t x))) ∧
    AluClaim (.isetge f) f 8 false (fun x y _ => ones f.t (decide (val f.t y ≤ val f.t x))) ∧
    AluClaim (.itest f) f 8 false (fun x y _ => ones f.t ((x &&& y) != 0))

/-- R202, R144: the immediate forms, with the composed immediate of zero, one or two LIMM words. -/
def Sys2Proof.Claims.ImmediateForms : Prop :=
  (∀ f : AluImm,
    ImmClaim (.iaddi f) f (fun x y => int f.t (x + y)) ∧
    ImmClaim (.andi f) f (fun x y => bits' (x &&& y)) ∧
    ImmClaim (.ori f) f (fun x y => bits' (x ||| y)) ∧
    ImmClaim (.xori f) f (fun x y => bits' (x ^^^ y))) ∧
  ∀ f : MovImm,
    LaneOp (.movi f) { size := 4, weight := 8, limm := true, uses := [dst f.d .w1] } f.d 1 (tyBits f.t) (fun _ => [])
      (fun w => immLanes w f.t f.imm) fun _ _ y _ => bits' y

/-- R146, R203: the integer 16-bit forms; the halfword 0x0000 has no effect (R147). -/
def Sys2Proof.Claims.ShortForms : Prop :=
  (∀ f : Short,
    LaneOp (.mov16 f) { size := 2, weight := 8, uses := [src (.v f.s) .w1, dst (.v f.d) .w1] } (.v f.d) 1
      (tyBits (shortTy f)) (fun w => w.rd (.v f.s) 1 (.int (shortTy f))) (fun _ => []) (fun _ x _ _ => bits' x) ∧
    ShortClaim (.iadd16 f) f 8 (.int (shortTy f)) (fun _ x y => int (shortTy f) (x + y)) ∧
    ShortClaim (.isub16 f) f 8 (.int (shortTy f)) (fun _ x y => int (shortTy f) ((x : Int) - y)) ∧
    ShortClaim (.and16 f) f 8 (.int (shortTy f)) (fun _ x y => bits' (x &&& y)) ∧
    ShortClaim (.or16 f) f 8 (.int (shortTy f)) (fun _ x y => bits' (x ||| y)) ∧
    ShortClaim (.xor16 f) f 8 (.int (shortTy f)) (fun _ x y => bits' (x ^^^ y)) ∧
    ShortClaim (.imul16 f) f 16 (.int (shortTy f))
      (fun _ x y => int (shortTy f) (val (shortTy f) x * val (shortTy f) y)) ∧
    ShortImmClaim (.shli16 f) f true (fun x _ => shl (shortTy f) x f.s.val) ∧
    ShortImmClaim (.shri16 f) f true (fun x _ => shr (shortTy f) x f.s.val) ∧
    ShortImmClaim (.movi16 f) f false (fun _ y => bits' y) ∧
    ShortImmClaim (.iaddi16 f) f true (fun x y => int (shortTy f) (x + y))) ∧
  ∀ s w, Ready s w { size := 2, weight := 8 } →
    exec .zeroHalfword s = .next (retire (setWarp s s.cur w) s.cur { size := 2, weight := 8 })

/-! ## Float lane instructions -/

/-- R213, R218: the float arithmetic instructions complete with the exact sum, difference, product or product-sum of the
operands as read (R119) rounded once under RM, and FRND with the integral value; the flags are those of R122. -/
def Sys2Proof.Claims.FloatArithmetic : Prop :=
  (∀ f : FltOp,
    FltClaim (.fadd f) f false (fun m x y _ => roundOp f.t m (addVal m.rm (operand f.t m x) (operand f.t m y))) ∧
    FltClaim (.fsub f) f false
      (fun m x y _ => roundOp f.t m (addVal m.rm (operand f.t m x) (operand f.t m y).negate)) ∧
    FltClaim (.fmul f) f false (fun m x y _ => roundOp f.t m (mulVal (operand f.t m x) (operand f.t m y))) ∧
    FltClaim (.ffma f) f true (fun m x y w =>
      let p := mulVal (operand f.t m x) (operand f.t m y)
      let r := addVal m.rm (operand f.t m w) p.1
      roundOp f.t m (r.1, p.2 ||| r.2))) ∧
  (∀ f : FltUn, FltUnClaim (.frnd f) f (eFrnd f.t)) ∧
  ∀ f : Short,
    ShortClaim (.fadd16 f) f 24 (.flt (shortFlt f)) (fun w x y =>
      roundOp (shortFlt f) w.mode
        (addVal w.mode.rm (operand (shortFlt f) w.mode x) (operand (shortFlt f) w.mode y))) ∧
    ShortClaim (.fsub16 f) f 24 (.flt (shortFlt f)) (fun w x y =>
      roundOp (shortFlt f) w.mode
        (addVal w.mode.rm (operand (shortFlt f) w.mode x) (operand (shortFlt f) w.mode y).negate)) ∧
    ShortClaim (.fmul16 f) f 24 (.flt (shortFlt f)) (fun w x y =>
      roundOp (shortFlt f) w.mode (mulVal (operand (shortFlt f) w.mode x) (operand (shortFlt f) w.mode y)))

/-- R118 to R120, R122, R123, R213, R218: rounding, and the exact sums and products that it is applied to. A finite value
rounds to the multiple of its last place that the mode names, with overflow, FTZ and the flags as the rules say; a zero and an
infinity keep their sign, and a NaN becomes the canonical one. Sums and products of finite values are exact, with the sign of
R213 where they are zero. FRND gives the integral value of its operand under RM, with its sign, and NX where they differ. -/
def Sys2Proof.Claims.RoundedResults : Prop :=
  (∀ (t : FltTy) (rm : RMode) (ftz sat neg : Bool),
    let f := fmtOf t
    let s := sat && !f.ieee
    (∀ m e, 0 < m → RoundsTo f rm ftz s neg (ratOf (.fin neg m e)) (roundTo f rm ftz sat (.fin neg m e))) ∧
    (∀ e, roundTo f rm ftz sat (.fin neg 0 e) = (signed f neg 0, 0)) ∧
    roundTo f rm ftz sat (.inf neg) = (if s then (signed f neg (maxCode f), 0)
      else if t = .e4 then (signed f neg (canonNan f), fNV) else (signed f neg (infCode f), 0)) ∧
    ∀ sig, roundTo f rm ftz sat (.nan neg sig) =
      if t = .e4 ∧ s = false then (signed f neg (canonNan f), fNV) else (canonNan f, flagIf sig fNV)) ∧
  (∀ rm n m e n' m' e', ∃ z k i, addVal rm (.fin n m e) (.fin n' m' e') = (.fin z k i, 0) ∧
    ratOf (.fin z k i) = ratOf (.fin n m e) + ratOf (.fin n' m' e') ∧
    (k = 0 → z = if m = 0 ∧ m' = 0 ∧ n = n' then n else rm == .rd)) ∧
  (∀ n m e n' m' e', ∃ k i, mulVal (.fin n m e) (.fin n' m' e') = (.fin (n != n') k i, 0) ∧
    ratOf (.fin (n != n') k i) = ratOf (.fin n m e) * ratOf (.fin n' m' e')) ∧
  ∀ (t : FltTy) (mode : NumMode) (x : Nat),
    let r := eFrnd t mode x 0 0
    (∀ n m e, operand t mode x = .fin n m e → ∃ (y : Int) (k : Nat) (i : Int), Nearest mode.rm 1 (ratOf (.fin n m e)) y ∧
      unpack (fmtOf t) false r.1 = .fin n k i ∧ ratOf (.fin n k i) = (y : Rat) ∧
      r.2 = flagIf (decide ((y : Rat) ≠ ratOf (.fin n m e))) fNX) ∧
    (∀ n, operand t mode x = .inf n → r = (x, 0)) ∧
    ∀ n sig, operand t mode x = .nan n sig → r = (canonNan (fmtOf t), flagIf sig fNV)

/-- R215: FMIN and FMAX return the other operand beside a NaN, canonical NaN of two, the lesser or greater otherwise with
−0 below +0, and NV for a signalling NaN; FABS and FNEG change the sign bit only and set no flag. -/
def Sys2Proof.Claims.FloatMinMaxSign : Prop :=
  (∀ f : FltOp, ∃ lesser greater : NumMode → Nat → Nat → Nat,
    (∀ m x y,
      let a := operand f.t m x
      let b := operand f.t m y
      (lesser m x y = if a.isNan && b.isNan then canonNan (fmtOf f.t) else if a.isNan then asRead f.t m y
        else if b.isNan then asRead f.t m x else if strictLt b a then asRead f.t m y else asRead f.t m x) ∧
      greater m x y = if a.isNan && b.isNan then canonNan (fmtOf f.t) else if a.isNan then asRead f.t m y
        else if b.isNan then asRead f.t m x else if strictLt a b then asRead f.t m y else asRead f.t m x) ∧
    FltClaim (.fmin f) f false
      (fun m x y _ => (lesser m x y, flagIf ((operand f.t m x).isSig || (operand f.t m y).isSig) fNV)) ∧
    FltClaim (.fmax f) f false
      (fun m x y _ => (greater m x y, flagIf ((operand f.t m x).isSig || (operand f.t m y).isSig) fNV))) ∧
  ∀ f : FltUn,
    FltUnClaim (.fabs f) f (fun _ x _ _ => (x % 2 ^ (fltBits f.t - 1), 0)) ∧
    FltUnClaim (.fneg f) f (fun _ x _ _ => (x ^^^ 2 ^ (fltBits f.t - 1), 0))

/-- R219, R220: the float compares write whole-element masks, with NV as the table says, and FCLASS the class code. -/
def Sys2Proof.Claims.FloatCompares : Prop :=
  (∀ f : FltOp, ∃ cmp : (quiet un : Bool) → (Ordering → Bool) → NumMode → ElemOp,
    (∀ q un p m x y w,
      let a := operand f.t m x
      let b := operand f.t m y
      cmp q un p m x y w =
        (if (match cmpVal a b with
             | some o => p o
             | none => un) then 2 ^ fltBits f.t - 1 else 0,
          flagIf (a.isSig || b.isSig || (q && (a.isNan || b.isNan))) fNV)) ∧
    FltClaim (.fseteq f) f false (cmp false false (· == .eq)) ∧
    FltClaim (.fsetne f) f false (cmp false true (· != .eq)) ∧
    FltClaim (.fsetlt f) f false (cmp true false (· == .lt)) ∧
    FltClaim (.fsetle f) f false (cmp true false (· != .gt)) ∧
    FltClaim (.fsetgt f) f false (cmp true false (· == .gt)) ∧
    FltClaim (.fsetge f) f false (cmp true false (· != .lt)) ∧
    FltClaim (.fsetun f) f false (cmp false true (fun _ => false))) ∧
  ∀ f : FltUn, FltUnClaim (.fclass f) f fun _ x _ _ =>
    (match unpack (fmtOf f.t) false x with
     | .nan _ sig => if sig then 8 else 9
     | .inf n => if n then 0 else 7
     | .fin n m _ =>
       if m = 0 then if n then 3 else 4
       else if m < 2 ^ (fmtOf f.t).fb then if n then 2 else 5
       else if n then 1 else 6, 0)

/-- R211, R216: the seven functions take a slot whose value holds the function of every element of the active lanes. -/
def Sys2Proof.Claims.FloatFunctions : Prop :=
  ∀ f : FltUn,
    FnClaim (.frcp f) f .rcp ∧ FnClaim (.frsq f) f .rsq ∧ FnClaim (.fsqrt f) f .sqrt ∧ FnClaim (.fexp2 f) f .exp2 ∧
    FnClaim (.flog2 f) f .log2 ∧ FnClaim (.fsin f) f .sin ∧ FnClaim (.fcos f) f .cos

/-- R217: the functions of infinities, zeros and negative values, for each type and mode. -/
def Sys2Proof.Claims.FunctionSpecialOperands : Prop :=
  ∀ t ∈ [FltTy.h, .bf, .f], ∀ m : NumMode,
    let fm := fmtOf t
    let inf := infCode fm
    let ninf := signed fm true inf
    let nz := signed fm true 0
    let nan := canonNan fm
    let one := signed fm false ((2 ^ (fltBits t - 2 - fm.fb) - 1) * 2 ^ fm.fb)
    let fn := fun k x => eFn k t m x 0 0
    (fn .rcp inf = (0, 0) ∧ fn .rsq inf = (0, 0) ∧ fn .sqrt inf = (inf, 0) ∧ fn .exp2 inf = (inf, 0) ∧
      fn .log2 inf = (inf, 0) ∧ fn .sin inf = (nan, fNV) ∧ fn .cos inf = (nan, fNV)) ∧
    (fn .rcp ninf = (nz, 0) ∧ fn .rsq ninf = (nan, fNV) ∧ fn .sqrt ninf = (nan, fNV) ∧ fn .exp2 ninf = (0, 0) ∧
      fn .log2 ninf = (nan, fNV) ∧ fn .sin ninf = (nan, fNV) ∧ fn .cos ninf = (nan, fNV)) ∧
    (fn .rcp 0 = (inf, fDZ) ∧ fn .rsq 0 = (inf, fDZ) ∧ fn .sqrt 0 = (0, 0) ∧ fn .exp2 0 = (one, 0) ∧
      fn .log2 0 = (ninf, fDZ) ∧ fn .sin 0 = (0, 0) ∧ fn .cos 0 = (one, 0)) ∧
    (fn .rcp nz = (ninf, fDZ) ∧ fn .rsq nz = (ninf, fDZ) ∧ fn .sqrt nz = (nz, 0) ∧ fn .exp2 nz = (one, 0) ∧
      fn .log2 nz = (ninf, fDZ) ∧ fn .sin nz = (nz, 0) ∧ fn .cos nz = (one, 0)) ∧
    ∀ k, fn k nan = (nan, 0)

/-- R216: FRCP, FRSQ and FSQRT of a finite value that is not zero are the correctly rounded results of type f; FEXP2 of an
integer and FLOG2 of a power of two are exact where the result is representable, and between two of them they lie between the
results, within 2 ulp, with which the bounds of R216 agree; FSIN and FCOS of a value beyond 2^15 lie in [−1, 1]. The result
of each type is that of type f on the operand's value, rounded with RNE. -/
def Sys2Proof.Claims.RoundedFunctions : Prop :=
  (∀ n m e, 0 < m →
    let x := ratOf (.fin n m e)
    let val := fun (k : Fn) => ratOf (f32Val (fnF32 k (.fin n m e)).1)
    let finite := fun (k : Fn) => ∃ n' m' e', f32Val (fnF32 k (.fin n m e)).1 = .fin n' m' e'
    RoundsTo (fmtOf .f) .rne false false n (1 / x) (fnF32 .rcp (.fin n m e)) ∧
    (n = false → (-149 : Int) ≤ e → x < (2 : Rat) ^ (128 : Int) →
      (∃ (q : Int) (k : Nat), val .sqrt = (k : Rat) * (2 : Rat) ^ q ∧ (2 : Rat) ^ (2 * (q + 23)) ≤ x ∧
        x < (2 : Rat) ^ (2 * (q + 24)) ∧ (2 * (k : Rat) - 1) ^ 2 * (2 : Rat) ^ (2 * q) ≤ 4 * x ∧
        4 * x ≤ (2 * (k : Rat) + 1) ^ 2 * (2 : Rat) ^ (2 * q) ∧
        (fnF32 .sqrt (.fin n m e)).2 = flagIf (decide (val .sqrt * val .sqrt ≠ x)) fNX) ∧
      (∃ (q : Int) (k : Nat), val .rsq = (k : Rat) * (2 : Rat) ^ q ∧ x * (2 : Rat) ^ (2 * (q + 23)) ≤ 1 ∧
        1 < x * (2 : Rat) ^ (2 * (q + 24)) ∧ (2 * (k : Rat) - 1) ^ 2 * (2 : Rat) ^ (2 * q) * x ≤ 4 ∧
        4 ≤ (2 * (k : Rat) + 1) ^ 2 * (2 : Rat) ^ (2 * q) * x ∧
        (fnF32 .rsq (.fin n m e)).2 = flagIf (decide (val .rsq * val .rsq * x ≠ 1)) fNX)) ∧
    (∀ k : Int, x = (k : Rat) → -149 ≤ k → k ≤ 127 →
      finite .exp2 ∧ val .exp2 = (2 : Rat) ^ k ∧ (fnF32 .exp2 (.fin n m e)).2 = 0) ∧
    (∀ k : Int, (k : Rat) ≤ x → x < (k : Rat) + 1 → -126 ≤ k → k < 127 → finite .exp2 ∧
      (2 : Rat) ^ k - (2 : Rat) ^ (k - 22) ≤ val .exp2 ∧ val .exp2 ≤ (2 : Rat) ^ (k + 1) + (2 : Rat) ^ (k - 22)) ∧
    (∀ k : Int, (2 : Rat) ^ k ≤ x → x < (2 : Rat) ^ (k + 1) → -149 ≤ k → k ≤ 127 → finite .log2 ∧
      (x = (2 : Rat) ^ k → val .log2 = (k : Rat) ∧ (fnF32 .log2 (.fin n m e)).2 = 0) ∧
      (k : Rat) - (2 : Rat) ^ (-15 : Int) ≤ val .log2 ∧ val .log2 ≤ (k : Rat) + 1 + (2 : Rat) ^ (-15 : Int)) ∧
    ((2 : Rat) ^ (15 : Int) < x.abs → ∀ k ∈ [Fn.sin, .cos], finite k ∧ -1 ≤ val k ∧ val k ≤ 1)) ∧
  ∀ k, ∀ t ∈ [FltTy.h, .bf, .f], ∀ (mode : NumMode) x,
    let r := (fnF32 k (operand t mode x)).1
    (f32Val r).isNan = false → (eFn k t mode x 0 0).1 = (roundTo (fmtOf t) .rne mode.ftz false (f32Val r)).1

/-- R123, R222: one element of a conversion. An integer becomes an integer of the other width by truncation or extension; an
integer or a float rounds to a float of another type under the instruction's mode; a float becomes the nearest integer in
range, with NX for a fraction discarded, and beyond the range or from an infinity the type's bound with NV, from a NaN 0
with NV. It takes the model's reading of log 15. -/
def Sys2Proof.Claims.ConvertedValues : Prop :=
  ∀ (rm : RMode) (sat ftz : Bool) (x : Nat),
    (∀ a b : IntTy, convert (.int a) (.int b) rm sat ftz x = (wrap (tyBits b) (val a x), 0)) ∧
    (∀ (a : IntTy) (t : FltTy),
      let r := convert (.int a) (.flt t) rm sat ftz x
      (val a x = 0 → r = (0, 0)) ∧
      (val a x ≠ 0 →
        RoundsTo (fmtOf t) rm false (sat && !(fmtOf t).ieee) (decide (val a x < 0)) ((val a x : Int) : Rat) r)) ∧
    (∀ (t : FltTy) (a : IntTy),
      let r := convert (.flt t) (.int a) rm sat ftz x
      match unpack (fmtOf t) false x with
      | .nan _ _ => r = (0, fNV)
      | .inf n => r = (wrap (tyBits a) (if n then tyMin a else tyMax a), fNV)
      | .fin n m e => ∃ y : Int, Nearest rm 1 (ratOf (.fin n m e)) y ∧
          r = if tyMax a < y then (wrap (tyBits a) (tyMax a), fNV)
            else if y < tyMin a then (wrap (tyBits a) (tyMin a), fNV)
            else (wrap (tyBits a) y, flagIf (decide ((y : Rat) ≠ ratOf (.fin n m e))) fNX)) ∧
    ∀ s t : FltTy,
      let z := ftz && (fmtOf s).ieee && (fmtOf t).ieee
      let r := convert (.flt s) (.flt t) rm sat ftz x
      (s ≠ t → ∀ n m e, unpack (fmtOf s) z x = .fin n m e →
        (m = 0 → r = (signed (fmtOf t) n 0, 0)) ∧
        (0 < m → RoundsTo (fmtOf t) rm z (sat && !(fmtOf t).ieee) n (ratOf (.fin n m e)) r)) ∧
      (s ≠ t → (unpack (fmtOf s) z x).isNan = true ∨ (unpack (fmtOf s) z x).isInf = true →
        r = roundTo (fmtOf t) rm z sat (unpack (fmtOf s) z x)) ∧
      (s = t → ∀ n sig, unpack (fmtOf s) false x = .nan n sig → r = (canonNan (fmtOf s), flagIf sig fNV)) ∧
      (s = t → (unpack (fmtOf s) false x).isNan = false → r.2 = 0 ∧ (z = false → r.1 = x) ∧
        (z = true → unpack (fmtOf s) false r.1 = unpack (fmtOf s) true x ∨ (unpack (fmtOf s) true x).isZero = true ∧
          r.1 % 2 ^ (fltBits s - 1) = 0))

/-- R222 to R224: CVT converts the elements that fit both types and writes the rest of the group zero; F8PK packs four BF16
elements of A and four of B with saturation; F8UNPK widens four FP8 elements to BF16. -/
def Sys2Proof.Claims.Conversions : Prop :=
  (∀ f : CvtOp,
    let g := f.w.regs
    let m : Shape :=
      { size := 4, weight := (if isD f.src || isD f.dst then 96 else 24) * g, uses := [src f.a f.w, dst f.d f.w] }
    let n := 8 * g / max (numSize f.src) (numSize f.dst)
    ∀ s w, Ready s w m → DestHere w f.d g →
      ∃ w' val, exec (.cvt f) s = .next (retire (setWarp s s.cur w') s.cur m) ∧ Resulted w w' f.d g val ∧
        (∀ l < 32, inMask w.exec l = true → val l < 2 ^ (n * numBits f.dst) ∧
          ∀ k < n, elem (numBits f.dst) (val l) k =
            (convert f.src f.dst f.rm f.sat (aflagFtz w.aflags)
              (elem (numBits f.src) ((w.rd f.a g f.src).getD l 0) k)).1 % 2 ^ numBits f.dst) ∧
        ∀ j, w'.aflags.getLsbD j = true ↔ w.aflags.getLsbD j = true ∨
          ∃ l < 32, inMask w.exec l = true ∧ ∃ k < n,
            (convert f.src f.dst f.rm f.sat (aflagFtz w.aflags)
              (elem (numBits f.src) ((w.rd f.a g f.src).getD l 0) k)).2.getLsbD j = true) ∧
  (∀ f : F8PkOp,
    let m : Shape := { size := 4, weight := 24, uses := [src f.a .w1, src f.b .w1, dst f.d .w1] }
    let x := fun (w : Warp) l k =>
      elem 16 ((w.rd (if k < 4 then f.a else f.b) 1 (.flt .bf)).getD l 0) (k % 4)
    let r := fun (w : Warp) l k =>
      roundTo (fmtOf (if f.e5 then .e5 else .e4)) (aflagRm w.aflags) false true (unpack (fmtOf .bf) false (x w l k))
    ∀ s w, Ready s w m → DestHere w f.d 1 →
      ∃ w' val, exec (.f8pk f) s = .next (retire (setWarp s s.cur w') s.cur m) ∧ Resulted w w' f.d 1 val ∧
        (∀ l < 32, inMask w.exec l = true → ∀ k < 8, elem 8 (val l) k = (r w l k).1 % 2 ^ 8) ∧
        ∀ j, w'.aflags.getLsbD j = true ↔ w.aflags.getLsbD j = true ∨
          ∃ l < 32, inMask w.exec l = true ∧ ∃ k < 8, (r w l k).2.getLsbD j = true) ∧
  ∀ f : F8UnpkOp,
    let m : Shape := { size := 4, weight := 24, uses := [src f.a .w1, dst f.d .w1] }
    let t : FltTy := if f.e5 then .e5 else .e4
    ∀ s w, Ready s w m → DestHere w f.d 1 →
      ∃ w' val, exec (.f8unpk f) s = .next (retire (setWarp s s.cur w') s.cur m) ∧ Resulted w w' f.d 1 val ∧
        w'.aflags = w.aflags ∧
        ∀ l < 32, inMask w.exec l = true → ∀ k < 4,
          elem 16 (val l) k =
            (roundTo (fmtOf .bf) .rne false false (unpack (fmtOf t) false
              (elem 8 ((w.rd f.a 1 (.flt t)).getD l 0) (k + if f.h then 4 else 0)))).1 % 2 ^ 16

/-- R225 to R227: SEPK encodes the FP32 values of the active lanes, +0 for the others, as one block, and writes its image
into those of lanes 0 to 4 that are active; SEUNPK reads the image from lanes 0 to 4 and gives each active lane its
element's value, or the canonical NaN with SN from a NaN block. -/
def Sys2Proof.Claims.BlockPacking : Prop :=
  (∀ f : SeOp,
    let m : Shape :=
      { size := 4, long := true, weight := 48, uses := [src f.a .w1, { dst f.d .w1 with below := 5 }] }
    let d := fun (w : Warp) => if w.exec &&& 0x1F = 0 then SlotDst.none else w.slotDst f.d 1
    ∀ s w, Ready s w m →
      (w.exec = 0 → exec (.sepk f) s = .next (retire s s.cur m)) ∧
      (w.exec ≠ 0 → ∃ vals fl w',
        exec (.sepk f) s = .next (retire (setWarp s s.cur w') s.cur m) ∧
        w' = { w with
          nextSlot := w.nextSlot + 1
          run := (w.addSlot .relaxed .warp (d w) (.value vals fl)).run
          slots := w.slots ++ [
            { id := w.nextSlot, run := w.runNo, idx := w.run.taken, pos := w.run.pos, ord := .relaxed, scope := .warp
              dst := d w, mask := w.exec &&& 0x1F, body := .value vals fl, ret := false }] } ∧
        (∀ l < 4, vals.getD l 0 =
          (sePack f.m (aflagRm w.aflags) ((List.range 32).map fun i => f32Val
            (if inMask w.exec i then (w.rd f.a 1 (.flt .f)).getD i 0 % 2 ^ 32 else 0))).1.plane
              / 2 ^ (64 * l) % 2 ^ 64) ∧
        vals.getD 4 0 =
          (sePack f.m (aflagRm w.aflags) ((List.range 32).map fun i => f32Val
            (if inMask w.exec i then (w.rd f.a 1 (.flt .f)).getD i 0 % 2 ^ 32 else 0))).1.scale % 2 ^ 12 ∧
        fl = (sePack f.m (aflagRm w.aflags) ((List.range 32).map fun i => f32Val
            (if inMask w.exec i then (w.rd f.a 1 (.flt .f)).getD i 0 % 2 ^ 32 else 0))).2)) ∧
  ∀ f : SeOp,
    let m : Shape :=
      { size := 4, long := true, weight := 48, uses := [src f.a .w1, dst f.d .w1], lanes := fun _ => 0x1F }
    let b := fun (w : Warp) => seFromLanes f.m fun l => (w.rd f.a 1 (.flt .f)).getD l 0
    ∀ s w, Ready s w m →
      (w.exec = 0 → exec (.seunpk f) s = .next (retire s s.cur m)) ∧
      (w.exec ≠ 0 → ∃ vals fl,
        exec (.seunpk f) s =
          .next (retire (setWarp s s.cur (w.addSlot .relaxed .warp (w.slotDst f.d 1) (.value vals fl))) s.cur m) ∧
        fl = (if (b w).isNan then fSN else 0) ∧
        ∀ l < 32, vals.getD l 0 = if (b w).isNan then 0x7FC00000 else (rneF32 (seValue f.m (b w) l)).1)

/-! ## Cross-lane instructions -/

/-- R229: the shuffles. -/
def Sys2Proof.Claims.Shuffles : Prop :=
  ∀ f : AluOp,
    ShuffleClaim (.shfl f) f (fun size _ y => y % size) ∧
    ShuffleClaim (.shflx f) f (fun size i y => i ^^^ (y % size)) ∧
    ShuffleClaim (.shflu f) f (fun _ i y => if (i : Int) - y < 0 then i else i - y) ∧
    ShuffleClaim (.shfld f) f (fun size i y => if size ≤ i + y then i else i + y)

/-- R230, R231: the votes, BALLOT and MATCH. -/
def Sys2Proof.Claims.Votes : Prop :=
  ∀ f : AluUn,
    let all := 2 ^ (64 * f.w.regs) - 1
    VoteClaim (.vany f) f (fun w g _ => if (List.range 32).any (votes w g) then all else 0) ∧
    VoteClaim (.vall f) f (fun w g _ => if (List.range 32).all (fun l => !inMask w.exec l || g l != 0) then all else 0) ∧
    VoteClaim (.vuni f) f (fun w g _ =>
      if (List.range 32).all (fun l => (List.range 32).all fun k =>
        !inMask w.exec l || !inMask w.exec k || g l == g k) then all else 0) ∧
    VoteClaim (.ballot f) f (fun w g _ => laneSum (votes w g)) ∧
    VoteClaim (.matchv f) f (fun w g l => laneSum fun k => inMask w.exec k && g k == g l)

/-- R131 to R133: SCAN gives element i the span [0, i], SCANX the span [0, i − 1] and element 0 the identity, RED every
element the root. -/
def Sys2Proof.Claims.Reductions : Prop :=
  ∀ f : RedOp,
    ReduceClaim (.scan f) f (fun op lv e => spanReduce op lv 0 e) ∧
    ReduceClaim (.scanx f) f (fun op lv e => if e = 0 then (none, 0) else spanReduce op lv 0 (e - 1)) ∧
    ReduceClaim (.red f) f (fun _ lv _ => (lv.getLastD []).headD (none, 0))

/-- R234, R235: SEGRED gives each element its segment's sum; CMPRS packs the selected elements of A into the active
positions in order, with zeros after them; EXPND spreads the elements of A over the selected positions, with zeros
between. -/
def Sys2Proof.Claims.SegmentsAndPacking : Prop :=
  (∀ f : SegOp,
    let t := segTy f.t
    let n := 32 * perLane t 1
    let starts := fun (w : Warp) i => i = 0 ∨ ((w.rd64 f.b).getD ((lowest w.exec).getD 0) 0).testBit i = true
    let node := fun (w : Warp) a b =>
      spanReduce (redOp .add t w.mode)
        (treeLevels (redOp .add t w.mode) (redHeight t 1) (redLeaves t 1 w.exec (w.rd f.a 1 t))) a b
    ∀ s w, Ready s w (xlShape .w1 [src f.a .w1, src f.b .w1] f.d) →
      (w.exec = 0 → exec (.segred f) s = .next (retire s s.cur (xlShape .w1 [src f.a .w1, src f.b .w1] f.d))) ∧
      (w.exec ≠ 0 → ∃ vals fl,
        exec (.segred f) s =
          .next (retire (setWarp s s.cur (w.addSlot .relaxed .warp (w.slotDst f.d 1) (.value vals fl))) s.cur
            (xlShape .w1 [src f.a .w1, src f.b .w1] f.d)) ∧
        ∀ e < n, inMask w.exec (e / perLane t 1) = true → ∀ a b, a ≤ e → e ≤ b → b < n →
          starts w a → (∀ i, a < i → i ≤ b → ¬ starts w i) → (b + 1 = n ∨ starts w (b + 1)) →
          flatElem t 1 vals e = ((node w a b).1.getD 0) % 2 ^ numBits t)) ∧
  ∀ f : AluOp,
    let t := NumTy.int f.t
    let g := f.w.regs
    let n := 32 * perLane t g
    let m := xlShape f.w [src f.a f.w, src f.b f.w] f.d
    let x := fun (w : Warp) e => flatElem t g (w.rd f.a g t) e
    SlotOp (.cmprs f) m f.d g t
      (fun w e => (((selectedBelow w f n)[(activeBelow w f e).length]?).map (x w)).getD 0) noFlag ∧
    SlotOp (.expnd f) m f.d g t
      (fun w e =>
        if flatElem t g (w.rd f.b g t) e != 0 then
          (((activeBelow w f n)[(selectedBelow w f e).length]?).map (x w)).getD 0
        else 0) noFlag

/-! ## Control -/

/-- R298 to R302: BRA continues at its target; BRC at its target or at the fall-through, as its condition over the active
lanes says; BRX as its lanes divide, with a PATH entry for those not taken. -/
def Obligations.Branches : Prop :=
  (∀ off, WarpClaim (.bra off) (ctShape []) always fun _ w => contAt w (rel w 22 off.toNat)) ∧
  (∀ off a c s w, Ready s w (ctShape [src a .w1]) → ∃ taken : Bool,
    exec (.brc off a c) s =
      .next (retire (setWarp s s.cur (contAt w (if taken then rel w 16 off.toNat else thru w))) s.cur
        (ctShape [src a .w1])) ∧
    (taken = true ↔ match c with
      | .any => ∃ l, active w l ∧ holds w a false l
      | .all => ∀ l, active w l → holds w a false l
      | .none => ∀ l, active w l → ¬ holds w a false l
      | .nall => ∃ l, active w l ∧ ¬ holds w a false l)) ∧
  ∀ off a z s w, Ready s w (ctShape [src a .w1]) →
    ((∀ l, active w l → ¬ holds w a z l) →
      exec (.brx off a z) s = .next (retire (setWarp s s.cur (contAt w (thru w))) s.cur (ctShape [src a .w1]))) ∧
    ((∃ l, active w l ∧ holds w a z l) → (∀ l, active w l → holds w a z l) →
      exec (.brx off a z) s =
        .next (retire (setWarp s s.cur (contAt w (rel w 16 off.toNat))) s.cur (ctShape [src a .w1]))) ∧
    ∀ t n, IsMask t (fun l => active w l ∧ holds w a z l) → IsMask n (fun l => active w l ∧ ¬ holds w a z l) →
      t ≠ 0 → n ≠ 0 → ∀ s' w', Pushed s w { kind := .path, pc := thru w, mask := n, tm := false } s' w' →
        exec (.brx off a z) s =
          .next (retire (setWarp s' s.cur (contAt { w' with exec := t } (rel w 16 off.toNat))) s.cur
            (ctShape [src a .w1]))

/-- R303: PJ pushes a JOIN entry for its target and exec, and continues at the fall-through. -/
def Obligations.PushJoin : Prop :=
  ∀ off s w s' w', Ready s w (ctShape []) →
    Pushed s w { kind := .join, pc := rel w 22 off.toNat, mask := w.exec, tm := false } s' w' →
    exec (.pj off) s = .next (retire (setWarp s' s.cur (contAt w' (thru w))) s.cur (ctShape []))

/-- R305: CALL and CALLR push a CALL entry for the fall-through and continue at their target, JMPR continues at the
address in A, and a handler that leaves so returns elsewhere (the model's reading of R383, log 37). -/
def Sys2Proof.Claims.CallsAndJumps : Prop :=
  (∀ off s w s' w', Ready s w (ctShape []) →
    Pushed s w { kind := .call, pc := thru w, mask := w.exec, tm := false } s' w' →
    exec (.call off) s = .next (retire (setWarp s' s.cur (contAt w' (rel w 22 off.toNat))) s.cur (ctShape []))) ∧
  (∀ a s w s' w' v, Ready s w (ctShape [src a .w1] uniMask) → Uniform w a v → v % 2 = 0 →
    Pushed s w { kind := .call, pc := thru w, mask := w.exec, tm := false } s' w' →
    exec (.callr a) s = .next (retire (setWarp s' s.cur (contAt w' v)) s.cur (ctShape [src a .w1] uniMask))) ∧
  ∀ a s w v, Ready s w (ctShape [src a .w1] uniMask) → Uniform w a v → v % 2 = 0 →
    exec (.jmpr a) s =
      .next (retire (setWarp s s.cur { contAt w v with progHeld := false }) s.cur (ctShape [src a .w1] uniMask))

/-- R304, R306, R307: JOIN pops an entry and resolves the empty mask; BRK takes lanes out of exec and out of the PATH
entries above the topmost JOIN, those in hardware first and the spilled ones if the JOIN is spilled, and resolves the
empty mask; EXIT takes the
active lanes out of the live mask and ends the warp when none is left. -/
def Sys2Proof.Claims.JoinBreakExit : Prop :=
  (∀ s w e s1 w1 s2 w2, Ready s w (ctShape []) → w.stack.length ≤ 16 → Popped s w e s1 w1 →
    Resolved s1 (resumed w1 e) s2 w2 →
    exec .join s = .next (retire (setWarp s2 s.cur (rejoined w2)) s.cur (ctShape []))) ∧
  (∀ a z s w b s' stack' s2 w2, Ready s w { ctShape [src a .w1] with check := brkCheck, waits := brkWaits } →
    w.stack.length ≤ 16 →
    IsMask b (fun l => active w l ∧ holds w a z l) →
    (∃ paths rest, w.stack = paths ++ rest ∧ (∀ e ∈ paths, e.kind = .path) ∧
      stack' = paths.map (fun e => { e with mask := e.mask &&& ~~~b }) ++ rest ∧
      ((s' = s ∧ ∃ j l, rest = j :: l ∧ j.kind = .join) ∨
        (rest = [] ∧ ∃ l, spilledPaths s w w.spilled = .inl l ∧ rewriteSpilled (spilledServed s w l) w b l = .inl s'))) →
    Resolved s' (contAt { w with stack := stack', exec := w.exec &&& ~~~b } (thru w)) s2 w2 →
      exec (.brk a z) s =
        .next (retire (setWarp s2 s.cur w2) s.cur { ctShape [src a .w1] with check := brkCheck, waits := brkWaits })) ∧
  ∀ s w, Ready s w (ctShape []) → w.stack.length ≤ 16 → w.sample = none →
    (w.exec = 0 → exec .exit s = .next (retire (setWarp s s.cur (contAt w (thru w))) s.cur (ctShape []))) ∧
    (∀ s2 w2, w.exec ≠ 0 → w.live &&& ~~~w.exec ≠ 0 →
      Resolved s (contAt { w with live := w.live &&& ~~~w.exec, exec := 0 } (thru w)) s2 w2 →
      exec .exit s = .next (retire (setWarp s2 s.cur w2) s.cur (ctShape []))) ∧
    (w.exec ≠ 0 → w.live &&& ~~~w.exec = 0 →
      exec .exit s = .next (retire (setWarp s s.cur
        { w with live := 0, exec := 0, st := .ended, stack := [], spilled := 0, shadow := none, back := none,
                 pend := none, code := none }) s.cur (ctShape [])))

/-- R308: MSKRD writes the selected value, MSKWR sets exec to A AND live, MSKAND leaves the active lanes in which A is not
zero. -/
def Sys2Proof.Claims.MaskInstructions : Prop :=
  (∀ d sel, ResultClaim (.mskrd d sel) { size := 4, uses := [dst d .w1] } d always
    (fun _ w _ => match sel with
      | .exec => w.exec.toNat
      | .live => w.live.toNat
      | .top => match w.stack with
        | [] => 0
        | e :: _ => e.mask.toNat
      | .depth => w.stack.length + w.spilled) fun w => w.aflags) ∧
  (∀ a s w v, Ready s w { size := 4, uses := [src a .w1], acts := true, lanes := uniMask } → Uniform w a v →
    exec (.mskwr a) s =
      .next (retire (setWarp s s.cur { w with exec := BitVec.ofNat 32 v &&& w.live }) s.cur
        { size := 4, uses := [src a .w1], acts := true, lanes := uniMask })) ∧
  ∀ a s w t, Ready s w { size := 4, uses := [src a .w1] } → IsMask t (fun l => active w l ∧ holds w a false l) →
    exec (.mskand a) s = .next (retire (setWarp s s.cur { w with exec := t }) s.cur { size := 4, uses := [src a .w1] })

/-- R311: FLGRD writes aflags and then clears the flags that B names; FLGWR replaces the writable bits that B names by
those of A. -/
def Sys2Proof.Claims.FlagInstructions : Prop :=
  (∀ d b s w, Ready s w { size := 4, uses := [{ src b .w1 with lead := true }, dst d .w1] } → DestHere w d 1 →
    (w.exec = 0 →
      exec (.flgrd d b) s = .next (retire s s.cur { size := 4, uses := [{ src b .w1 with lead := true }, dst d .w1] })) ∧
    ∀ m, w.exec ≠ 0 → Uniform w b m → ∃ w',
      exec (.flgrd d b) s =
        .next (retire (setWarp s s.cur w') s.cur { size := 4, uses := [{ src b .w1 with lead := true }, dst d .w1] }) ∧
      Resulted w w' d 1 (fun _ => w.aflags.toNat) ∧
      ∀ j, w'.aflags.getLsbD j = (w.aflags.getLsbD j && !(decide (j < 7) && m.testBit j))) ∧
  ∀ a b s w, Ready s w { size := 4, uses := [{ src a .w1 with lead := true }, { src b .w1 with lead := true }] } →
    (w.exec = 0 →
      exec (.flgwr a b) s = .next (retire s s.cur
        { size := 4, uses := [{ src a .w1 with lead := true }, { src b .w1 with lead := true }] })) ∧
    ∀ x m, w.exec ≠ 0 → Uniform w a x → Uniform w b m → ∃ fl : BitVec 12,
      exec (.flgwr a b) s = .next (retire (setWarp s s.cur { w with aflags := fl }) s.cur
        { size := 4, uses := [{ src a .w1 with lead := true }, { src b .w1 with lead := true }] }) ∧
      ∀ j < 12, fl.getLsbD j =
        if m.testBit j && (j == 11 || j == 9 || j == 8 || decide (j < 7)) then x.testBit j else w.aflags.getLsbD j

/-- R312 to R315, R319, R354: the instructions that ask something of the warp or its run. TFENCE and SLEEP complete, and REGRS
settles, where there is nothing to wait for; BKPT acts as NOP when BKE is 0; LIMM is kept for the instruction after
it. -/
def Sys2Proof.Claims.WarpRequests : Prop :=
  WarpClaim .nop { size := 4, acts := true } always (fun _ w => w) ∧
  WarpClaim .yield { size := 4, acts := true } always (fun _ w => { w with run := { w.run with yld := true } }) ∧
  (∀ imm, WarpClaim (.limm imm) { size := 4, limm := true, isLimm := true } always
    fun _ w => { w with run := { w.run with limm := w.run.limm ++ [imm] } }) ∧
  (∀ s w, Ready s w { size := 4, acts := true } →
    (∀ sl ∈ w.slots, sl.ret = true ∨ sl.idx = 6) →
    (aflagBits w.aflags &&& (ctxAt s w.ctx).trapen = 0 ∨ w.tm = true) →
    exec .tfence s = .next (retire s s.cur { size := 4, acts := true })) ∧
  (∀ s w, Ready s w { size := 4, acts := true } → (ctxAt s w.ctx).bke = false →
    exec .bkpt s = .next (retire s s.cur { size := 4, acts := true })) ∧
  (∀ a s w v, Ready s w { size := 4, uses := [src a .w1], acts := true, lanes := uniMask } → Uniform w a v →
    exec (.prio a) s =
      .next (retire (setWarp s s.cur { w with prio := BitVec.ofNat 3 v }) s.cur
        { size := 4, uses := [src a .w1], acts := true, lanes := uniMask }) ∧
    (v = 0 → exec (.sleep a) s =
      .next (retire s s.cur { size := 4, uses := [src a .w1], acts := true, lanes := uniMask })) ∧
    (v ≠ 0 → exec (.sleep a) s =
      .next (setWarp s s.cur { w with st := .blocked (.sleep (s.time + min v 0xFFFFFFFF)) }))) ∧
  ∀ d a s w v, Ready s w (regrsShape d a) → DestHere w d 1 → Uniform w a v →
    ∃ w1 w2, Resulted w w1 d 1 (fun _ => 0) ∧ w2.alloc = v ∧ w2.run = w1.run ∧ w2.aflags = w1.aflags ∧
      (∀ n < min w.alloc v, w2.vreg n = w1.vreg n) ∧ (∀ n < v, w.alloc ≤ n → w2.vreg n = Lanes.zero) ∧
      (v ≤ w.alloc → exec (.regrs d a) s =
        .next (retire (examineRegrs (setWarp s s.cur w2) w.core w.quarter) s.cur (regrsShape d a))) ∧
      ∀ s', s' = grantRegrs s ((regrsWaiters s w.core w.quarter).filter fun p => regrsBefore p (w, v)) →
        w.alloc < v → regsFit s' w v = true →
        exec (.regrs d a) s = .next (retire (setWarp s' s.cur w2) s.cur (regrsShape d a))

/-- R316 to R318: in a privileged context CSRR writes the register's value in every active lane; CSRW changes the fields
that the tables call RW, and with exec = 0 nothing. It takes the model's readings of log 16 and 68. -/
def Obligations.ContextRegisters : Prop :=
  (∀ d r, ResultClaim (.csrr d r) { size := 4, priv := true, uses := [dst d .w1] } d always
    (fun s w _ =>
      let c := ctxAt s w.ctx
      match r with
      | .ctxctl => (if c.bke then 8 else 0) + (if c.det then 4 else 0) + (if c.prv then 2 else 0) + if c.hc then 1 else 0
      | .trapen => c.trapen.toNat
      | .tvec => c.tvec
      | .grace => c.grace
      | .wstat => if w.tm then 1 else 0
      | .escr k => (w.escr.getD k.val 0).toNat) fun w => w.aflags) ∧
  ∀ r a s w, Ready s w { size := 4, priv := true, uses := [{ src a .w1 with lead := true }] } →
    (w.exec = 0 →
      exec (.csrw r a) s = .next (retire s s.cur { size := 4, priv := true, uses := [{ src a .w1 with lead := true }] })) ∧
    ∀ v, w.exec ≠ 0 → Uniform w a v →
      let w' : Warp := match r with
        | .wstat => { w with tm := v.testBit 0 || (w.tm && (w.shadow.isSome || w.stack.any fun e => e.kind == .trap)) }
        | .escr k => { w with escr := setAt w.escr k.val (BitVec.ofNat 64 v) }
        | _ => w
      let c := ctxAt s w.ctx
      let c' : Ctx := match r with
        | .ctxctl => { c with bke := v.testBit 3, hc := v.testBit 0 }
        | .trapen => { c with trapen := BitVec.ofNat 7 v }
        | .tvec => { c with tvec := v / 2 ^ 12 % 2 ^ 44 * 2 ^ 12 }
        | .grace => { c with grace := min (v % 2 ^ 10) 1000 }
        | _ => c
      exec (.csrw r a) s = .next (retire (setCtx (setWarp s s.cur w') w.ctx c') s.cur
        { size := 4, priv := true, uses := [{ src a .w1 with lead := true }] })

/-- R320: PHASE is a NOP where DET is 0. In deterministic mode, once every earlier access has been performed at package
scope and every command retired, it commits the warp's task of the context's phase and waits; when the phase has
advanced, it completes. -/
def Sys2Proof.Claims.PhaseInstruction : Prop :=
  ∀ s w, Ready s w { size := 4, acts := true } →
    ((ctxAt s w.ctx).det = false → exec .phase s = .next (retire s s.cur { size := 4, acts := true })) ∧
    ((ctxAt s w.ctx).det = true → w.sample = none →
      (w.run.commit = none → (earlierPerformed s w w.nextSlot .package = false ∨ noCommands s w = false) →
        exec .phase s = .next (setWarp s s.cur { w with st := .blocked .commit })) ∧
      (w.run.commit = none → earlierPerformed s w w.nextSlot .package = true → noCommands s w = true →
        ∃ t, exec .phase s = .next t ∧
          warpAt t s.cur = some { w with
            run := { w.run with commit := some (ctxAt s w.ctx).phase }, committed := (ctxAt s w.ctx).phase + 1
            st := .blocked (.phase (ctxAt s w.ctx).phase) }) ∧
      (∀ p, w.run.commit = some p → (ctxAt s w.ctx).phase ≤ p →
        exec .phase s = .next (setWarp s s.cur { w with st := .blocked (.phase p) })) ∧
      ∀ p, w.run.commit = some p → p < (ctxAt s w.ctx).phase →
        exec .phase s =
          .next (retire (setWarp s s.cur { w with run := { w.run with commit := none } }) s.cur { size := 4, acts := true }))

/-- R319: TRAP with traps unmasked and a handler pushes a TRAP entry for the fall-through; with traps masked or no
handler its trailer makes a fault stop. -/
def Sys2Proof.Claims.TrapInstruction : Prop :=
  ∀ code s w, Ready s w (ctShape []) →
    let t : TrapReq :=
      { cause := 5, addr := BitVec.ofNat 64 w.pc, info := code.toNat, wr := false, eng := 0, tb := 0, pos := w.run.pos,
        ret := false, slot := 0, prog := 0, lv := false, lane := 0, resume := thru w }
    ((w.tm = true ∨ (ctxAt s w.ctx).tvec = 0) →
      exec (.trap code) s =
        .next (retire (setWarp s s.cur { w with run := { w.run with trp := some (t, true) } }) s.cur (ctShape []))) ∧
    (w.tm = false → (ctxAt s w.ctx).tvec ≠ 0 →
      ∀ s' w', Pushed s w { kind := .trap, pc := thru w, mask := w.exec, tm := false } s' w' →
        exec (.trap code) s =
          .next (retire (setWarp s' s.cur
            { w' with run := { w'.run with trp := some ({ t with resume := (ctxAt s w.ctx).tvec }, false) } }) s.cur
            (ctShape [])))

/-- R151, R153, R309, R342: a trailer whose awaited results have returned ends the run. The next run starts at the target
of a control transfer or after the trailer, in the holder or ready for one; a warp that a calving request let run on for
its trap handler leaves its holder (R391). A trailer that still awaits a result parks
the warp out of its holder. -/
def Sys2Proof.Claims.Trailers : Prop :=
  ∀ mask sBit y s w, warpAt s s.cur = some w → mayIssue s w = true → w.run.limm = [] → w.run.trp = none → w.back = none →
    ((∀ sl ∈ w.slots, sl.ret = true ∨ sl.idx = 6 ∨
        (sBit = false ∧ ¬ (sl.run = w.runNo ∧ mask.getLsbD sl.idx = true))) →
      ∃ keep : Bool, ∃ t w', exec (.trl mask sBit y) s = .next t ∧
        ((y = true ∨ w.run.yld = true) → keep = false) ∧
        (∀ j, j ≠ s.cur → warpAt t j = warpAt s j) ∧
        warpAt t s.cur = some (leftHolder w') ∧
        w' = { w with
          pc := match w.run.ct with
            | some pc => pc
            | none => w.pc + 4
          run := RunState.start, runNo := w.runNo + 1, code := none
          st := if keep then .running else .ready
          lastStart := if keep then some s.serial else w.lastStart
          promoted := if keep then false else w.promoted
          readyClk := if keep then 0 else w.readyClk }) ∧
    ((∃ sl ∈ w.slots, sl.ret = false ∧ sl.idx ≠ 6 ∧
        (sBit = true ∨ (sl.run = w.runNo ∧ mask.getLsbD sl.idx = true))) →
      exec (.trl mask sBit y) s = .next (setWarp s s.cur { w with st := .parked mask sBit }))

/-! ## Lane memory instructions -/

/-- R168 to R170: the lane loads and stores of both spaces and their 16-bit forms. -/
def Sys2Proof.Claims.LoadsAndStores : Prop :=
  (∀ f : LoadOp, LoadClaim (.ldg f) f false ∧ LoadClaim (.lds f) f true) ∧
  (∀ f : StoreOp, StoreClaim (.stg f) f false ∧ StoreClaim (.sts f) f true) ∧
  (∀ a d : Fin 32,
    AccessClaim (.lds16 a d) { size := 2, long := true, weight := 32, uses := [src (.v a) .w1, dst (.v d) .w1] }
      { a := .v a, off := 0, size := 8, ord := .relaxed, scope := .warp, scratch := true, op := .load }
      (fun w => w.slotDst (.v d) 1) (fun _ _ => 0) (fun _ _ => 0) true) ∧
  ∀ a d : Fin 32,
    AccessClaim (.sts16 a d) { size := 2, long := true, weight := 32, uses := [src (.v a) .w1, src (.v d) .w1] }
      { a := .v a, off := 0, size := 8, ord := .relaxed, scope := .warp, scratch := true, op := .store }
      (fun _ => .none) (fun w l => (w.rd (.v d) 1 (.int .s64)).getD l 0) (fun _ _ => 0) false

/-- R174 to R176: the compress stores. -/
def Sys2Proof.Claims.CompressStores : Prop :=
  ∀ f : StoreOp, CompressClaim (.cstg f) f false ∧ CompressClaim (.csts f) f true

/-- R266 to R270: the atomics of both spaces, at issue. -/
def Sys2Proof.Claims.AtomicsAtIssue : Prop :=
  (∀ f : AtomGOp, AtomClaim (.atomg f) f.d f.a f.imm.val (if f.wide then 8 else 4) (.atomG f.wide f.op) false f.ord
    f.scope false) ∧
  (∀ f : AtomXOp, AtomClaim (.atomx f) f.d f.a f.imm.val (if f.op = .xchg64 ∨ f.op = .cas64 then 8 else 4) (.atomX f.op)
    (f.op == .cas32 || f.op == .cas64) f.ord f.scope false) ∧
  ∀ f : AtomSOp,
    match f.op with
    | .g wide op => AtomClaim (.atoms f) f.d f.a f.imm.val (if wide then 8 else 4) (.atomG wide op) false f.ord f.scope true
    | .x op => AtomClaim (.atoms f) f.d f.a f.imm.val (if op = .xchg64 ∨ op = .cas64 then 8 else 4) (.atomX op)
        (op == .cas32 || op == .cas64) f.ord f.scope true

/-! ## Special registers and messages -/

/-- R58 to R60, R108, R204, R205, R207: RDS writes the special in every active lane, or takes the oldest message of a receive register;
WRS writes exec, an index register, prio or aflags, or sends the active lanes' values with one credit as one message,
whose flits are charged on their way to the receiver's die. -/
def Sys2Proof.Claims.SpecialRegisters : Prop :=
  (∀ d (sp : Fin 32), ¬ (20 ≤ sp.val ∧ sp.val < 24) →
    ResultClaim (.rds d sp) (rdsShape d sp) d always (fun s w l => special s w sp.val l) fun w => w.aflags) ∧
  (∀ d (sp : Fin 32), 20 ≤ sp.val → sp.val < 24 →
    IdleClaim (.rds d sp) (rdsShape d sp) ∧
    ∀ s w m rest, Ready s w (rdsShape d sp) → w.exec ≠ 0 → heldBack w w.nextSlot true = false →
      look w.recv (sp.val - 20) [] = m :: rest →
      ∃ vals, exec (.rds d sp) s = .next (retire (setWarp
          { s with links := { s.links with credits := s.links.credits ++ [(m.src, m.sr, m.bind)] } } s.cur
          ({ w with recv := putD w.recv (sp.val - 20) [] rest }.addSlot .relaxed .warp (w.slotDst d 1) (.recv vals))) s.cur
          (rdsShape d sp)) ∧
        ∀ l < 32, vals.getD l 0 =
          if inMask m.mask l then leNat ((m.data.drop (8 * lanesBelow m.mask l)).take 8) else 0) ∧
  (∀ a (sp : Fin 32), IdleClaim (.wrs a sp) (wrsShape a sp)) ∧
  ∀ a s w,
    (∀ v, w.exec ≠ 0 → Uniform w a v →
      (Ready s w (wrsShape a 3) → exec (.wrs a 3) s =
        .next (retire (setWarp s s.cur { w with exec := BitVec.ofNat 32 v &&& w.live }) s.cur (wrsShape a 3))) ∧
      (Ready s w (wrsShape a 14) → exec (.wrs a 14) s =
        .next (retire (setWarp s s.cur { w with prio := BitVec.ofNat 3 v }) s.cur (wrsShape a 14))) ∧
      (Ready s w (wrsShape a 15) → ∃ fl : BitVec 12, exec (.wrs a 15) s =
          .next (retire (setWarp s s.cur { w with aflags := fl }) s.cur (wrsShape a 15)) ∧
        ∀ j < 12, fl.getLsbD j = (v.testBit j && (j == 11 || j == 9 || j == 8 || decide (j < 7))))) ∧
    (∀ sp : Fin 32, 8 ≤ sp.val → sp.val < 12 → Ready s w (wrsShape a sp) → w.exec ≠ 0 → ∃ x : Lanes,
      exec (.wrs a sp) s =
        .next (retire (setWarp s s.cur { w with xr := putD w.xr (sp.val - 8) Lanes.zero x }) s.cur (wrsShape a sp)) ∧
      ∀ l < 32, laneAt x l =
        if inMask w.exec l then (w.rd64 a).getD l 0 % 2 ^ 24 else laneAt (look w.xr (sp.val - 8) Lanes.zero) l) ∧
    ∀ (sp : Fin 32) (c : Channel) (y : Warp), 24 ≤ sp.val → sp.val < 28 → Ready s w (wrsShape a sp) → w.exec ≠ 0 →
      look? w.send (sp.val - 24) = some c → 0 < c.credits → warpAt s c.dst = some y → y.st ≠ .ended →
      heldBack w w.nextSlot false = false → (∀ sl ∈ w.slots, ∀ m, sl.body ≠ .send m) →
      ∃ data, Payload w.exec (w.rd64 a) data ∧ exec (.wrs a sp) s = .next (retire
          (modLinks (chargeCores (setWarp s s.cur
              { w with send := put w.send (sp.val - 24) { c with credits := c.credits - 1 } })
              y.ctx w.core y.core (32 + data.length) false)
            fun l => { l with msgs := l.msgs ++ [
              { src := w.key, sr := sp.val - 24, dst := c.dst, rr := c.rr, mask := w.exec, data := data, bind := c.bind
                vc := clockOf s (dieOfCore w.core) }] }) s.cur (wrsShape a sp))

/-- R59, R61: a message that is the oldest of its channel in transit arrives at the end of its receive register's queue; a
returning credit goes to the binding it came from. -/
def Sys2Proof.Claims.MessageTransit : Prop :=
  ∀ s k,
    (∀ m w, s.links.msgs[k]? = some m → (∀ x ∈ s.links.msgs.take k, ¬ (x.src = m.src ∧ x.sr = m.sr)) →
      warpAt s m.dst = some w →
      ∃ t, exec (.messageArrive k) s = .next t ∧
        t.links = { s.links with msgs := s.links.msgs.take k ++ s.links.msgs.drop (k + 1) } ∧
        warpAt t m.dst = some { w with recv := put w.recv m.rr (look w.recv m.rr [] ++ [m]) } ∧
        (∀ j, j ≠ m.dst → warpAt t j = warpAt s j) ∧
        clockOf t (dieOfCore w.core) = vcMax (clockOf s (dieOfCore w.core)) m.vc) ∧
    ∀ src sr bind w c, s.links.credits[k]? = some (src, sr, bind) → warpAt s src = some w →
      look? w.send sr = some c → c.bind = bind →
      exec (.creditReturn k) s = .next (setWarp
        { s with links := { s.links with credits := s.links.credits.take k ++ s.links.credits.drop (k + 1) } } src
        { w with send := put w.send sr { c with credits := c.credits + 1 } })

/-! ## Fences, timelines and barriers -/

/-- R274 to R279: FENCE takes a slot that its conditions return, whatever exec holds; TLWAIT for a number that the timeline
has reached short of its fault mark has no effect (a TLWAIT that waits or meets the fault mark is no part of this); TLRD takes
T, or P, of the timeline in every active lane. It takes
the model's reading of log 28. -/
def Obligations.FencesAndTimelines : Prop :=
  (∀ k scope, WarpClaim (.fence k scope) { size := 4, long := true, acts := true } always
    fun _ w => w.addSlot .relaxed scope .none (.fence k)) ∧
  (∀ e n s w, Ready s w { size := 4, weight := 16, uses := [{ src n .w1 with lead := true }] } →
    (w.exec = 0 ∨ ∃ v, Uniform w n v ∧ v ≤ (warpTimeline s w e).t ∧
      ((warpTimeline s w e).p = 0 ∨ v < (warpTimeline s w e).p)) →
    exec (.tlwait e n) s =
      .next (retire s s.cur { size := 4, weight := 16, uses := [{ src n .w1 with lead := true }] })) ∧
  ∀ e d fault s w, Ready s w { size := 4, long := true, weight := 16, uses := [dst d .w1] } →
    (w.exec = 0 → exec (.tlrd e d fault) s =
      .next (retire s s.cur { size := 4, long := true, weight := 16, uses := [dst d .w1] })) ∧
    (w.exec ≠ 0 → ∃ vals, exec (.tlrd e d fault) s = .next (retire
        (setWarp s s.cur (w.addSlot .relaxed .warp (w.slotDst d 1) (.value vals 0))) s.cur
        { size := 4, long := true, weight := 16, uses := [dst d .w1] }) ∧
      ∀ l < 32, vals.getD l 0 = if fault then (warpTimeline s w e).p else (warpTimeline s w e).t)

/-- R292 to R297: BARINIT sets a barrier; BARARV gives the phase and counts one arrival, the last of which ends a near
barrier's phase; BARWAIT of a phase that is over has no effect; BARARVW as the last arrival completes. -/
def Sys2Proof.Claims.Barriers : Prop :=
  (∀ c : Fin 4,
    let m := barShape c [] fun s w x => barWordBad x true || barInitBad s w x
    IdleClaim (.barinit c) m ∧
    ∀ s w x, Ready s w m → w.exec ≠ 0 → Word_ w c 0 x →
      exec (.barinit c) s = .next (retire (modBar s w.crewK (x % 16) fun y =>
        { y with count := x / 16 % 32, far := x.testBit 9, ph := false, arrivals := 0, farGot := [], farNext := []
                 posted := false }) s.cur m)) ∧
  (∀ d c scope,
    let m := barShape c [dst d .w1] fun _ _ x => barWordBad x false
    IdleClaim (.bararv d c scope) m ∧
    ∀ s w b cr x, Ready s w m → DestHere w d 1 → w.exec ≠ 0 → Word_ w c 0 b → crewAt s w.crewK = some cr →
      cr.bars[b]? = some x → mayArrive s w w.nextSlot (arriveScope s w.crewK b scope) = true →
      ∃ w', Resulted w w' d 1 (fun _ => if x.ph then 1 else 0) ∧ w'.aflags = w.aflags ∧
        (x.arrivals + 1 < x.count →
          exec (.bararv d c scope) s = .next (retire
            (setCrew (setWarp s s.cur w') w.crewK { cr with bars := setAt cr.bars b { x with arrivals := x.arrivals + 1 } })
            s.cur m)) ∧
        (x.arrivals + 1 = x.count → x.far = false →
          exec (.bararv d c scope) s = .next (retire (releaseWaiters
            (setCrew (setWarp s s.cur w') w.crewK { cr with
              bars := setAt cr.bars b { x with ph := !x.ph, arrivals := 0, farGot := x.farNext, farNext := [], posted := false } })
            w.crewK b (!x.ph)) s.cur m))) ∧
  (∀ n c scope,
    let m := barShape c [{ src n .w1 with lead := true }] fun _ _ x => barWordBad x false
    IdleClaim (.barwait n c scope) m ∧
    ∀ s w b v cr x, Ready s w m → w.exec ≠ 0 → Word_ w c 0 b → Uniform w n v → crewAt s w.crewK = some cr →
      cr.bars[b]? = some x → x.ph ≠ v.testBit 0 → exec (.barwait n c scope) s = .next (retire s s.cur m)) ∧
  ∀ c scope,
    let m := barShape c [] fun _ _ x => barWordBad x false
    IdleClaim (.bararvw c scope) m ∧
    ∀ s w b cr x, Ready s w m → w.exec ≠ 0 → Word_ w c 0 b → crewAt s w.crewK = some cr → cr.bars[b]? = some x →
      w.run.arv = none → mayArrive s w w.nextSlot (arriveScope s w.crewK b scope) = true →
      x.arrivals + 1 = x.count → x.far = false →
      (∀ y ∈ allWarps s, y.crewK = w.crewK → y.st ≠ .blocked (.barrier b x.ph)) →
      ∃ t, exec (.bararvw c scope) s = .next (retire (setWarp t s.cur w) s.cur m) ∧
        crewAt t w.crewK = some { cr with
          bars := setAt cr.bars b { x with ph := !x.ph, arrivals := 0, farGot := x.farNext, farNext := [], posted := false } }

/-- R64, R296: a far arrival, the oldest of its sender, with its sender's remote-half writes before it performed, is counted
in the phase it is for or held for the next, and discarded on a barrier that is not a span barrier. -/
def Sys2Proof.Claims.FarArrivals : Prop :=
  ∀ s k m c x, s.links.far[k]? = some m → crewAt s m.dst = some c → c.bars[m.bar]? = some x →
    farBehindWrites s m c.core = true → (∀ y ∈ s.links.far.take k, ¬ (y.dst = m.dst ∧ y.src = m.src)) →
    ∃ t, exec (.farArrival k) s = .next t ∧
      let base := { s.links with far := s.links.far.take k ++ s.links.far.drop (k + 1) }
      clockOf t (dieOfCore c.core) = vcMax (clockOf s (dieOfCore c.core)) m.vc ∧
      (x.far = false → t.links = base ∧ crewAt t m.dst = some c) ∧
      (x.far = true → x.ph ≠ m.ph →
        t.links = base ∧ crewAt t m.dst = some { c with bars := setAt c.bars m.bar { x with farNext := x.farNext ++ [m.src] } }) ∧
      (x.far = true → x.ph = m.ph → x.arrivals < x.count →
        t.links = base ∧ crewAt t m.dst = some { c with bars := setAt c.bars m.bar { x with farGot := x.farGot ++ [m.src] } })

/-! ## Work-item queues -/

/-- R285 to R288, R290, R338: DEQ and QTRY take the oldest item the warp may see, with its ticket and supplier; with nothing
to take from an open queue QTRY gives STAT 2 and DEQ waits; ENQ appends to its tile's subqueue or its die's segment, or
closes the queue; QBIND binds, unbinds, registers and withdraws. -/
def Sys2Proof.Claims.QueueInstructions : Prop :=
  (∀ d c scope, TakeClaim (.deq d c scope) d c scope ∧ TakeClaim (.qtry d c scope) d c scope) ∧
  (∀ d c scope s w qb, Ready s w (takeShape d c) → w.exec ≠ 0 → w.sample = none → Word_ w c 0 qb →
    queueOrphan s w qb = false → heldBack w w.nextSlot true = false → SeesNone s w qb →
    (queueOf s w.ctx qb).closed = false → (ctxAt s w.ctx).det = false →
    (exec (.deq d c scope) s =
      .next (retire (setWarp s s.cur (Waits w scope d (.deq qb false))) s.cur (takeShape d c))) ∧
    ∃ t, exec (.qtry d c scope) s =
      .next (retire (setWarp t s.cur (Waits w scope d (.status (status 0 0 2) none [] true))) s.cur (takeShape d c)) ∧
      t = mergeClock s (dieOfCore w.core) []) ∧
  (∀ d c scope,
    let m := fun close => queueShape c (if close then 1 else 6) [dst d .w1] fun s w => enqBad s w c close
    (∀ close, IdleClaim (.enq d c scope close) (m close)) ∧
    (∀ s w qb, Ready s w (m true) → w.exec ≠ 0 → Word_ w c 0 qb → mayEnq s w w.nextSlot qb scope = true →
      exec (.enq d c scope true) s = .next (retire (setWarp
        (setQueueOf s w.ctx qb { queueOf s w.ctx qb with closed := true }) s.cur
        (Waits w scope d (.status (status 0 0 (if (queueOf s w.ctx qb).closed then 1 else 0)) none [] false))) s.cur
        (m true))) ∧
    ∀ s w qb ws, Ready s w (m false) → w.exec ≠ 0 → w.sample = none → Word_ w c 0 qb →
      (∀ n < 4, Word_ w c (2 + n) (ws.getD n 0).toNat) → ws.length = 4 → mayEnq s w w.nextSlot qb scope = true →
      ∀ dest sub,
      ((queueOf s w.ctx qb).cls = 1 → ∃ va pa pte, Word_ w c 1 va ∧ transWaits s w.core w.ctx va = false ∧
        translate s w.core w.ctx va 1 .read = .ok pa pte ∧ dest = sliceIdx pa ∧ tileSub s w.ctx dest = some sub) →
      ((queueOf s w.ctx qb).cls ≠ 1 → dest = dieOfCore w.core ∧ sub = dest) →
      let q := queueOf s w.ctx qb
      (q.closed = true → exec (.enq d c scope false) s =
        .next (retire (setWarp s s.cur (Waits w scope d (.status (status 0 0 1) none [] false))) s.cur (m false))) ∧
      (q.closed = false → 2 ^ q.logcap ≤ (look q.items sub []).length → exec (.enq d c scope false) s =
        .next (retire (setWarp s s.cur (Waits w scope d (.enq qb dest ws false))) s.cur (m false))) ∧
      (q.closed = false → (look q.items sub []).length < 2 ^ q.logcap → exec (.enq d c scope false) s =
        .next (retire (setWarp (setQueueOf (chargeBytes s w.ctx 0 0 0 32 0) w.ctx qb { q with
          items := putD q.items sub [] (look q.items sub [] ++ [
            { data := ws, tile := dest, seg := sub, num := q.appended, ticket := look q.tickets sub 0
              phase := if (ctxAt s w.ctx).det then (ctxAt s w.ctx).phase + 1 else 0, vc := clockOf s (dieOfCore w.core) }])
          appended := q.appended + 1, tickets := putD q.tickets sub 0 (look q.tickets sub 0 + 1) }) s.cur
          (Waits w scope d (.status (status 0 0 0) none [] false))) s.cur (m false)))) ∧
  ∀ c : Fin 4,
    let m : Shape :=
      { size := 4, weight := 16, octet := some (octBase c), words := 1
        check := fun s w => trapIf (qbindBad s w (octWord w c 0)) (w.trap cILLEGAL_OPERAND) }
    IdleClaim (.qbind c) m ∧
    ∀ s w x, Ready s w m → w.exec ≠ 0 → Word_ w c 0 x →
      let qb := x / 2 ^ 28 % 16
      (x % 4 = 0 → ∀ y, warpAt s (warpKey (crewKey w.ctx (x / 2 ^ 12 % 2 ^ 16)) (x / 2 ^ 6 % 16)) = some y →
        warpKey (crewKey w.ctx (x / 2 ^ 12 % 2 ^ 16)) (x / 2 ^ 6 % 16) ≠ s.cur →
        exec (.qbind c) s = .next (retire (setWarp (setWarp { s with serial := s.serial + 1 } s.cur
            { w with
              send := put w.send (x / 4 % 4)
                { dst := warpKey (crewKey w.ctx (x / 2 ^ 12 % 2 ^ 16)) (x / 2 ^ 6 % 16), rr := x / 16 % 4, credits := 4
                  bind := s.serial } })
          (warpKey (crewKey w.ctx (x / 2 ^ 12 % 2 ^ 16)) (x / 2 ^ 6 % 16))
          { y with recvBound := y.recvBound ||| BitVec.ofNat 4 (2 ^ (x / 16 % 4)) }) s.cur m)) ∧
      (x % 4 = 1 → exec (.qbind c) s = .next (retire (setWarp s s.cur { w with send := del w.send (x / 4 % 4) }) s.cur m)) ∧
      (x % 4 = 2 → exec (.qbind c) s = .next (retire (setQueueOf (setWarp s s.cur
          { w with producer := w.producer ||| BitVec.ofNat 16 (2 ^ qb) }) w.ctx qb
          { queueOf s w.ctx qb with everProd := true }) s.cur m)) ∧
      (x % 4 = 3 → exec (.qbind c) s = .next (retire (setWarp s s.cur
          { w with producer := w.producer &&& ~~~(BitVec.ofNat 16 (2 ^ qb)) }) s.cur m))

/-- R287 to R289, R291, R338, R425: a doorbell's item joins its die's segment of a ticket queue. A waiting DEQ takes an item
that has come, a waiting ENQ appends once there is space, and the DEQs that wait on an orphaned queue complete withdrawn. -/
def Sys2Proof.Claims.QueueEvents : Prop :=
  (∀ s a ctx (val : Word) pa pte, mayPage s a ctx = true → (ctxAt s ctx).door1 = 0 →
    let q := queueOf s ctx (bits val.toNat 0 4)
    let v := bits val.toNat 4 3
    sysTranslate s ctx (bits (ctxAt s ctx).door0.toNat 5 51 * 32) 32 .read true = .ok pa pte →
    vaWaits s ctx (bits (ctxAt s ctx).door0.toNat 5 51 * 32) 32 = false → q.cls = 2 →
    q.closed = false → (look q.items v []).length < 2 ^ q.logcap →
    ∃ t x, exec (.doorbell a ctx val) s = .next t ∧ x.ticket = look q.tickets v 0 ∧
      look (queueOf t ctx (bits val.toNat 0 4)).items v [] = look q.items v [] ++ [x]) ∧
  (∀ s k slot w sl qb sub x rest, warpAt s k = some w → w.key = k → w.slotAt slot = some sl → sl.body = .deq qb false →
    (∀ p, w.sample = some p → p.waiting = false) → heldBack w slot true = false → Takes s w qb sub x rest →
    exec (.queueItemDeliver k slot) s = .next (setWarp
      (mergeClock (chargeBytes (setQueueOf s w.ctx qb
          { queueOf s w.ctx qb with items := putD (queueOf s w.ctx qb).items sub [] rest }) w.ctx 0 0 0 32 0)
        (dieOfCore w.core) x.vc) k
      (w.modSlot slot fun sl => { sl with body := .status (status (if (queueOf s w.ctx qb).cls = 2 then x.ticket else 0)
        (if (queueOf s w.ctx qb).cls = 1 then dieOfCore w.core else sub) 0) (some x.data) x.vc true }))) ∧
  (∀ s k slot w sl qb v ws, warpAt s k = some w → w.key = k → w.slotAt slot = some sl → sl.body = .enq qb v ws false →
    mayEnq s w slot qb sl.scope = true → (queueOf s w.ctx qb).cls = 2 → (queueOf s w.ctx qb).closed = false →
    (look (queueOf s w.ctx qb).items v []).length < 2 ^ (queueOf s w.ctx qb).logcap →
    ∃ t, exec (.queueItemDeliver k slot) s = .next t ∧
      warpAt t k = some (w.modSlot slot fun sl => { sl with body := .status (status 0 0 0) none [] false }) ∧
      ∃ x, look (queueOf t w.ctx qb).items v [] = look (queueOf s w.ctx qb).items v [] ++ [x] ∧ x.data = ws ∧
        x.ticket = look (queueOf s w.ctx qb).tickets v 0) ∧
  ∀ s ctx qb k w slot, warpAt s k = some w → s.warps = [(k, w)] → w.key = k → w.ctx = ctx → queueOrphan s w qb = true →
    (w.slots = [slot]) → slot.body = .deq qb false →
    exec (.queueOrphan ctx qb) s =
      .next (setWarp s k { w with slots := [{ slot with body := .status (status 0 0 3) none [] true }] })

/-! ## Tensor records -/

/-- R187 to R190: RECLD marks a cached record most recently used or starts its fetch; RECINV removes an entry, or the
context's; RECQ reads the overflow counter, with SEL 1 clearing it, or tells a malformed record from a well-formed
one. -/
def Sys2Proof.Claims.RecordInstructions : Prop :=
  (∀ c : Fin 4,
    let m : Shape :=
      { size := 4, weight := 16, octet := some (octBase c), words := 1
        check := fun _ w => trapIf (octWord w c 0 / 2 ^ 12 != 0) (w.trap cILLEGAL_OPERAND) }
    IdleClaim (.recld c) m ∧
    ∀ s w h, Ready s w m → w.exec ≠ 0 → Word_ w c 0 h →
      ((∀ r ∈ s.recs, ¬ (r.core = w.core ∧ r.ctx = w.ctx ∧ r.handle = h)) →
        ∃ t, exec (.recld c) s = .next (retire t s.cur m) ∧ (w.core, w.ctx, h) ∈ t.fetches ∧ t.recs = s.recs) ∧
      ∀ r, cachedRec s w.core w.ctx h = some r →
        ∃ t, exec (.recld c) s = .next (retire t s.cur m) ∧ t.fetches = s.fetches ∧ t.recs.head? = some r) ∧
  (∀ c : Fin 4,
    let m : Shape :=
      { size := 4, weight := 16, octet := some (octBase c), words := 1
        check := fun _ w => trapIf (octWord w c 0 / 2 ^ 13 != 0) (w.trap cILLEGAL_OPERAND) }
    IdleClaim (.recinv c) m ∧
    ∀ s w x, Ready s w m → w.exec ≠ 0 → Word_ w c 0 x →
      ∃ t, exec (.recinv c) s = .next (retire t s.cur m) ∧
        ∀ r, r ∈ t.recs ↔ r ∈ s.recs ∧ ¬ (r.core = w.core ∧ r.ctx = w.ctx ∧ (x.testBit 12 = true ∨ r.handle = x % 2 ^ 12))) ∧
  ∀ d (c : Fin 4),
    let m := recqShape d c
    IdleClaim (.recq d c) m ∧
    ∀ s w x, Ready s w m → w.exec ≠ 0 → Word_ w c 0 x →
      (x % 16 = 0 → exec (.recq d c) s = .next (retire (setWarp s s.cur
        (Waits w .warp d (.value (List.replicate 32 (ctxAt s w.ctx).ovf) 0))) s.cur m)) ∧
      (x % 16 = 1 → exec (.recq d c) s = .next (retire (setWarp (setCtx s w.ctx { ctxAt s w.ctx with ovf := 0 }) s.cur
        (Waits w .warp d (.value (List.replicate 32 (ctxAt s w.ctx).ovf) 0))) s.cur m)) ∧
      (x % 16 = 2 → ∀ r, cachedRec s w.core w.ctx (x / 16) = some r →
        ∃ t, t.warps = s.warps ∧ exec (.recq d c) s = .next (retire (setWarp t s.cur
          (Waits w .warp d (.value (List.replicate 32 (if recMalformed r.words (allocOf s w) then 1 else 0)) 0))) s.cur m))

/-- R85: a record's fetch whose walk need not wait and that meets no fault puts its 64 bytes, as the core's die reads them, first in the core's cache;
one that faults is dropped. -/
def Sys2Proof.Claims.RecordFetch : Prop :=
  ∀ s core ctx h, (core, ctx, h) ∈ s.fetches →
    transWaits s core ctx ((ctxAt s ctx).recBase + 64 * h) = false →
    (∀ k, translate s core ctx ((ctxAt s ctx).recBase + 64 * h) 64 .read = .bad k →
      exec (.recordFetch core ctx h) s = .next { s with fetches := s.fetches.filter fun f => f != (core, ctx, h) }) ∧
    ∀ pa pte u v, translate s core ctx ((ctxAt s ctx).recBase + 64 * h) 64 .read = .ok pa pte →
      homeLoad { s with fetches := s.fetches.filter fun f => f != (core, ctx, h) } ctx core pa 64 (pteMt pte != 0)
        false = some (u, v, false) →
      ∃ t r, exec (.recordFetch core ctx h) s = .next t ∧ t.recs.head? = some r ∧ r.core = core ∧ r.ctx = ctx ∧
        r.handle = h ∧ t.fetches = u.fetches ∧ ∀ n < 8, (r.words.getD n 0).toNat = v / 2 ^ (64 * n) % 2 ^ 64

/-! ## Engine commands -/

/-- R245 to R249, R253, R254: the matrix commands and WBQ at issue. A command that passes its checks is accepted on the mx
sequence; ACCRD takes a slot that holds its number; WBLD's region is loading from acceptance on, and the regions it
overlaps are invalid. It takes the model's readings of log 28, 40 and 43. -/
def Obligations.MatrixCommands : Prop :=
  (∀ (fresh : Bool) (c : Fin 4),
    let i := if fresh then Instr.mman c else Instr.mma c
    let m := cmdShape c 2 false [] fun _ w => mmaWordsBad (octWord w c 0) (octWord w c 1)
    IdleClaim i m ∧
    ∀ s w y r x0 x1, Ready s w m → w.exec ≠ 0 → Word_ w c 0 x0 → Word_ w c 1 x1 → Named s w (bits x0 0 12) y r →
      MmaFits y r x0 x1 → Roomy s w 4 2 → Accepts i m s w 4 (mmaBody fresh y r x0 x1)) ∧
  (∀ c : Fin 4,
    let m := cmdShape c 1 false [] fun _ w => octWord w c 0 / 4 != 0
    IdleClaim (.accz c) m ∧
    ∀ s w y x, Ready s w m → w.exec ≠ 0 → Word_ w c 0 x → crewAt s w.crewK = some y → x < y.nAcc → Roomy s w 4 0 →
      Accepts (.accz c) m s w 4 (.accz x)) ∧
  (∀ d (c : Fin 4) sat,
    let m := cmdShape c 2 true [dst d .w1] fun _ w => accWordsBad (octWord w c 0) (octWord w c 1)
    IdleClaim (.accrd d c sat) m ∧
    ∀ s w y r x0 x1, Ready s w m → w.exec ≠ 0 → Word_ w c 0 x0 → Word_ w c 1 x1 → Named s w (bits x0 0 12) y r →
      AccFits y r x0 x1 true → Roomy s w 4 1 → w.key = s.cur →
      ∃ t, exec (.accrd d c sat) s = .next (retire t s.cur m) ∧
        Accepted s t w 4 (.accrd r (bits x0 16 22) (bits x0 38 2) (bits x0 40 7) (bits x0 47 8) (bits x1 0 8) (bits x1 8 8)
          sat) false ∧
        warpAt t s.cur = some (Waits w .warp d (.accrd (timelineAt s (tlKey w.core w.ctx 4)).next))) ∧
  (∀ c : Fin 4,
    let m := cmdShape c 2 false [] fun _ w => accWordsBad (octWord w c 0) (octWord w c 1)
    IdleClaim (.accwr c) m ∧
    ∀ s w y r x0 x1, Ready s w m → w.exec ≠ 0 → Word_ w c 0 x0 → Word_ w c 1 x1 → Named s w (bits x0 0 12) y r →
      AccFits y r x0 x1 false → Roomy s w 4 1 →
      Accepts (.accwr c) m s w 4
        (.accwr r (bits x0 16 22) (bits x0 38 2) (bits x0 40 7) (bits x0 47 8) (bits x1 0 8) (bits x1 8 8))) ∧
  (∀ c : Fin 4,
    let m := cmdShape c 2 false [] fun _ w => wbldWordsBad (octWord w c 0) (octWord w c 1)
    IdleClaim (.wbld c) m ∧
    ∀ s w y r x0 x1, Ready s w m → w.exec ≠ 0 → Word_ w c 0 x0 → Word_ w c 1 x1 → Named s w (bits x0 0 12) y r →
      r.ent = false → r.sp = false → r.rank = 2 → mulFmt r.fmt = true →
      bits x0 24 9 + regionUnits r.fmt (bits x0 33 9) ≤ y.nFirn → Roomy s w 4 0 →
      (timelineAt s (tlKey w.core w.ctx 4)).p = 0 →
      ∃ t y', exec (.wbld c) s = .next (retire t s.cur m) ∧
        Accepted s t w 4 (.wbld r (bits x0 16 3) (bits x0 33 9) (sext 32 (bits x1 0 32)) (sext 32 (bits x1 32 32))) false ∧
        crewAt t w.crewK = some y' ∧
        (let g := look y'.firn (bits x0 16 3) Firn.invalid
         g.st = .loading ∧ g.fmt = r.fmt ∧ g.handle = bits x0 0 12 ∧ g.funit = bits x0 24 9 ∧ g.ng = bits x0 33 9 ∧
         g.c0 = sext 32 (bits x1 0 32) ∧ g.c1 = sext 32 (bits x1 32 32) ∧
         ∀ n, n ≠ bits x0 16 3 →
          (look y'.firn n Firn.invalid).st =
            if unitsMeet (look y.firn n Firn.invalid) g then .invalid else (look y.firn n Firn.invalid).st)) ∧
  ∀ d (c : Fin 4),
    let m : Shape :=
      { size := 4, long := true, weight := 8, octet := some (octBase c), words := 1, uses := [dst d .w1]
        check := fun _ w => trapIf (octWord w c 0 / 8 != 0) (w.trap cILLEGAL_OPERAND) }
    IdleClaim (.wbq d c) m ∧
    ∀ s w y x, Ready s w m → w.exec ≠ 0 → Word_ w c 0 x → crewAt s w.crewK = some y →
      ∃ v, exec (.wbq d c) s = .next (retire (setWarp s s.cur (Waits w .warp d (.value (List.replicate 32 v) 0))) s.cur m) ∧
        (let g := look y.firn x Firn.invalid
         (g.st ≠ .invalid → g.fmt < 2 ^ 8 ∧ g.funit < 2 ^ 16 ∧ g.ng < 2 ^ 16 → bits v 48 16 = y.nFirn % 2 ^ 16) ∧
         (g.st = .invalid → bits v 48 16 = y.nFirn % 2 ^ 16) ∧
         v % 4 = (match g.st with
           | .invalid => 0
           | .loading => 1
           | .valid => 2) ∧
         (g.st ≠ .invalid → g.fmt < 2 ^ 8 → g.funit < 2 ^ 16 → g.ng < 2 ^ 16 →
          bits v 8 8 = g.fmt ∧ bits v 16 16 = g.funit ∧ bits v 32 16 = g.ng))

/-- R256 to R265: the lookup commands and TCHK at issue. It takes the model's readings of log 28 and 40. -/
def Obligations.LookupCommands : Prop :=
  (∀ c : Fin 4,
    let m := cmdShape c 1 false [] fun _ w => bits (octWord w c 0) 42 22 != 0 || bits (octWord w c 0) 12 4 != 0
    IdleClaim (.tbuild c) m ∧
    ∀ s w y r x, Ready s w m → w.exec ≠ 0 → Word_ w c 0 x → Named s w (bits x 0 12) y r → r.ent = false → r.sp = true →
      r.rank = 1 → 8 ≤ r.fmt → r.fmt ≤ 12 → (r.at (bits x 16 22) 0).offBad = false →
      (∀ p ∈ (r.at (bits x 16 22) 0).foot [0] [1024], p.2 ≤ y.bytes) → bits x 38 4 < y.nTbl → Roomy s w 5 1 →
      Accepts (.tbuild c) m s w 5 (.tbuild r (bits x 38 4) (bits x 16 22))) ∧
  (∀ c : Fin 4,
    let m := cmdShape c 3 false [] fun _ w => tlookWordsBad (octWord w c 0) (octWord w c 1) (octWord w c 2)
    IdleClaim (.tlook c) m ∧
    ∀ s w y r x0 x1 x2, Ready s w m → w.exec ≠ 0 → Word_ w c 0 x0 → Word_ w c 1 x1 → Word_ w c 2 x2 →
      Named s w (bits x0 0 12) y r → r.ent = false → r.sp = true → r.rank = 2 → 0x18 ≤ r.fmt → r.fmt ≤ 0x1B →
      bits x0 42 2 < y.nAcc → bits x0 38 4 < y.nTbl → bits x1 9 9 ≠ 0 → bits x1 0 9 + bits x1 9 9 ≤ 256 →
      bits x2 0 14 + bits x2 16 14 ≤ 12288 →
      (let b := r.fmt - 0x17
       let u0 := (bits x1 32 24 + bits x1 0 9) * b / 2
       let u1 := ((bits x1 32 24 + bits x1 0 9 + bits x1 9 9) * b - 1) / 2
       ∀ p ∈ (r.at (bits x0 16 22) 0).foot [u0, bits x2 32 24] [u1 + 1 - u0, bits x2 16 14], p.2 ≤ y.bytes) →
      TableReady s w y (bits x0 38 4) → (look y.tables (bits x0 38 4) Table.empty).built = true →
      tableStale s y (look y.tables (bits x0 38 4) Table.empty) = false → Roomy s w 5 1 →
      Accepts (.tlook c) m s w 5 (.tlook r (bits x0 38 4) (bits x0 42 2) (bits x0 16 22) (bits x1 32 24) (bits x1 9 9)
        (bits x1 0 9) (bits x2 32 24) (bits x2 16 14) (bits x2 0 14))) ∧
  (∀ (c : Fin 4) acc,
    let m := cmdShape c 2 false [] fun _ w => tfinWordsBad (octWord w c 0) (octWord w c 1)
    IdleClaim (.tfin c acc) m ∧
    ∀ s w y r x0 x1, Ready s w m → w.exec ≠ 0 → Word_ w c 0 x0 → Word_ w c 1 x1 → Named s w (bits x0 0 12) y r →
      r.ent = false → r.sp = true → r.rank = 1 → r.fmt = 0x0A → (r.at (bits x0 16 22) 0).offBad = false →
      (∀ p ∈ (r.at (bits x0 16 22) 0).foot [0] [bits x1 32 14], p.2 ≤ y.bytes) → bits x0 44 2 < y.nAcc →
      bits x0 42 2 < y.nAcc → bits x0 38 4 < y.nTbl → bits x1 0 14 + bits x1 32 14 ≤ 12288 →
      bits x1 16 15 + bits x1 32 14 ≤ 24576 → TableReady s w y (bits x0 38 4) →
      (look y.tables (bits x0 38 4) Table.empty).built = true → Roomy s w 5 1 →
      Accepts (.tfin c acc) m s w 5 (.tfin r (bits x0 38 4) (bits x0 42 2) (bits x0 44 2) (bits x0 16 22) (bits x1 32 14)
        (bits x1 16 15) (bits x1 0 14) acc)) ∧
  (∀ d (c : Fin 4),
    let m : Shape :=
      { size := 4, long := true, weight := 8, octet := some (octBase c), words := 1, uses := [dst d .w1]
        check := fun _ w => trapIf (octWord w c 0 / 16 != 0) (w.trap cILLEGAL_OPERAND) }
    IdleClaim (.tchk d c) m ∧
    ∀ s w y x, Ready s w m → w.exec ≠ 0 → Word_ w c 0 x → crewAt s w.crewK = some y → x < y.nTbl → TableReady s w y x →
      exec (.tchk d c) s = .next (retire (setWarp s s.cur (Waits w .warp d
        (.value (List.replicate 32 (tchkWord s y (look y.tables x Table.empty))) 0))) s.cur m)) ∧
  (∀ (fill : Bool) (c : Fin 4),
    let i := if fill then Instr.tfill c else Instr.tspill c
    let m := cmdShape c 1 false [] fun _ w => spillWordBad (octWord w c 0)
    IdleClaim i m ∧
    ∀ s w y x, Ready s w m → w.exec ≠ 0 → Word_ w c 0 x → crewAt s w.crewK = some y → bits x 56 4 < y.nTbl →
      Roomy s w 5 0 →
      Accepts i m s w 5 (if fill then .tfill (bits x 56 4) (bits x 0 56) else .tspill (bits x 56 4) (bits x 0 56))) ∧
  ∀ c : Fin 4,
    let m := cmdShape c 1 false [] fun _ w => octWord w c 0 / 2 ^ 16 != 0
    IdleClaim (.tinv c) m ∧
    ∀ s w y x, Ready s w m → w.exec ≠ 0 → Word_ w c 0 x → crewAt s w.crewK = some y → x < 2 ^ y.nTbl → Roomy s w 5 0 →
      Accepts (.tinv c) m s w 5 (.tinv (BitVec.ofNat 16 x))

/-- R94, R177 to R184: the copy commands and PFCH at issue. It takes the model's readings of log 28, 40 and 41. -/
def Obligations.CopyCommands : Prop :=
  (∀ f : CopyOp,
    CopyClaim (.cpy f) .cpy f ∧ CopyClaim (.cpyt f) .cpyt f ∧ CopyClaim (.cpyp f) .cpyp f ∧ CopyClaim (.cpyg f) .cpyg f ∧
      CopyClaim (.cpyr f) .cpyr f ∧ CopyClaim (.cpye f) .cpye f) ∧
  ∀ q c scope cw,
    CopyClaim (.pfch q c scope cw) .pfch
      { q := q, c := c, c2 := 0, scope := scope, chain := false, cw := cw, st := false, mman := false }

/-! ## Engine events -/

/-- R239, R250, R253: MX_RETIRE of an ACCZ zeroes its set and no other; of an MMA or MMAN it adds, for each element of the
rectangle, the group sums in ascending k to the old value or to +0. The queue loses its head and T becomes its number. -/
def Sys2Proof.Claims.MatrixRetirement : Prop :=
  ∀ s core k rest y, queueAt s (queueKey core 4) = k :: rest → clusterRuns s (clusterOfCore core) = true →
    mayStart s core k = true → k.discard = false →
    crewAt s k.crew = some y →
    (∀ a, k.body = .accz a → ∃ t y', exec (.mxRetire core) s = .next t ∧ crewAt t k.crew = some y' ∧
      EngineRetired s t core 4 k rest ∧
      (∀ i < 128, ∀ j < 192, y'.accAt ((a * 128 + i) * 192 + j) = (0, false)) ∧
      ∀ b, b ≠ a → ∀ i < 128, ∀ j < 192, y'.accAt ((b * 128 + i) * 192 + j) = y.accAt ((b * 128 + i) * 192 + j)) ∧
    (∀ fresh r aoff asoff gb fr fmt acc ncol nrow kk,
      k.body = .mma fresh r aoff asoff gb fr fmt acc ncol nrow kk → ncol ≤ 192 → nrow ≤ 128 →
      ∃ t y', exec (.mxRetire core) s = .next t ∧ crewAt t k.crew = some y' ∧ EngineRetired s t core 4 k rest ∧
        ∀ b i j, i < 128 → j < 192 →
          (y'.accAt ((b * 128 + i) * 192 + j)).1 =
            if b = acc ∧ i < nrow ∧ j < ncol then
              (List.range (kk / 16)).foldl (fun sum g =>
                let a := scrSlice s y (r.at aoff asoff) (16 * g) i
                let c := look (look y.firn fr Firn.invalid).data ((gb + g) * 192 + j) 0
                let w := sliceLen fmt
                let ps := (List.range 16).map fun m =>
                  (sliceVal r.fmt a.1 (g % 2) m, sliceVal fmt (c % 2 ^ (8 * w)) (c / 2 ^ (8 * w)) m)
                (addF32 sum (groupSum (ps.map fun p => (mulVal p.1.1 p.2.1).1) (ps.any fun p => p.1.2 || p.2.2)).1).1)
                (if fresh then 0 else (y.accAt ((b * 128 + i) * 192 + j)).1) % 2 ^ 32
            else (y.accAt ((b * 128 + i) * 192 + j)).1)

/-- R133, R239, R258, R260, R261, R263 to R265: LK_RETIRE. TBUILD builds its table from the 1024 activations; TLOOK adds a row's
table entries to its integer accumulator; TFIN turns integer accumulators into FP32 elements and zeroes them; TINV empties
the tables it names and no other; TSPILL and TFILL make their accesses, and retire once their writes have been performed. -/
def Sys2Proof.Claims.LookupRetirement : Prop :=
  (∀ s core k rest, queueAt s (queueKey core 5) = k :: rest → clusterRuns s (clusterOfCore core) = true → k.phase = 1 →
    cmdWritesDone s core 5 k.seq 5 = true →
    exec (.lkRetire core) s = .next (retireCmd s core 5 0)) ∧
  ∀ s core k rest y, queueAt s (queueKey core 5) = k :: rest → clusterRuns s (clusterOfCore core) = true →
    mayStart s core k = true → k.discard = false →
    k.phase = 0 → cmdWritesDone s core 5 k.seq 5 = true → crewAt s k.crew = some y →
    (∀ r n off, k.body = .tbuild r n off → ∃ t y', exec (.lkRetire core) s = .next t ∧ crewAt t k.crew = some y' ∧
      EngineRetired s t core 5 k rest ∧
      (let es := vecElems s y (r.at off 0) 1024
       let vs := es.map fun e => fltVal r.fmt e.1
       let b := look y'.tables n Table.empty
       b.built = true ∧ b.stale = false ∧ b.et = tableExp vs ∧ b.nan = vs.any (fun v => v.isNan || v.isInf) ∧
         b.pois = es.any (·.2) ∧
         (∀ i < 2048, look b.ent i 0 = BitVec.ofInt 32 ((tableEntries b.et vs).getD i 0)) ∧
         b.src = (footPages ((r.at off 0).foot [0] [1024])).map fun p => (p, (genOf s y.core (y.page + p)).toNat)) ∧
      ∀ m, m ≠ n → look y'.tables m Table.empty = look y.tables m Table.empty) ∧
    (∀ r n a off cg gc gs rowc nrow qoff, k.body = .tlook r n a off cg gc gs rowc nrow qoff → qoff + nrow ≤ 12288 →
      ∃ t y', exec (.lkRetire core) s = .next t ∧ crewAt t k.crew = some y' ∧ EngineRetired s t core 5 k rest ∧
        ∀ b q, q < 12288 → (y'.acc64 b q).1 =
          if b = a ∧ qoff ≤ q ∧ q < qoff + nrow then
            (clamp64 ((y.acc64 a q).1 + (List.range gc).foldl (fun x i => (List.range (r.fmt - 0x17)).foldl (fun x j =>
              let u := (cg + gs + i) * (r.fmt - 0x17) + j
              let n4 := bits (codeByte s y (r.at off 0) (u / 2) (rowc + (q - qoff))).1 (4 * (u % 2)) 4
              x + 2 ^ j * tableEntry (fun e => (look (look y.tables n Table.empty).ent e 0).toInt) (gs + i) n4) x) 0)).1
          else (y.acc64 b q).1) ∧
    (∀ r n ai af off nrow foff qoff accum, k.body = .tfin r n ai af off nrow foff qoff accum → ai ≠ af →
      qoff + nrow ≤ 12288 → foff + nrow ≤ 24576 →
      ∃ t y', exec (.lkRetire core) s = .next t ∧ crewAt t k.crew = some y' ∧ EngineRetired s t core 5 k rest ∧
        (∀ q < 12288, (y'.acc64 ai q).1 = if qoff ≤ q ∧ q < qoff + nrow then 0 else (y.acc64 ai q).1) ∧
        ∀ e < 24576, (y'.accAt (af * 24576 + e)).1 =
          if foff ≤ e ∧ e < foff + nrow then
            let b := look y.tables n Table.empty
            let v := (finValue b.nan (y.acc64 ai (qoff + (e - foff))).1 b.et
              (f32Val ((vecElems s y (r.at off 0) nrow).getD (e - foff) (0, false)).1)).1
            (if accum then (addF32 (y.accAt (af * 24576 + e)).1 v).1 else v) % 2 ^ 32
          else (y.accAt (af * 24576 + e)).1) ∧
    (∀ m, k.body = .tinv m → ∃ t y', exec (.lkRetire core) s = .next t ∧ crewAt t k.crew = some y' ∧
      EngineRetired s t core 5 k rest ∧
      ∀ n < 16, look y'.tables n Table.empty = if m.getLsbD n then Table.empty else look y.tables n Table.empty) ∧
    (∀ n va u, (k.body = .tspill n va ∧ runTspill core k n va s = .ok u ()) ∨
        (k.body = .tfill n va ∧ runTfill core k n va s = .ok u ()) →
      exec (.lkRetire core) s = .next (if cmdWritesDone u core 5 k.seq 5 = true then retireCmd u core 5 0
        else modHead u core 5 fun c => { c with phase := 1 }))

/-- R86, R94, R277, R388, R406: the copy engine's events. COPY_RETIRE of a command with no completion word whose accesses
have been made and whose writes have been performed retires it, and so of one whose completion word is written; CHAIN_START
lets the oldest waiting chained command start once its copy is past its accesses; a command whose access meets a translation
fault stalls its queue, and its context gets a KIND 2 record with the command's number and address. While its cluster is
stopped no engine advances. It takes the model's reading of log 39. -/
def Sys2Proof.Claims.CopyQueueEvents : Prop :=
  (∀ s core q k c rest u, q < 4 → queueAt s (queueKey core q) = k :: rest → clusterRuns s (clusterOfCore core) = true →
    clusterRuns u (clusterOfCore core) = true → mayStart s core k = true → k.discard = false →
    k.phase = 0 → k.body = .copy c → c.cw = none → runCopy core q k c s = .ok u () →
    queueAt u (queueKey core q) = k :: rest → cmdWritesDone u core q k.seq (max 5 (scopeCode c.scope)) = true →
    ∃ t, exec (.copyRetire core q) s = .next t ∧ EngineRetired u t core q k rest ∧ t.scr = u.scr ∧ t.mem = u.mem) ∧
  (∀ s core q k c rest, q < 4 → queueAt s (queueKey core q) = k :: rest → clusterRuns s (clusterOfCore core) = true →
    k.phase = 2 → k.fault = none → k.body = .copy c →
    cmdWritesDone s core q k.seq (max 5 (scopeCode c.scope)) = true →
    exec (.copyRetire core q) s = .next (retireCmd s core q 0)) ∧
  (∀ s core q m, clusterRuns s (clusterOfCore core) = true → firstOf (fun c => c.waitChain && c.stream == q) (queueAt s (queueKey core 4)) = some m →
    (∀ c ∈ queueAt s (queueKey core q), c.ctx = m.ctx → c.chain = some m.seq → c.phase ≠ 0) →
    ∃ t, exec (.chainStart core q) s = .next t ∧
      queueAt t (queueKey core 4) =
        (queueAt s (queueKey core 4)).map (fun c => if c.accNo = m.accNo then { c with waitChain := false } else c) ∧
      ∀ n, n ≠ queueKey core 4 → queueAt t n = queueAt s n) ∧
  (∀ s core q k c rest y va cause, q < 4 → queueAt s (queueKey core q) = k :: rest →
    clusterRuns s (clusterOfCore core) = true → mayStart s core k = true → k.discard = false → k.phase = 0 →
    k.body = .copy c → crewAt s k.crew = some y →
    runCopy core q k c s = .fault va cause →
    ∃ t k', exec (.engineFaultPending core q) s = .next t ∧ queueAt t (queueKey core q) = k' :: rest ∧
      k'.fault = some { addr := va, cause := cause, recorded := true } ∧ k'.seq = k.seq ∧ k'.body = k.body ∧
      ∃ r, (ctxAt t k.ctx).waiting = (ctxAt s k.ctx).waiting ++ [r] ∧ r.kind = 2 ∧ r.eng = q ∧ r.seq = k.seq ∧
        r.addr = BitVec.ofNat 64 va ∧ r.crew = k.crew % 2 ^ 16 ∧ r.vcore = y.vcore) ∧
  ∀ s core q, clusterRuns s (clusterOfCore core) = false →
    exec (.copyRetire core q) s = .next s ∧ exec (.mxRetire core) s = .next s ∧ exec (.lkRetire core) s = .next s ∧
      exec (.chainStart core q) s = .next s

/-- R84, R88, R93, R179, R180: what CPY, CPYT, CPYP and CPYG leave. A load writes to the scratchpad, as one operation, each byte
of each unit of its box: that of the record where the unit is in bounds, else PAD. A store writes the scratchpad's bytes of
each unit in bounds to the record, to the die's store stage or to the scratchpad, and counts those that it drops. PFCH changes
no value (R92). It takes the model's readings of log 88 and 89. -/
def Sys2Proof.Claims.CopyLoadsAndStores : Prop :=
  (∀ s core eng k rest y c l v, eng < 4 → Works s core eng k rest y → k.body = .copy c → CopyFits y c → c.st = false →
    c.kind ∈ [CopyKind.cpy, .cpyt, .cpyp, .cpyg] →
    SourcesRead core k.ctx true y c.trec.sp
      ((List.range (boxUnits c)).flatMap fun q => unitSources c.trec (boxCo c (boxIx s core y c) q)) s l v →
    ∃ t, exec (.copyRetire core eng) s = .next t ∧ (c.cw = none → t.mem = v.mem) ∧
      ScratchTook s t core y fun o b => ∃ q < boxUnits c, ∃ i < unitBytes c, o = padSide c q i ∧ b = unitByte c l q i) ∧
  (∀ s core eng k rest y c v, eng < 4 → Works s core eng k rest y → k.body = .copy c → CopyFits y c → c.st = true →
    c.kind ∈ [CopyKind.cpy, .cpyt, .cpyp, .cpyg] →
    let co := boxCo c (boxIx s core y c)
    let drops := ((List.range (boxUnits c)).filter fun q => !c.trec.inBounds (co q)).length * if isSe c.trec.fmt then 32 else 1
    (c.trec.sp = false → k.shadow = false →
      PiecesWritten core k.ctx eng k.seq true ((List.range (boxUnits c)).flatMap fun q => unitPieces s core y c (co q) q) s v →
      ∃ t, exec (.copyRetire core eng) s = .next t ∧ (c.cw = none → t.mem = v.mem) ∧ t.scr = s.scr ∧
        (ctxAt t k.ctx).ovf = satAdd 64 (ctxAt s k.ctx).ovf drops) ∧
    (c.trec.sp = true →
      (∀ q < boxUnits c, ∀ i < unitBytes c, ∀ q' < boxUnits c, ∀ i' < unitBytes c, c.trec.inBounds (co q) = true →
        c.trec.inBounds (co q') = true → recSide c.trec (co q) i = recSide c.trec (co q') i' → q = q' ∧ i = i') →
      ∃ t, exec (.copyRetire core eng) s = .next t ∧ (c.cw = none → t.mem = s.mem) ∧
        (ctxAt t k.ctx).ovf = satAdd 64 (ctxAt s k.ctx).ovf drops ∧
        ScratchTook s t core y fun o b => ∃ q < boxUnits c, ∃ i < unitBytes c, c.trec.inBounds (co q) = true ∧
          o = recSide c.trec (co q) i ∧
          b = (rdByte s.scr (scrKey core (y.addr (padSide c q i))), scrPoison s core (y.addr (padSide c q i))))) ∧
  ∀ s core eng k rest y c, eng < 4 → Works s core eng k rest y → k.body = .copy c → c.kind = .pfch →
    ∃ t, exec (.copyRetire core eng) s = .next t ∧ t.scr = s.scr ∧ ∀ a, (homeByte t a).1 = (homeByte s a).1

/-- R89 to R91, R93, R181, R182: what CPYR and CPYE leave. CPYR packs rows into vectors of 256 bytes, fills the last with
PAD, marks in a mask word for each vector where a row or the padding begins, and writes the count of vectors; elements beyond
its limit are dropped and counted. CPYE decodes canonical codes; from the first symbol that it cannot decode on, every byte is
zero and poisoned, and so all of them with a malformed table or a start beyond the stream. It takes the model's readings of
log 88. -/
def Sys2Proof.Claims.RaggedAndEntropyLoads : Prop :=
  (∀ s core eng k rest y c l v, eng < 4 → Works s core eng k rest y → k.body = .copy c → CopyFits y c → c.kind = .cpyr →
    let z := fmtUnit c.trec.fmt
    let per := 256 / z
    let lens := (List.range c.n).map fun t => leNat (scrRead s core (y.addr (c.idxOff + 4 * t)) 4)
    let nv := min ((lens.sum + per - 1) / per) c.limit
    let m := min lens.sum (nv * per)
    let pad := leBytes z c.trec.padVal
    SourcesRead core k.ctx true y false ((List.range m).map fun f =>
      let co := [coord c.c 0 + ((rowAt lens f).2 : Int), coord c.c 1 + ((rowAt lens f).1 : Int), coord c.c 2, coord c.c 3,
        coord c.c 4]
      (if c.trec.inBounds co = true then some (c.trec.elemAddr co) else none, z, pad)) s l v →
    ∃ t, ∃ mask : Nat → Nat, exec (.copyRetire core eng) s = .next t ∧ (c.cw = none → t.mem = v.mem) ∧
      (ctxAt t k.ctx).ovf = satAdd 64 (ctxAt s k.ctx).ovf (lens.sum - m) ∧
      (∀ i b, (mask i).testBit b = true ↔ b < per ∧
        ((i * per + b < m ∧ (rowAt lens (i * per + b)).2 = 0) ∨ i * per + b = m)) ∧
      ScratchTook s t core y fun o b =>
        (∃ f < m, ∃ i < z, o = c.spoff + z * f + i ∧ b = byteOf l f i) ∨
        (∃ f, m ≤ f ∧ f < nv * per ∧ ∃ i < z, o = c.spoff + z * f + i ∧ b = (pad.getD i 0, false)) ∨
        (∃ i < nv, ∃ j < 8, o = c.maskOff + 8 * i + j ∧ b = ((leBytes 8 (mask i)).getD j 0, false)) ∨
        ∃ j < 4, o = c.cntOff + j ∧ b = ((leBytes 4 nv).getD j 0, false)) ∧
  (∀ s core eng k rest y c tb v, eng < 4 → Works s core eng k rest y → k.body = .copy c → CopyFits y c → c.kind = .cpye →
    SourcesRead core k.ctx false y false [(some c.trec.ctab, 288, [])] s [tb] v →
    let e0 := c.e.getD 0 0
    let bs := tb.map (·.1)
    let counts := (List.range 16).map fun i => leNat ((bs.drop (2 * i)).take 2)
    let malformed := counts.sum = 0 ∨ 256 < counts.sum ∨
      2 ^ 16 < ((List.range 16).map fun i => counts.getD i 0 * 2 ^ (15 - i)).sum
    (0 < e0 → (tb.any (·.2) = true ∨ malformed ∨ coord c.c 0 < 0 ∨ (c.trec.dim 0 : Int) ≤ coord c.c 0) →
      ∃ t, exec (.copyRetire core eng) s = .next t ∧ (c.cw = none → t.mem = v.mem) ∧
        ScratchTook s t core y fun o b => ∃ i < e0, o = c.spoff + i ∧ b = (0, true)) ∧
    ∀ st u (p : Nat → Nat) (sym : Nat → Byte) n, 0 < e0 → tb.any (·.2) = false → ¬ malformed → 0 ≤ coord c.c 0 →
      coord c.c 0 < (c.trec.dim 0 : Int) →
      let start := (coord c.c 0).toNat
      let need := min (2 * e0) (c.trec.dim 0 - start)
      SourcesRead core k.ctx true y false [(some (c.trec.base + start), need, [])] v [st] u → st.any (·.2) = false →
      let codeAt := fun (q j x : Nat) => j < 16 ∧ x < counts.getD j 0 ∧ q + j + 1 ≤ 8 * need ∧
        streamBits (st.map (·.1)) q (j + 1) = firstCode counts j + x
      p 0 = 0 → n ≤ e0 →
      (∀ i < n, ∃ j x, codeAt (p i) j x ∧ p (i + 1) = p i + j + 1 ∧ sym i = bs.getD (32 + ((counts.take j).sum + x)) 0) →
      (n < e0 → ∀ j x, ¬ codeAt (p n) j x) →
      ∃ t, exec (.copyRetire core eng) s = .next t ∧ (c.cw = none → t.mem = u.mem) ∧
        ScratchTook s t core y fun o b => ∃ i < e0, o = c.spoff + i ∧ b = if i < n then (sym i, false) else (0, true))

/-- R239, R254: what ACCRD and ACCWR leave. ACCRD writes the elements of its rectangle that are in bounds, in format f as they
are and else rounded, poisoned as they are; it drops and counts the others, and its slot has its number. ACCWR writes every
element of the rectangle from the record, PAD out of bounds, widened, and poisoned as its source is. It takes the model's
reading of log 107. -/
def Sys2Proof.Claims.AccumulatorTransfers : Prop :=
  (∀ s core k rest y r off acc row0 col0 nrow ncol sat ft, Works s core 4 k rest y →
    k.body = .accrd r off acc row0 col0 nrow ncol sat → row0 + nrow ≤ 128 → col0 + ncol ≤ 192 →
    fmtNum r.fmt = some (.flt ft) →
    let a := r.at off 0
    let z := fmtUnit r.fmt
    let ins := fun (i j : Nat) => i < nrow ∧ j < ncol ∧ a.inBounds [(j : Int), (i : Int)] = true
    let x := fun (i j : Nat) => y.accAt ((acc * 128 + (row0 + i)) * 192 + (col0 + j))
    let out := fun (n : Nat) => if ft = .f then (n, (0 : Flags)) else roundTo (fmtOf ft) .rne false sat (f32Val n)
    (∀ i j i' j', ins i j → ins i' j' → (i, j) ≠ (i', j') →
      a.elemAddr [(j : Int), (i : Int)] + z ≤ a.elemAddr [(j' : Int), (i' : Int)] ∨
        a.elemAddr [(j' : Int), (i' : Int)] + z ≤ a.elemAddr [(j : Int), (i : Int)]) →
    ∃ t, exec (.mxRetire core) s = .next t ∧ EngineRetired s t core 4 k rest ∧ t.mem = s.mem ∧
      (ScratchTook s t core y fun o b => ∃ i j n, ins i j ∧ n < z ∧ o = a.elemAddr [(j : Int), (i : Int)] + n ∧
        b = ((leBytes z (out (x i j).1).1).getD n 0, (x i j).2)) ∧
      (ctxAt t k.ctx).ovf = satAdd 64 (ctxAt s k.ctx).ovf (((List.range (nrow * ncol)).filter fun n =>
        !a.inBounds [((n % ncol : Nat) : Int), ((n / ncol : Nat) : Int)]).length) ∧
      ∀ w, warpAt s k.warp = some w → ∃ w', warpAt t k.warp = some w' ∧
        (∀ b, w'.aflags.getLsbD b = true ↔ w.aflags.getLsbD b = true ∨ b < 7 ∧ ∃ i < nrow, ∃ j < ncol,
          ((out (x i j).1).2 &&& (fNV ||| fOF ||| fUF ||| fNX)).getLsbD b = true) ∧
        w'.slots = w.slots.map fun sl =>
          if sl.body = .accrd k.seq then { sl with body := .value (List.replicate 32 k.seq) 0 } else sl) ∧
  ∀ s core k rest y r off acc row0 col0 nrow ncol ft, Works s core 4 k rest y →
    k.body = .accwr r off acc row0 col0 nrow ncol → row0 + nrow ≤ 128 → col0 + ncol ≤ 192 →
    fmtNum r.fmt = some (.flt ft) →
    let a := r.at off 0
    let z := fmtUnit r.fmt
    let src := fun (i j : Nat) =>
      let co := [(j : Int), (i : Int)]
      if a.inBounds co = true then
        (leNat (scrRead s core (y.addr (a.elemAddr co)) z),
          (List.range z).any fun n => scrPoison s core (y.addr (a.elemAddr co + n)))
      else (a.padVal, false)
    ∃ t y', exec (.mxRetire core) s = .next t ∧ EngineRetired s t core 4 k rest ∧ t.scr = s.scr ∧ t.mem = s.mem ∧
      crewAt t k.crew = some y' ∧ ∀ b i j, i < 128 → j < 192 →
        y'.accAt ((b * 128 + i) * 192 + j) =
          if b = acc ∧ row0 ≤ i ∧ i < row0 + nrow ∧ col0 ≤ j ∧ j < col0 + ncol then
            let x := src (i - row0) (j - col0)
            ((if ft = .f then x.1 else (rneF32 (unpack (fmtOf ft) false x.1)).1) % 2 ^ 32, x.2)
          else y.accAt ((b * 128 + i) * 192 + j)

/-- R244 to R246: a WBLD that retires fills its region: element m of group t and column n is that of coordinates
(C0 + 16 t + m, C1 + n) of its record, PAD out of bounds; of an SE record the half-block of its 16 signs, its magnitudes and
its scale. A stretch that takes a poisoned byte is marked, and no other. The region is valid unless another load of it is
still to come or it has been made invalid meanwhile. -/
def Sys2Proof.Claims.RegionLoads : Prop :=
  ∀ s core k rest y r fr ng c0 c1 l v, Works s core 4 k rest y → k.body = .wbld r fr ng c0 c1 → c0 % 16 = 0 →
    let z := fmtUnit r.fmt
    let pad := fun (n : Nat) => leBytes n r.padVal
    let co := fun (t n m : Nat) => [c0 + ((16 * t + m : Nat) : Int), c1 + (n : Int)]
    let ok := fun (t n m a : Nat) => if r.inBounds (co t n m) = true then some a else none
    let half := fun (t : Nat) => ((c0 / 16 + (t : Int)) % 2).toNat
    ((∃ ft, fmtNum r.fmt = some (.flt ft)) →
      SourcesRead core k.ctx false y r.sp ((List.range (ng * 192 * 16)).map fun q =>
        let m := q % 16
        let n := q / 16 % 192
        let t := q / (16 * 192)
        (ok t n m (r.elemAddr (co t n m)), z, pad z)) s l v →
      ∃ u y' g, exec (.mxRetire core) s = .next u ∧ EngineRetired s u core 4 k rest ∧ u.mem = v.mem ∧ u.scr = s.scr ∧
        crewAt u k.crew = some y' ∧ look? y'.firn fr = some g ∧
        (∀ t < ng, ∀ n < 192, ∀ m < 16, look g.data (t * 192 + n) 0 / 2 ^ (8 * z * m) % 2 ^ (8 * z) =
          leNat ((l.getD ((t * 192 + n) * 16 + m) []).map (·.1))) ∧
        (∀ x, look g.pois x false = true ↔ ∃ q < ng * 192 * 16, ∃ i < z, (byteOf l q i).2 = true ∧ (z * q + i) / 32 = x) ∧
        g.st = (if (look y.firn fr Firn.invalid).st = .loading ∧ loadsLater s core k fr = false then .valid
          else (look y.firn fr Firn.invalid).st)) ∧
    ∀ m, fmtSe r.fmt = some m →
      let n2 := 2 * seWidth m
      SourcesRead core k.ctx false y r.sp ((List.range (ng * 192 * 3)).map fun q =>
        let n := q / 3 % 192
        let t := q / (3 * 192)
        let e := r.elemAddr (co t n 0)
        if q % 3 = 0 then (ok t n 0 (e + 2 * half t), 2, pad 2)
        else if q % 3 = 1 then (ok t n 0 (e + 4 + n2 * half t), n2, pad n2)
        else (ok t n 0 (r.scaleAddr (co t n 0)), 2, pad 2)) s l v →
      ∃ u y' g, exec (.mxRetire core) s = .next u ∧ EngineRetired s u core 4 k rest ∧ u.mem = v.mem ∧ u.scr = s.scr ∧
        crewAt u k.crew = some y' ∧ look? y'.firn fr = some g ∧
        (∀ t < ng, ∀ n < 192, look g.data (t * 192 + n) 0 =
          leNat (((List.range 3).flatMap fun i => l.getD ((t * 192 + n) * 3 + i) []).map (·.1)) +
            half t * 2 ^ (8 * (4 + n2))) ∧
        (∀ x, look g.pois x false = true ↔ ∃ q < ng * 192 * 3, ∃ i, (byteOf l q i).2 = true ∧
          ((4 + n2) * (q / 3) + (if q % 3 = 0 then 0 else if q % 3 = 1 then 2 else 2 + n2) + i) / 32 = x) ∧
        g.st = (if (look y.firn fr Firn.invalid).st = .loading ∧ loadsLater s core k fr = false then .valid
          else (look y.firn fr Firn.invalid).st)

/-- R263, R264: TSPILL writes the image of its table, which stays as it is; TFILL makes of an image with a fitting tag the
table that it was, stale where it was or where the crew's wrap counter has moved on, and of any other an empty one. -/
def Sys2Proof.Claims.TableSpills : Prop :=
  (∀ s core k rest y n va img v, Works s core 5 k rest y → k.body = .tspill n va →
    (look y.tables n Table.empty).src.length ≤ 2 →
    (∀ p ∈ (look y.tables n Table.empty).src, p.1 < 2 ^ 10 ∧ p.2 < 2 ^ 16) →
    Claims.SpillImage s k.ctx y (look y.tables n Table.empty) img →
    PiecesWritten core k.ctx 5 k.seq false ((cut32 va 8256).map fun p => (va + p.1, (img.drop p.1).take p.2, false)) s v →
    ∃ t, exec (.lkRetire core) s = .next t ∧ t.mem = v.mem ∧ t.scr = s.scr ∧ crewAt t k.crew = some y) ∧
  ∀ s core k rest y n va l v, Works s core 5 k rest y → k.body = .tfill n va →
    SourcesRead core k.ctx false y false [(some va, 8256, [])] s [l] v → cmdWritesDone v core 5 k.seq 5 = true →
    let img := l.map (·.1)
    let word := fun (o : Nat) => leNat ((img.drop o).take 8)
    let np := bits (word 8192) 5 2
    let bad := l.any (·.2) = true ∨ bits (word 8192) 25 39 ≠ 0 ∨ bits (word 8192) 7 9 ≠ 0 ∨ bits (word 8192) 0 1 = 1 ∨
      bits (word 8200) 26 6 ≠ 0 ∨ bits (word 8200) 10 6 ≠ 0 ∨ bits (word 8208) 32 32 ≠ 0 ∨
      (∃ i < 32, img.getD (8216 + i) 0 ≠ 0) ∨ (∃ i < np, y.pages ≤ bits (word 8200) (16 * i) 10) ∨
      (img.drop 8248).take 8 ≠ shake256 (leBytes 32 (ctxAt s k.ctx).spillKey.toNat ++ img.take 8248) 8
    np ≠ 3 →
    ∃ t y', exec (.lkRetire core) s = .next t ∧ EngineRetired v t core 5 k rest ∧ t.scr = s.scr ∧ t.mem = v.mem ∧
      crewAt t k.crew = some y' ∧
      (∀ m, m ≠ n → look y'.tables m Table.empty = look y.tables m Table.empty) ∧
      let b := look y'.tables n Table.empty
      (bad ∨ bits (word 8192) 0 2 = 2 → b = Table.empty) ∧
      (¬ bad → bits (word 8192) 0 2 = 0 → b.built = true ∧
        (∀ i < 2048, (look b.ent i 0).toNat = leNat ((img.drop (4 * i)).take 4)) ∧ b.et = sext 9 (bits (word 8192) 16 9) ∧
        (b.nan = true ↔ bits (word 8192) 2 1 = 1) ∧ (b.pois = true ↔ bits (word 8192) 3 1 = 1) ∧
        b.src = (List.range np).map (fun i => (bits (word 8200) (16 * i) 10, bits (word 8200) (32 + 16 * i) 16)) ∧
        (b.stale = true ↔ bits (word 8192) 4 1 = 1 ∨ bits (word 8208) 0 32 ≠ y.wrap.toNat))

/-! ## Scheduling -/

/-- R315, R339 to R342: a free holder takes the first ready warp, which starts a run, or completes its parked trailer and
starts the next run; a suspended one resumes at its instruction. A ready warp that has waited for 4,096 clocks (the model
counts tenths) is promoted. A
SLEEP whose delay has passed is complete, and its warp waits for a holder. -/
def Sys2Proof.Claims.WarpScheduling : Prop :=
  (∀ s core q w, NextUp s core q w → w.st = .ready →
    exec (.runStart core q) s =
      .next (setWarp { s with serial := s.serial + 1 } w.key { w with
        st := .running, holder := freeOne s core q, lastStart := some s.serial, promoted := false, readyClk := 0 })) ∧
  (∀ s core q w m b, NextUp s core q w → w.st = .parked m b → w.run.trp = none → w.back = none →
    ∃ t, exec (.runStart core q) s = .next t ∧ (∀ j, j ≠ w.key → warpAt t j = warpAt s j) ∧
      warpAt t w.key = some (leftHolder { w with
        pc := match w.run.ct with
          | some pc => pc
          | none => w.pc + 4
        run := RunState.start, runNo := w.runNo + 1, code := none, st := .running, holder := freeOne s core q
        lastStart := some s.serial, promoted := false, readyClk := 0 })) ∧
  (∀ s k w b, warpAt s k = some w → w.key = k → w.st = .blocked b → NextUp s w.core w.quarter w →
    exec (.blockedRunResume k) s = .next (setWarp s k
      { w with st := .running, holder := freeOne s w.core w.quarter, promoted := false, readyClk := 0 })) ∧
  (∀ s k w, warpAt s k = some w → readyFor s w = true → w.inHolder = false → 40960 ≤ w.readyClk →
    exec (.priorityPromote k) s = .next (setWarp s k { w with promoted := true })) ∧
  ∀ s k w n, warpAt s k = some w → w.st = .blocked (.sleep n) → n ≤ s.time →
    exec (.sleepExpire k) s = .next (retire (setWarp s k { w with st := .blocked .done }) k { size := 4, weight := 4 })

/-- R314, R354, R355: the one request of a quarter that fits is granted: status 0, and the new allocation holds. Where every
resident warp of the quarter waits in REGRS, none held by a calving request, and none fits, the one of lowest prio, ties to the highest slot, is denied:
status 1, and its allocation stays. -/
def Sys2Proof.Claims.RegisterRequests : Prop :=
  (∀ s w n d, WaitsRegrs s w n d → w.exec ≠ 0 → DestHere w d 1 → regrsWaiters s w.core w.quarter = [(w, n)] →
    regsFit s w n = true →
    ∃ w1 w2, exec (.regrsGrant w.core w.quarter) s = .next (retire (setWarp s w.key w2) w.key { size := 4, weight := 4 }) ∧
      Resulted w w1 d 1 (fun _ => 0) ∧ w2.alloc = n ∧ w2.st = .blocked .done ∧ w2.run = w1.run ∧ w2.aflags = w1.aflags ∧
      (∀ r < min w.alloc n, w2.vreg r = w1.vreg r) ∧ ∀ r < n, w.alloc ≤ r → w2.vreg r = Lanes.zero) ∧
  ∀ s w n d, WaitsRegrs s w n d → w.exec ≠ 0 → DestHere w d 1 → (w, n) ∈ regrsWaiters s w.core w.quarter →
    (∀ x ∈ quarterWarps s w.core w.quarter, ∃ n', x.st = .blocked (.regrs n') ∧ regsFit s x n' = false ∧
      calveHolds s x = false) →
    (∀ x ∈ regrsWaiters s w.core w.quarter,
      x = (w, n) ∨ w.prio.toNat < x.1.prio.toNat ∨ (w.prio = x.1.prio ∧ x.1.slot < w.slot)) →
    ∃ w1, exec (.regrsDeny w.core w.quarter) s =
        .next (retire (setWarp s w.key { w1 with st := .blocked .done }) w.key { size := 4, weight := 4 }) ∧
      Resulted w w1 d 1 (fun _ => 1) ∧ w1.alloc = w.alloc

/-! ## Traps -/

/-- R154, R381, R382, R385, R386: a trap that waited is delivered once nothing is outstanding: the handler is entered with
the run state in the shadow and a TRAP entry pushed; with traps masked or no handler the warp makes a fault stop with a
KIND 1 record. Poison held against a warp is delivered one trap at a time, at the instruction that has not issued. The
trailer of the JOIN that popped the TRAP entry restores the trap mask and the saved run, and leaves the restart progress
that JOIN has restored. A TRAP whose trailer found results outstanding enters its handler, or goes to the target that its
frame has named since, once they have returned. It takes the model's readings of log 36 and 86. -/
def Obligations.TrapEntryAndReturn : Prop :=
  (∀ s k w t, warpAt s k = some w → w.pend = some t → w.run.trp = none → MayEnter s w →
    exec (.trapDeliver k) s = .next (Entered s k w (inHandler s w t w.run))) ∧
  (∀ s k w t u, warpAt s k = some w → w.pend = some t → w.run.trp = some (u, false) → w.drained = true → MayStart s w →
    exec (.trapDeliver k) s = .next (Entered s k w { w with
      shadow := some { run := RunState.start, prog := w.prog, runNo := w.runNo }, progHeld := true, tm := true
      tcause := BitVec.ofNat 64 u.cause, taddr := u.addr, tinfo := tinfoOf u, pc := w.run.ct.getD (u.resume + 64 * u.cause)
      run := RunState.start, runNo := w.runNo + 2, code := none, pend := none, back := none, tblPages := none })) ∧
  (∀ s k w t ts, warpAt s k = some w → w.pend = none → w.held = t :: ts → w.run.limm = [] →
    (w.st = .running ∨ ∃ m b, w.st = .parked m b) → MayEnter s w →
    exec (.trapDeliver k) s = .next (Entered s k w (inHandler s { w with held := ts } { t with resume := w.pc } w.run))) ∧
  (∀ s k w t, warpAt s k = some w → w.pend = some t → w.run.trp = none → w.drained = true →
    w.tm = true ∨ (ctxAt s w.ctx).tvec = 0 → frameWalks s w = false →
    ∃ u w' r, exec (.trapDeliver k) s = .next u ∧ warpAt u k = some w' ∧
      w' = { w with st := .stopped, pc := t.resume, code := none, pend := none } ∧
      (ctxAt u w.ctx).waiting = (ctxAt s w.ctx).waiting ++ [r] ∧ r.kind = 1 ∧ r.crew = w.crew ∧ r.warp = w.idx ∧
      r.cause = t.cause ∧ r.addr = t.addr ∧ r.info = tinfoOf t) ∧
  ∀ mask sBit y s w tm h, warpAt s s.cur = some w → mayIssue s w = true → w.run.limm = [] → w.run.trp = none →
    w.back = some (tm, true) → w.shadow = some h → w.slots = [] →
    ∃ keep : Bool, ∃ t w', exec (.trl mask sBit y) s = .next t ∧
      w' = { w with
        pc := match w.run.ct with
          | some pc => pc
          | none => w.pc + 4
        tm := tm, shadow := none, back := none, progHeld := false, run := h.run, runNo := w.runNo + 1
        code := none, st := if keep then .running else .ready
        lastStart := if keep then some s.serial else w.lastStart
        promoted := if keep then false else w.promoted
        readyClk := if keep then 0 else w.readyClk } ∧
      (∀ j, j ≠ s.cur → warpAt t j = warpAt s j) ∧
      (w.calveWait = false ∨ tm = true → warpAt t s.cur = some w') ∧
      (w.calveWait = true → tm = false → ∃ w'', warpAt t s.cur = some w'' ∧ w''.st = .ready ∧ w''.calveWait = false ∧
        w''.tm = false ∧ w''.prog = w.prog ∧ w''.run.ofile = h.run.ofile)

/-- R148, R149, R155, R316, R380: where an instruction traps. A run longer than 24 instructions, a seventh long-latency
instruction, and a control transfer that no trailer follows are ILLEGAL_RUN; CSRR and CSRW outside a privileged context are
PRIV, before any check of their operands; a register at or beyond the allocation is ILLEGAL_OPERAND even with no active
lane; a LIMM chain before an instruction that takes none is ILLEGAL_ENC with its word; a JOIN of an empty stack is
STACK_OVF with info 1. It takes the model's readings of log 22, 25, 26 and 27. -/
def Sys2Proof.Claims.RunAndPrivilegeTraps : Prop :=
  (∀ s w, Trappable s w → 24 ≤ w.run.pos → Traps .nop s w 1 0 ∧ (∀ d r, Traps (.csrr d r) s w 1 0) ∧
    ∀ f, Traps (.iadd f) s w 1 0) ∧
  (∀ s w d, Trappable s w → w.run.pos < 24 → 6 ≤ w.run.taken → Traps (.rds d ⟨20, by decide⟩) s w 1 0) ∧
  (∀ s w, Trappable s w → w.run.pos < 24 → nextIsTrl w 4 = false →
    (∀ off, Traps (.bra off) s w 1 0 ∧ Traps (.pj off) s w 1 0 ∧ Traps (.call off) s w 1 0) ∧
    (∀ off a c z, Traps (.brc off a c) s w 1 0 ∧ Traps (.brx off a z) s w 1 0 ∧ Traps (.brk a z) s w 1 0) ∧
    (∀ a, Traps (.jmpr a) s w 1 0 ∧ Traps (.callr a) s w 1 0) ∧ Traps .join s w 1 0 ∧ Traps .exit s w 1 0) ∧
  (∀ s w, Trappable s w → w.run.pos < 24 → (ctxAt s w.ctx).prv = false →
    (∀ d r, Traps (.csrr d r) s w 4 0) ∧ ∀ r a, Traps (.csrw r a) s w 4 0) ∧
  (∀ s w n r, Trappable s w → w.run.pos < 24 → (ctxAt s w.ctx).prv = true → w.alloc ≤ n.val →
    Traps (.csrr (.v n) r) s w 2 0) ∧
  (∀ s w x xs, warpAt s s.cur = some w → mayIssue s w = true → w.run.limm = x :: xs → MayEnter s w → ∀ d a,
    ∃ t, exec (.mskrd d a) s = .next (Entered s s.cur w t) ∧ t.tcause = 0 ∧ t.tm = true ∧ t.taddr = BitVec.ofNat 64 w.pc ∧
      bits t.tinfo.toNat 32 32 = encode (.mskrd d a) ∧
      ∃ e, t.stack = e :: w.stack ∧ e.kind = .trap ∧ e.pc = (w.pc - 4 * w.run.limm.length) % 2 ^ 56 / 2 * 2 ∧ e.mask = w.exec) ∧
  ∀ s w, Trappable s w → w.run.pos < 24 → nextIsTrl w 4 = true → w.stack = [] → Traps .join s w 16 1

/-- R101, R102, R105, R106, R114, R149, R155, R380: the checks that the lane instructions, the lane loads and stores and the
atomics make of their operands, in R155's order: ILLEGAL_RUN, a register beyond the allocation, an operand-file entry not
written or a missing last result, IDX_RANGE, REG_UE, and in hazard-check mode HAZARD. It takes the model's reading of log 22. -/
def Sys2Proof.Claims.OperandTraps : Prop :=
  (∀ f : AluOp, ∀ i ∈ [Instr.iadd f, .isub f, .iadds f, .isubs f, .imul f, .imulh f, .imin f, .imax f, .and f, .or f, .xor f,
      .andn f, .shl f, .shr f, .sra f, .rot f, .bfx f, .bfxs f, .iseteq f, .isetne f, .isetlt f, .isetle f, .isetgt f,
      .isetge f, .itest f],
    OperandChecks i false [(f.a, f.w.regs), (f.b, f.w.regs)] [(dstOpnd f.d, f.w.regs)]) ∧
  (∀ f : AluOp, ∀ i ∈ [Instr.imad f, .sel f, .bfi f],
    OperandChecks i false [(f.a, f.w.regs), (f.b, f.w.regs), (dstOpnd f.d, f.w.regs)] [(dstOpnd f.d, f.w.regs)]) ∧
  (∀ f : AluUn, ∀ i ∈ [Instr.iabs f, .ineg f, .mov f, .popc f, .clz f, .ctz f, .brev f],
    OperandChecks i false [(f.a, f.w.regs)] [(dstOpnd f.d, f.w.regs)]) ∧
  (∀ f : FltOp, ∀ i ∈ [Instr.fadd f, .fsub f, .fmul f, .fmin f, .fmax f, .fseteq f, .fsetne f, .fsetlt f, .fsetle f,
      .fsetgt f, .fsetge f, .fsetun f],
    OperandChecks i false [(f.a, f.w.regs), (f.b, f.w.regs)] [(dstOpnd f.d, f.w.regs)]) ∧
  (∀ f : FltOp, OperandChecks (.ffma f) false [(f.a, f.w.regs), (f.b, f.w.regs), (dstOpnd f.d, f.w.regs)]
    [(dstOpnd f.d, f.w.regs)]) ∧
  (∀ f : FltUn, ∀ i ∈ [Instr.fabs f, .fneg f, .frnd f, .fclass f],
    OperandChecks i false [(f.a, f.w.regs)] [(dstOpnd f.d, f.w.regs)]) ∧
  (∀ f : FltUn, ∀ i ∈ [Instr.frcp f, .frsq f, .fsqrt f, .fexp2 f, .flog2 f, .fsin f, .fcos f],
    OperandChecks i true [(f.a, f.w.regs)] [(dstOpnd f.d, f.w.regs)]) ∧
  (∀ f : LoadOp, ∀ i ∈ [Instr.ldg f, .lds f], OperandChecks i true [(f.a, 1)] [(dstOpnd f.d, f.w.regs)]) ∧
  (∀ f : StoreOp, ∀ i ∈ [Instr.stg f, .sts f], OperandChecks i true [(f.a, 1), (f.d, f.w.regs)] []) ∧
  ∀ f : AtomGOp, OperandChecks (.atomg f) true [(f.a, 1), (dstOpnd f.d, 1)] [(dstOpnd f.d, 1)]

/-- R45, R74, R272, R379, R380: a lane load, store or atomic whose earlier checks pass traps, before it has any effect, with
the cause of its lowest active lane whose address fails: ALIGN, PAGE, POISON, PROT or ABSENT. -/
def Sys2Proof.Claims.AddressChecksTrap : Prop :=
  (∀ f : LoadOp, AddressTraps (.ldg f) (loadShape f false) (loadForm f false) ∧
    AddressTraps (.lds f) (loadShape f true) (loadForm f true)) ∧
  (∀ f : StoreOp, AddressTraps (.stg f) (storeShape f false) (storeForm f false) ∧
    AddressTraps (.sts f) (storeShape f true) (storeForm f true)) ∧
  (∀ f : AtomGOp, AddressTraps (.atomg f) (atomShape f.d f.a false false)
    (atomForm f.a f.imm.val (if f.wide then 8 else 4) (.atomG f.wide f.op) f.ord f.scope false)) ∧
  ∀ f : AtomXOp, AddressTraps (.atomx f) (atomShape f.d f.a (f.op == .cas32 || f.op == .cas64) false)
    (atomForm f.a f.imm.val (if f.op = .xchg64 ∨ f.op = .cas64 then 8 else 4) (.atomX f.op) f.ord f.scope false)

/-! ## Returns and ends -/

/-- R60, R122, R150, R152, R170, R173, R273, R275, R287 to R289, R297: SLOT_RETURN. A known result, a loaded value, a
received message, a status word: each is written in the lanes active at issue, and the slot is free. Poison in a load
writes no lane and is held. A fence returns when its condition holds; a released arrival is counted, a released send
leaves. It takes the model's reading of log 11. -/
def Obligations.ResultReturn : Prop :=
  ∀ s k w sl, Outstanding s k w sl →
    (∀ vals fl, sl.body = .value vals fl →
      ∃ w', exec (.slotReturn k sl.id) s = .next (setWarp s k w') ∧
        SlotWritten w w' sl sl.mask (fun l => vals.getD l 0) ∧ w'.aflags = w.aflags ||| fl.setWidth 12 ∧ w'.held = w.held) ∧
    (∀ accs sx, sl.body = .access accs sx → (∀ a ∈ accs, a.done = true) → accessReturns s w sl = true →
      (sl.stores = true → ∃ w', exec (.slotReturn k sl.id) s = .next (setWarp s k w') ∧
        w' = { w with slots := w.slots.filter fun x => x.id != sl.id }) ∧
      (sl.stores = false → (∀ a ∈ accs, a.pois = false) →
        ∃ w', exec (.slotReturn k sl.id) s = .next (setWarp s k w') ∧ w'.held = w.held ∧ w'.aflags = w.aflags ∧
          SlotWritten w w' sl sl.mask fun l =>
            match firstOf (fun a => a.lane == l) accs with
            | none => 0
            | some a => if sx then wrap 64 (sext (8 * a.size) a.val) else a.val) ∧
      (sl.stores = false → sl.loads = true → ∀ a ∈ accs, a.lane < 32 → a.pois = true →
        ∃ w' t, exec (.slotReturn k sl.id) s = .next (setWarp s k w') ∧ w'.held = w.held ++ [t] ∧ w'.main = w.main ∧
          w'.run = w.run ∧ t.cause = 11 ∧ t.ret = true ∧ t.slot = sl.idx ∧ t.pos = sl.pos)) ∧
    (∀ fk, sl.body = .fence fk → fenceDone s w sl.id fk sl.scope = true →
      exec (.slotReturn k sl.id) s = .next (setWarp s k { w with slots := w.slots.filter fun x => x.id != sl.id })) ∧
    (∀ vals, sl.body = .recv vals → ∃ w', exec (.slotReturn k sl.id) s = .next (setWarp s k w') ∧
      SlotWritten w w' sl sl.mask (fun l => vals.getD l 0) ∧ w'.aflags = w.aflags ∧ w'.held = w.held) ∧
    (∀ word item vc acq, sl.body = .status word item vc acq → ∃ t w', exec (.slotReturn k sl.id) s = .next t ∧
      warpAt t k = some w' ∧ w'.items = item.getD w.items ∧ (∀ j, j ≠ k → warpAt t j = warpAt s j) ∧
      SlotWritten w { w' with items := w.items } sl sl.mask fun l => if l < 32 then word else 0) ∧
    (∀ b, sl.body = .arrive b → mayArrive s w sl.id sl.scope = true →
      exec (.slotReturn k sl.id) s =
        .next (countArrival (setWarp s k { w with slots := w.slots.filter fun x => x.id != sl.id }) w.crewK b)) ∧
    ∀ m, sl.body = .send m → heldBack w sl.id false = false →
      (∀ x ∈ w.slots, x.id < sl.id → ∀ m', x.body = .send m' → m'.sr ≠ m.sr) →
      ∃ t, exec (.slotReturn k sl.id) s = .next t ∧
        warpAt t k = some { w with slots := w.slots.filter fun x => x.id != sl.id } ∧
        ∃ m', t.links.msgs = s.links.msgs ++ [m'] ∧ m' = { m with vc := m'.vc }

/-- R307, R331, R386, R387, R395, R420: an ended warp with nothing outstanding goes; with the last warp of its crew the crew has
exited, LIVEC falls, and at 0 the launch is over and the launch-done interrupt is raised. A waiting fault record is written
at TAIL of the ring, TAIL advances modulo 256, and the fault interrupt is raised; with the ring full it waits for a write
of HEAD or of the ring base. Nothing must hold the record's line or walk back. A write of HEAD moves HEAD. Where no warp of the quarter waits in REGRS
the other warps stay as they are. It takes the model's readings of log 38 and 46. -/
def Obligations.EndsAndRecords : Prop :=
  (∀ s k w, warpAt s k = some w → keysRise s.warps = true → (∀ e ∈ s.warps, e.2.key = e.1) → w.st = .ended →
    w.slots = [] → w.held = [] → stagedBefore s k w.nextSlot 5 = false → w.sampleOpen = false →
    ∃ t, exec (.warpEnd k) s = .next t ∧ warpAt t k = none ∧
      ((∀ x ∈ quarterWarps s w.core w.quarter, ∀ n, x.st ≠ .blocked (.regrs n)) →
        ∀ j, j ≠ k → warpAt t j = warpAt s j) ∧
      ((∃ e ∈ s.warps, e.1 ≠ k ∧ e.2.crewK = w.crewK) → ∀ j, crewAt t j = crewAt s j) ∧
      ((∀ e ∈ s.warps, e.1 ≠ k → e.2.crewK ≠ w.crewK) → ∀ y, crewAt s w.crewK = some y →
        crewAt t w.crewK = some { y with st := .exited } ∧ (ctxAt t y.ctx).livec = (ctxAt s y.ctx).livec - 1 ∧
        t.stream = s.stream ++ [.exit y.ctx y.id] ∧
        ((ctxAt s y.ctx).livec ≤ 1 → (ctxAt t y.ctx).state = 0 ∧ (ctxAt t y.ctx).det = false ∧
          t.glob.irqs = s.glob.irqs ++ [2 * y.ctx]) ∧
        (1 < (ctxAt s y.ctx).livec → (ctxAt t y.ctx).state = (ctxAt s y.ctx).state ∧ t.glob.irqs = s.glob.irqs))) ∧
  (∀ s ctx, (ctxAt s ctx).recHeld = false → (ctxAt s ctx).waiting ≠ [] →
    ((ctxAt s ctx).tail + 1) % 256 = (ctxAt s ctx).head → s.mem.posted = [] →
    walkWaits s ctx ((ctxAt s ctx).frBase + 64 * (ctxAt s ctx).tail) = false →
    exec (.faultRecordWrite ctx) s = .next (setCtx s ctx { ctxAt s ctx with recHeld := true })) ∧
  (∀ s ctx r rest pa pte, (ctxAt s ctx).recHeld = false → (ctxAt s ctx).waiting = r :: rest →
    ((ctxAt s ctx).tail + 1) % 256 ≠ (ctxAt s ctx).head → s.mem.posted = [] →
    walkWaits s ctx ((ctxAt s ctx).frBase + 64 * (ctxAt s ctx).tail) = false → writeWaits s pa 64 (pteMt pte != 0) = false →
    sysTranslate s ctx ((ctxAt s ctx).frBase + 64 * (ctxAt s ctx).tail) 64 .write true = .ok pa pte →
    ∃ t, exec (.faultRecordWrite ctx) s = .next t ∧
      (∃ e, ctxAt t ctx = { ctxAt s ctx with
        waiting := rest, pendRecs := (ctxAt s ctx).pendRecs ++ [r], tail := ((ctxAt s ctx).tail + 1) % 256, energy := e }) ∧
      t.glob.irqs = s.glob.irqs ++ [2 * ctx + 1] ∧
      t.mem = (sysWrite s pa (leBytes 8 (r.kind * 2 ^ 56 + r.crew % 2 ^ 16 * 2 ^ 40 + r.vcore % 2 ^ 8 * 2 ^ 32 +
        r.warp % 16 * 2 ^ 28 + r.eng % 16 * 2 ^ 24 + r.cause % 64) ++ leBytes 8 r.addr.toNat ++ leBytes 8 r.seq ++
        leBytes 8 r.info.toNat ++ List.replicate 32 0) false (pteMt pte != 0) (some ctx)).mem) ∧
  ∀ s a ctx val, mayPage s a ctx = true → ∃ t, exec (.faultRingHeadWrite a ctx val) s = .next t ∧
    ctxAt t ctx = { ctxAt s ctx with head := bits val.toNat 8 8, recHeld := false } ∧ ∀ n, n ≠ ctx → ctxAt t n = ctxAt s n

/-- R278, R283, R385, R388, R393, R424: the resolve actions of system software, where a pending record matches. It takes the model's
reading of log 70. -/
def Obligations.ResolveActions : Prop :=
  (∀ s a ctx val w,
    MayResolve s a ctx (fun r => r.kind == 1 && r.crew == rsCrew val && r.vcore == rsVcore val && r.warp == rsWarp val) →
    warpAt s (warpKey (crewKey ctx (rsCrew val)) (rsWarp val)) = some w → w.st = .stopped → frameWaits s w = false →
    ∃ t w', exec (.resolveRetryWarp a ctx val) s = .next t ∧
      w' = readFrame (takeRecord (noteResolve s ctx val 1) ctx (stopRecord val)) w ∧
      (Bounded w' →
        warpAt t (warpKey (crewKey ctx (rsCrew val)) (rsWarp val)) = some { w' with st := .ready }) ∧
      (¬ Bounded w' → ∃ w'',
        warpAt t (warpKey (crewKey ctx (rsCrew val)) (rsWarp val)) = some w'' ∧ w''.st = .stopped) ∧
      ∀ j, j ≠ warpKey (crewKey ctx (rsCrew val)) (rsWarp val) → warpAt t j = warpAt s j) ∧
  (∀ s a ctx val, MayResolve s a ctx (fun r => r.kind == 1 && r.crew == rsCrew val && r.vcore == rsVcore val) →
    keysRise s.warps = true → (∀ e ∈ s.warps, e.2.key = e.1) →
    ∃ t, exec (.resolveEndCrew a ctx val) s = .next t ∧
      (∀ k w, warpAt s k = some w → w.crewK = crewKey ctx (rsCrew val) → w.st ≠ .ended → ∃ w', warpAt t k = some w' ∧
        w'.st = .ended ∧ w'.live = 0 ∧ w'.exec = 0 ∧ w'.stack = [] ∧ w'.main = w.main ∧ w'.slots = w.slots ∧
        w'.outEnd = (w.st != .running)) ∧
      (∀ k w, warpAt s k = some w → w.st = .ended → warpAt t k = some w) ∧
      (∀ k w, warpAt s k = some w → w.crewK ≠ crewKey ctx (rsCrew val) → warpAt t k = some w) ∧
      ∀ r ∈ (ctxAt t ctx).pendRecs, ¬ (r.kind = 1 ∧ r.crew = rsCrew val ∧ r.vcore = rsVcore val)) ∧
  (∀ s a ctx val core c rest f,
    MayResolve s a ctx (fun r => r.kind == 2 && r.vcore == rsVcore val && r.eng == rsEng val) → rsEng val < 6 →
    vcoreCore s ctx (rsVcore val) = some core → queueAt s (queueKey core (rsEng val)) = c :: rest → c.ctx = ctx →
    c.fault = some f →
    (∃ t, exec (.resolveRetryEngine a ctx val) s = .next t ∧
      queueAt t (queueKey core (rsEng val)) = { c with fault := none } :: rest ∧
      ∀ n, n ≠ queueKey core (rsEng val) → queueAt t n = queueAt s n) ∧
    ∃ t, exec (.resolveAbandon a ctx val) s = .next t ∧
      (let p := timelineAt s (tlKey core ctx (rsEng val))
       let p' := timelineAt t (tlKey core ctx (rsEng val))
       p'.p = (if p.p = 0 then c.seq else p.p) ∧ p'.t = (if c.reload then p.t else c.seq) ∧ p'.next = p.next) ∧
      queueAt t (queueKey core (rsEng val)) =
        rest.map fun d => if d.ctx = ctx ∧ c.seq ≤ d.seq then { d with discard := true } else d) ∧
  (∀ s a ctx val r fault, MayResolve s a ctx (fun r => r.kind == 2 && r.vcore == rsVcore val && r.eng == rsEng val) →
    rsEng val = 6 → look? (ctxAt s ctx).rings (rsVcore val) = some r → r.fault = some fault →
    (∃ t, exec (.resolveRetryEngine a ctx val) s = .next t ∧
      look? (ctxAt t ctx).rings (rsVcore val) = some
        { r with fault := none, stat := if r.head = r.tail then 0 else 1 }) ∧
    ∃ t r', exec (.resolveAbandon a ctx val) s = .next t ∧ look? (ctxAt t ctx).rings (rsVcore val) = some r' ∧
      r'.tl.p = (if r.tl.p = 0 then r.tl.t + 1 else r.tl.p) ∧ r'.tl.t = r.tl.t + 1 ∧ r'.fault = none ∧ r'.cmd = none) ∧
  (∀ s a ctx val core, mayPage s a ctx = true → rsEng val < 6 → vcoreCore s ctx (rsVcore val) = some core →
    ∃ t, exec (.resolveClearP a ctx val) s = .next t ∧
      timelineAt t (tlKey core ctx (rsEng val)) = { timelineAt s (tlKey core ctx (rsEng val)) with p := 0 }) ∧
  ∀ s a ctx val r, mayPage s a ctx = true → rsEng val = 6 → look? (ctxAt s ctx).rings (rsVcore val) = some r →
    ∃ t, exec (.resolveClearP a ctx val) s = .next t ∧
      look? (ctxAt t ctx).rings (rsVcore val) = some { r with tl := { r.tl with p := 0 } }

/-! ## Accesses performed -/

/-- R63, R66, R76, R98, R269, R272, R273: a lane's access to the partner core's scratchpad, to a remote package or to its own
core's scratchpad is performed on the bytes there: a load finds them, a store writes them, an atomic finds the old value and
writes the new one unless a unit that it reads is poisoned, which its lane then takes. No other byte and no other warp changes.
A slot's accesses to its own core's scratchpad, with nothing before them, are performed one after the other in ascending lane.
It takes the model's reading of log 33. -/
def Obligations.ScratchpadAndRemoteAccesses : Prop :=
  (∀ s k w sl a core x, Due s k w sl a → a.loc = .scratch core x true → remoteInOrder w sl a.lane = true →
    sbStalls s core x (x + a.size) a.op.writes = false → 0 < a.size → x % 32 + a.size ≤ 64 →
    ∃ t v, exec (.remoteHalfAccess k sl.id a.lane) s = .next t ∧
      LaneDone t k sl a.lane v (if a.op = .store then false else scrAnyPoison s core x a.size) ∧
      BytesDone s.scr t.scr (scrKey core x) a v (scrAnyPoison s core x a.size) ∧ t.mem.chan = s.mem.chan ∧
      t.mem.lines = s.mem.lines ∧ ∀ j, j ≠ k → warpAt t j = warpAt s j) ∧
  (∀ s k w sl a pa port, Due s k w sl a → a.loc = .fabric pa → w.sample = none →
    privateVa s w.ctx a.addr = false → portOf s (fabricPkg pa) = some port → (k, sl.id, a, fabricPkg pa) ∈ fabricAccs s →
    (∀ e ∈ fabricAccs s, e = (k, sl.id, a, fabricPkg pa) ∨ portOf s e.2.2.2 ≠ some port ∨ a.ser < e.2.2.1.ser) →
    (∀ x ∈ s.mem.posted, x.onPort s (fabricPkg pa) = true → a.ser < x.ser) → 0 < a.size → pa % 32 + a.size ≤ 64 →
    ∃ t v, exec (.fabricAccess port) s = .next t ∧
      LaneDone t k sl a.lane v (foundPois s.mem.fabricPois pa a) ∧
      BytesDone s.mem.fabric t.mem.fabric pa a v (unitPois s.mem.fabricPois pa a.size) ∧ t.scr = s.scr ∧
      t.mem.lines = s.mem.lines ∧ ∀ j, j ≠ k → warpAt t j = warpAt s j) ∧
  (∀ s k w sl accs sx core op, Outstanding s k w sl → w.slots = [sl] → sl.body = .access accs sx → sl.ord = .relaxed →
    w.sample = none → accs ≠ [] → (∀ a ∈ accs, CleanLocal s core op a) → accs.Pairwise (fun a b => a.lane < b.lane) →
    ∃ t w' vals, exec (.slotReturn k sl.id) s = .next t ∧ warpAt t k = some w' ∧ Performed core s.scr accs t.scr vals ∧
      w'.slots = [] ∧ w'.held = w.held ∧ t.mem = s.mem ∧ (∀ j, j ≠ k → warpAt t j = warpAt s j) ∧
      (op = .store → w' = { w with slots := [] }) ∧
      (op ≠ .store → SlotWritten w w' sl sl.mask fun l =>
        match firstOf (fun e => e.1.lane == l) (accs.zip vals) with
        | none => 0
        | some e => if sx then wrap 64 (sext (8 * e.1.size) e.2) else e.2)) ∧
  ∀ s k w sl a sx core x, Outstanding s k w sl → sl.body = .access [a] sx → Due s k w sl a →
    a.loc = .scratch core x false → sl.ord = .relaxed → sbStalls s core x (x + a.size) a.op.writes = false →
    w.sample = none →
    (a.op = .load → scrAnyPoison s core x a.size = false → 0 < a.size → x % 32 + a.size ≤ 32 → a.lane < 32 →
      ∃ w', exec (.slotReturn k sl.id) s = .next (setWarp s k w') ∧
        SlotWritten w w' sl sl.mask fun l =>
          let v := leNat (rdBytes s.scr (scrKey core x) a.size)
          if l = a.lane then (if sx then wrap 64 (sext (8 * a.size) v) else v) else 0) ∧
    (a.op ≠ .load → a.op ≠ .store → 0 < a.size → x % 32 + a.size ≤ 32 → a.lane < 32 →
      let old := leNat (rdBytes s.scr (scrKey core x) a.size)
      let p := scrAnyPoison s core x a.size
      ∃ t w', exec (.slotReturn k sl.id) s = .next t ∧ warpAt t k = some w' ∧
        BytesDone s.scr t.scr (scrKey core x) a old p ∧
        SlotWritten w w' sl (if p then sl.mask &&& ~~~(BitVec.ofNat 32 (2 ^ a.lane)) else sl.mask) (fun l =>
          if l = a.lane then (if sx then wrap 64 (sext (8 * a.size) old) else old) else 0) ∧
        (p = false → w'.held = w.held) ∧
        (p = true → ∃ h, w'.held = w.held ++ [h] ∧ h.cause = 11 ∧ h.ret = true ∧ h.slot = sl.idx ∧ h.pos = sl.pos)) ∧
    (a.op = .store → ∃ t, exec (.slotReturn k sl.id) s = .next t ∧
      warpAt t k = some { w with slots := w.slots.filter fun y => y.id != sl.id } ∧ BytesDone s.scr t.scr (scrKey core x) a 0 false)

/-- R48, R52, R53, R272, R364 to R367: SLICE_ACCESS. A store or an atomic enters its die's stage with the next number of
the die's clock, its value or operation and a stamp that counts it. A load reads its own die's newest staged write where
that covers it; with none, from the home once the slice has applied every write the clock covers; where a collapse of the
line is under way, or the write that started one has not been applied, it waits, and so where a waiting write of the Cirque's
agents is for the line. A staged write that arrives is accepted,
or starts the collapse. It takes the model's readings of log 18, 35, 52 and 83. -/
def Obligations.HomeSliceAccesses : Prop :=
  (∀ s k w sl a pa mt rm, Due s k w sl a → a.loc = .dev pa mt rm →
    let d := dieOfCore w.core
    (a.op ≠ .load → w.sample = none → ∃ t x, exec (.sliceAccess (.lane k sl.id a.lane)) s = .next t ∧
      (if a.op = .store then LaneDone t k sl a.lane 0 false ∧ x.data = a.data ∧ x.atom = none
       else LaneEntered t k sl a.lane ∧ x.atom = some (a, false)) ∧
      stageOf t d = stageOf s d ++ [x] ∧ x.num = vcAt (clockOf s d) d + 1 ∧ vcAt (clockOf t d) d = x.num ∧
      vcAt x.stamp d = x.num ∧ x.pa = pa ∧ x.size = a.size ∧ x.accepted = false ∧ x.warp = k ∧
      x.slot = sl.id ∧ t.mem.lines = s.mem.lines ∧ t.mem.chan = s.mem.chan) ∧
    (∀ x, a.op = .load → privateVa s w.ctx a.addr = false → newestTouching s d pa a.size = some x → x.atom = none →
      x.pa ≤ pa → pa + a.size ≤ x.pa + x.size → staleStage s d x pa a.size = false →
      ∃ t, exec (.sliceAccess (.lane k sl.id a.lane)) s = .next t ∧
        LaneDone t k sl a.lane (x.data / 2 ^ (8 * (pa - x.pa)) % 2 ^ (8 * a.size)) x.pois ∧ t.mem = s.mem) ∧
    (a.op = .load → newestTouching s d pa a.size = none → (paKind pa).homed = true → 0 < a.size → pa % 128 + a.size ≤ 128 →
      (rm = true → look? s.mem.replicas (replicaKey d (pa / 128)) = none) →
      (collapsingOn s (pa / 128) = true ∨ (∃ e ∈ allStaged s, e.2.collapsing = true ∧ e.2.pa / 128 = pa / 128) →
        exec (.sliceAccess (.lane k sl.id a.lane)) s = .next s) ∧
      (privateVa s w.ctx a.addr = false → collapsingOn s (pa / 128) = false →
        (∀ e ∈ allStaged s, e.2.pa / 128 = pa / 128 → e.2.collapsing = false) →
        (∀ x ∈ s.mem.posted, x.meets pa a.size = false) →
        (∀ e ∈ allStaged s, homeSlice s e.2.pa = homeSlice s pa → vcAt (clockOf s d) e.1 < e.2.num) →
        ∃ t, exec (.sliceAccess (.lane k sl.id a.lane)) s = .next t ∧
          LaneDone t k sl a.lane (leNat (homeBytes s pa a.size)) (homeRead s pa a.size).2 ∧ t.mem.chan = s.mem.chan))) ∧
  ∀ s d n x, stagedAt s d n = some x → x.accepted = false → x.collapsing = false → collapsingOn s (x.pa / 128) = false →
    (∀ e ∈ allStaged s, e.2.pa / 128 = x.pa / 128 → e.2.collapsing = false) →
    ∃ t, exec (.sliceAccess (.staged d n)) s = .next t ∧
      stageOf t d = (stageOf s d).map (fun y =>
        if y.num = n then
          if vecOf s (x.pa / 128) = 0 then { y with accepted := true } else { y with collapsing := true }
        else y) ∧
      t.mem.collapses =
        if vecOf s (x.pa / 128) = 0 then s.mem.collapses
        else s.mem.collapses ++ [{ line := x.pa / 128, wait := vecOf s (x.pa / 128) }]

/-- R53, R269, R365 to R367: a die drops its replica of a collapsing line and acknowledges; with the last acknowledgement
the line's vector is zero and the write that waited is accepted. A slice applies an accepted write that no unapplied write
of its die or its past precedes: the home's bytes are the write's, or what the atomic writes where it finds the old ones,
which go to its lane; every other byte of the line is as before, and the write leaves the stage. It takes the model's
readings of log 18, 46 and 52. -/
def Obligations.CollapseAndApply : Prop :=
  (∀ s l d, d < 8 → (∃ c ∈ s.mem.collapses, c.line = l ∧ c.wait.getLsbD d = true) →
    ∃ t, exec (.replicaInvalidate l d) s = .next t ∧ look? t.mem.replicas (replicaKey d l) = none ∧
      (∀ k, k ≠ replicaKey d l → look? t.mem.replicas k = look? s.mem.replicas k) ∧
      (∀ c ∈ t.mem.collapses, c.line = l → c.wait.getLsbD d = false) ∧
      t.mem.lines = s.mem.lines ∧ t.mem.stages = s.mem.stages) ∧
  (∀ s l, (∃ c ∈ s.mem.collapses, c.line = l ∧ c.wait = 0) →
    ∃ t, exec (.collapseComplete l) s = .next t ∧ (∀ c ∈ t.mem.collapses, c.line ≠ l) ∧ vecOf t l = 0 ∧
      ∀ e ∈ allStaged s, e.2.pa / 128 = l → e.2.collapsing = true → (e.1, { e.2 with accepted := true }) ∈ allStaged t) ∧
  ∀ s d n x, stagedAt s d n = some x → x.accepted = true → passes s x.pa (x.mt != 0) = false → x.pa % 128 + x.size ≤ 128 →
    (∀ e ∈ allStaged s, homeSlice s e.2.pa = homeSlice s x.pa →
      if e.1 = d then x.num ≤ e.2.num else vcAt x.stamp e.1 < e.2.num) →
    (∀ a sup, x.atom = some (a, sup) → a.size = x.size ∧ privateVa s x.ctx a.addr = false) →
    let old := leNat (homeBytes s x.pa x.size)
    ∃ t, exec (.sliceWriteApply d n) s = .next t ∧ stageOf t d = (stageOf s d).filter (fun y => y.num != n) ∧
      homeBytes t x.pa x.size =
        (match x.atom with
         | none => leBytes x.size x.data
         | some (a, sup) =>
           if sup = true ∨ (homeRead s x.pa x.size).2 = true then homeBytes s x.pa x.size
           else leBytes x.size (written a.op (8 * x.size) old a.data a.data2)) ∧
      (∀ a sup w sl, x.atom = some (a, sup) → warpAt s x.warp = some w → w.key = x.warp →
        firstOf (fun y => y.id == x.slot) w.slots = some sl → sl.ret = false →
        LaneDone t x.warp sl a.lane old (homeRead s x.pa x.size).2) ∧
      (∀ a, a / 128 = x.pa / 128 → a < x.pa ∨ x.pa + x.size ≤ a → (homeByte t a).1 = (homeByte s a).1) ∧
      (∀ l, l ≠ x.pa / 128 → lineAt t l = lineAt s l) ∧ t.mem.chan = s.mem.chan

/-! ## Translations -/

/-- R44, R46, R423: a walk that both TLBs miss is held by both, newest first, in at most 256 entries of a core and 8,192 of
a die; the die's entry answers a miss of the core's. The shoot-down register takes its fields and BUSY; when every access
under the range has been performed, no TLB holds a translation of the range, the others remain, and BUSY clears. It
takes the model's readings of log 23, 47 and 73. -/
def Sys2Proof.Claims.TranslationBuffers : Prop :=
  (∀ s core ctx va l, (∀ e ∈ s.mem.tlb, e.covers core ctx va = false) →
    (∀ e ∈ s.mem.dieTlb, e.covers (dieOfCore core) ctx va = false) → walkWaits s ctx va = false → walk s ctx va = .inl l →
    ∃ t, exec (.pageWalk core ctx va) s = .next t ∧
      t.mem.tlb.head? = some { unit := core, ctx := ctx, va := l.va, size := l.size, pte := BitVec.ofNat 64 l.pte } ∧
      t.mem.dieTlb.head? =
        some { unit := dieOfCore core, ctx := ctx, va := l.va, size := l.size, pte := BitVec.ofNat 64 l.pte } ∧
      (t.mem.tlb.filter fun e => e.unit == core).length ≤ 256 ∧
      (t.mem.dieTlb.filter fun e => e.unit == dieOfCore core).length ≤ 8192 ∧
      (∀ e ∈ s.mem.tlb, e.unit ≠ core → e ∈ t.mem.tlb) ∧ ∀ a, homeByte t a = homeByte s a) ∧
  (∀ s core ctx va e, (∀ e ∈ s.mem.tlb, e.covers core ctx va = false) →
    firstOf (·.covers (dieOfCore core) ctx va) s.mem.dieTlb = some e →
    ∃ t, exec (.pageWalk core ctx va) s = .next t ∧
      t.mem.tlb.head? = some { unit := core, ctx := ctx, va := e.va, size := e.size, pte := e.pte } ∧
      t.mem.dieTlb = s.mem.dieTlb) ∧
  (∀ s a ctx val, mayPage s a ctx = true → (ctxAt s ctx).shootBusy = false →
    ∃ t, exec (.shootdown a ctx val) s = .next t ∧
      ctxAt t ctx = { ctxAt s ctx with
        shootVa := bits val.toNat 16 40 * 2 ^ 16, shootLsz := bits val.toNat 2 6, shootAll := Machine.bit val.toNat 1
        shootBusy := true } ∧ t.mem = s.mem) ∧
  ∀ s ctx lo n, (ctxAt s ctx).shootBusy = true →
    n = (if (ctxAt s ctx).shootAll = true ∨ (ctxAt s ctx).shootLsz < 16 ∨ 56 < (ctxAt s ctx).shootLsz then 2 ^ 56
      else 2 ^ (ctxAt s ctx).shootLsz) → lo = (ctxAt s ctx).shootVa / n * n → rangePerformed s ctx lo n = true →
    ∃ t, exec (.shootdownComplete ctx) s = .next t ∧ ctxAt t ctx = { ctxAt s ctx with shootBusy := false } ∧
      (∀ e, e ∈ t.mem.tlb ↔ e ∈ s.mem.tlb ∧ (e.ctx ≠ ctx ∨ lo + n ≤ e.va ∨ e.va + e.size ≤ lo)) ∧
      ∀ e, e ∈ t.mem.dieTlb ↔ e ∈ s.mem.dieTlb ∧ (e.ctx ≠ ctx ∨ lo + n ≤ e.va ∨ e.va + e.size ≤ lo)

/-- R42 to R45, R379: what a walk gives. At the level it reaches, a table address that may not be accessed gives ABSENT, a
poisoned entry POISON, an invalid or malformed one PAGE, and a leaf the translation of its page; an address with bits [63:56]
set gives PAGE. An entry that the core's TLB, or else the die's, holds is used in place of a walk. Then the checks of R45 in
their order: ALIGN, the walk's cause, PROT, ABSENT, and else the page's address with the offset of the byte. That a table
address may be ABSENT is the model's reading of R24, R25 and R67. -/
def Sys2Proof.Claims.WalksAndChecks : Prop :=
  (∀ s ctx va lv tbl, va < 2 ^ 56 → WalkReaches s ctx va lv tbl →
    let e := (entryRead s va lv (tbl lv)).1
    let bad := (entryRead s va lv (tbl lv)).2
    (present s (entryAddr va lv (tbl lv)) = false → walk s ctx va = .inr 10) ∧
    (present s (entryAddr va lv (tbl lv)) = true →
      (bad = true → walk s ctx va = .inr 11) ∧
      (bad = false → ¬ GoodEntry lv e → walk s ctx va = .inr 7) ∧
      (bad = false → GoodEntry lv e → e / 2 % 2 = 1 →
        walk s ctx va = .inl ⟨va / 2 ^ levelBit lv * 2 ^ levelBit lv, 2 ^ levelBit lv, e⟩))) ∧
  (∀ s core ctx va, 2 ^ 56 ≤ va → va < 2 ^ 64 → walk s ctx va = .inr 7 ∧ lookupVa s core ctx va = .inr 7) ∧
  (∀ s core ctx va, va < 2 ^ 56 →
    (∀ t, firstOf (·.covers core ctx va) s.mem.tlb = some t →
      lookupVa s core ctx va = .inl ⟨t.va, t.size, t.pte.toNat⟩) ∧
    ((∀ t ∈ s.mem.tlb, t.covers core ctx va = false) →
      (∀ t, firstOf (·.covers (dieOfCore core) ctx va) s.mem.dieTlb = some t →
        lookupVa s core ctx va = .inl ⟨t.va, t.size, t.pte.toNat⟩) ∧
      ((∀ t ∈ s.mem.dieTlb, t.covers (dieOfCore core) ctx va = false) → lookupVa s core ctx va = walk s ctx va))) ∧
  ∀ s core ctx va size k,
    (va % size ≠ 0 → translate s core ctx va size k = .bad 9) ∧
    (va % size = 0 →
      (∀ c, lookupVa s core ctx va = .inr c → translate s core ctx va size k = .bad c) ∧
      ∀ l, lookupVa s core ctx va = .inl l →
        (¬ LeafAllows l.pte k (ctxAt s ctx).prv → translate s core ctx va size k = .bad 8) ∧
        (LeafAllows l.pte k (ctxAt s ctx).prv →
          translate s core ctx va size k =
            if present s (pteBase l.pte + (va - l.va)) = true then .ok (pteBase l.pte + (va - l.va)) l.pte else .bad 10))

/-! ## Channels, sets and slices -/

/-- R31 to R35, R421: SET_EVACUATE by firmware reassigns every remap entry that names the channel to a live channel with a
free reserve rank, no two to the same, keeps where each granule lies until it has moved, and leaves the other entries; one
that breaks R32 sets STAT 2 only; where the granules of an earlier evacuation still move, those of the new one follow
them. SET_FAIL marks a live channel while STAT is not 1, and else sets STAT 2 only. A write by another agent is dropped and counted. A granule
begins to move, and when its last write is acknowledged its 512 bytes stand at the new place and EVPOS advances; after the
last the channel is out of service, and the next evacuation begins. It takes the model's reading of log 50. -/
def Obligations.SetEvacuation : Prop :=
  (∀ s i ch, i < 10 → evacRefused i (setAtIdx s i) ch = false →
    let x := setAtIdx s i
    ∃ t x' m, exec (.setEvacuate .fw i ch) s = .next t ∧ SetNow s t i x' ∧ x'.stat = 1 ∧ x'.evposReg = 0 ∧ x'.evch = ch ∧
      x'.drops = x.drops + 1 ∧ (∀ e < setT i, (remapEntry x e).1 ≠ ch → remapEntry x' e = remapEntry x e) ∧
      (x.moving = [] → x'.moving = m ∧ x'.evpos = 0 ∧ x'.queued = x.queued) ∧
      (x.moving ≠ [] → x'.moving = x.moving ∧ x'.evpos = x.evpos ∧ x'.queued = x.queued ++ [m]) ∧
      (∀ e < setT i, (remapEntry x e).1 = ch → look? m e = some (remapEntry x e) ∧
        ∃ c, remapEntry x' e = (c, setT i / x.n) ∧ c ≠ ch ∧ chanLive x c = true ∧ c ∉ x.leaving ∧ rankFree i x c = true) ∧
      ∀ e < setT i, ∀ f < setT i, e ≠ f → (remapEntry x e).1 = ch → (remapEntry x f).1 = ch →
        remapEntry x' e ≠ remapEntry x' f) ∧
  (∀ s i ch, i < 10 → evacRefused i (setAtIdx s i) ch = true →
    ∃ t, exec (.setEvacuate .fw i ch) s = .next t ∧ SetNow s t i { setAtIdx s i with evch := ch, stat := 2 }) ∧
  (∀ s a i ch, a ≠ .fw → ∀ f ∈ [Instr.setEvacuate a i ch, .setFail a i ch, .sliceEvacuate a ch],
    ∃ t, exec f s = .next t ∧ t.mem = s.mem ∧ t.glob.drop = satAdd 32 s.glob.drop 1) ∧
  (∀ s i ch, i < 10 →
    let x := setAtIdx s i
    ∃ t, exec (.setFail .fw i ch) s = .next t ∧
      SetNow s t i (if x.stat ≠ 1 ∧ chanLive x ch = true then
        { x with evch := ch, failed := x.failed ++ [ch], drops := x.drops + 1, stat := 0 }
        else { x with evch := ch, stat := 2 })) ∧
  (∀ s i, (setAtIdx s i).moving ≠ [] → (setAtIdx s i).busy = false →
    (setAtIdx s i).evpos < evacTotal s i (setAtIdx s i) →
    ∃ t f, exec (.moraineGranuleBegin i) s = .next t ∧ SetNow s t i { setAtIdx s i with busy := true, fold := f } ∧
      ((setAtIdx s i).evpos % (setAtIdx s i).moving.length ≠ 0 → f = (setAtIdx s i).fold)) ∧
  ∀ s i b e, (setAtIdx s i).moving ≠ [] → (setAtIdx s i).busy = true → (setAtIdx s i).stalled = [] →
    granuleAt (setAtIdx s i) (setAtIdx s i).evpos = (b, e) → (∀ m ∈ (setAtIdx s i).queued, look? m e = none) →
    let x := setAtIdx s i
    let old := look x.moving e (0, 0)
    let new := remapEntry x e
    ∃ t x', exec (.moraineGranuleComplete i) s = .next t ∧ SetNow s t i x' ∧ x'.busy = false ∧
      (x.evpos + 1 < evacTotal s i x →
        x'.evpos = x.evpos + 1 ∧ x'.moving = x.moving ∧ x'.queued = x.queued ∧ x'.gone = x.gone) ∧
      (evacTotal s i x ≤ x.evpos + 1 → x'.gone = x.gone ++ (x.moving.take 1).map (·.2.1) ∧
        (x.queued = [] → x'.evpos = x.evpos + 1 ∧ x'.moving = [] ∧ x'.stat = 0) ∧
        ∀ m q, x.queued = m :: q → x'.evpos = 0 ∧ x'.moving = m ∧ x'.queued = q ∧ x'.stat = x.stat) ∧
      rdBytes t.mem.chan (slotKey i x b new.1 new.2) 512 = rdBytes s.mem.chan (slotKey i x b old.1 old.2) 512 ∧
      ∀ a, a < slotKey i x b new.1 new.2 ∨ slotKey i x b new.1 new.2 + 512 ≤ a →
        rdByte t.mem.chan a = rdByte s.mem.chan a

/-- R35, R38, R47 to R51, R431: a fill holds the line its channel gives; a write-back puts a dirty line's bytes in its
channel and leaves the line clean; a release of a line whose dirty bytes can be written leaves every byte as it read. A scrub
that corrects an error counts it and changes no byte. SLICE_EVACUATE gives each table entry of the slice a live slice; each
entry moves once no transaction is in progress on it: its lines leave the old slice and the entry names the new one.
It takes the model's reading of log 51. -/
def Obligations.LinesAndSlices : Prop :=
  (∀ s l, lineAt s l = none → (paKind (l * 128)).homed = true → present s (l * 128) = true → sliceFull s l = false →
    ∃ t x, exec (.channelAccess l .fill) s = .next t ∧ lineAt t l = some x ∧ x.dirty = false ∧ x.vec = 0 ∧
      (∀ a, a / 128 = l → (homeByte t a).1 = (homeByte s a).1) ∧ t.mem.chan = s.mem.chan ∧
      ∀ m, m ≠ l → lineAt t m = lineAt s m) ∧
  (∀ s l x, lineAt s l = some x → x.dirty = true → LineSettled s l →
    ∃ t, exec (.channelAccess l .writeBack) s = .next t ∧ lineAt t l = some { x with dirty := false } ∧
      (∀ i < 128, (memByte t (l * 128 + i)).1 = lineByte x.data i) ∧ ∀ m, m ≠ l → lineAt t m = lineAt s m) ∧
  (∀ s l x, lineAt s l = some x → x.dirty = true → LineSettled s l → mayRelease s l x = true →
    ∃ t, exec (.channelAccess l .evict) s = .next t ∧ lineAt t l = none ∧
      ∀ a, a / 128 = l → (homeByte t a).1 = (homeByte s a).1) ∧
  (∀ s ch fl raced, ch < 400 → look s.mem.chanPois (ch * 2 ^ 33 + fl) false = false →
    ∃ t, exec (.memoryScrub ch fl raced) s = .next t ∧ look t.mem.chanErr ch 0 = look s.mem.chanErr ch 0 + 1 ∧
      t.mem.chan = s.mem.chan ∧ t.mem.lines = s.mem.lines) ∧
  (∀ s n, n < 64 → sliceRefused s.mem.slices n = false →
    ∃ t, exec (.sliceEvacuate .fw n) s = .next t ∧ t.mem.slices.stat = 1 ∧ t.mem.slices.evpos = 0 ∧
      t.mem.slices.evsl = n ∧ t.mem.slices.drops = s.mem.slices.drops + 1 ∧ t.mem.slices.table = s.mem.slices.table ∧
      (∀ e < 512, sliceEntry s e = n → ∃ m, look? t.mem.slices.moving e = some m ∧ m ≠ n ∧ m < 64 ∧
        s.mem.slices.gone.contains m = false) ∧
      ∀ e < 512, sliceEntry s e ≠ n → look? s.mem.slices.moving e ≠ some n →
        look? t.mem.slices.moving e = look? s.mem.slices.moving e) ∧
  ∀ s e m rest, s.mem.slices.moving = (e, m) :: rest → entryQuiet s e = true →
    ∃ t, exec .sliceEntryMove s = .next t ∧ sliceEntry t e = m ∧ (∀ f, f ≠ e → sliceEntry t f = sliceEntry s f) ∧
      look? t.mem.slices.moving e = none ∧
      (∀ f, f ≠ e → look? t.mem.slices.moving f = look? s.mem.slices.moving f) ∧
      t.mem.slices.evpos = s.mem.slices.evpos + 1 ∧ ∀ l, sliceIdx (l * 128) = e → lineAt t l = none

/-! ## The host's accesses -/

/-- R402, R419, R420, R430: a host write through BAR2 into mapped HBM stands in the bytes it names; a read returns them; one
beyond the BAR or in an ABSENT region completes with Unsupported Request, a read with all ones, and so does an AtomicOp. A DMA write of at most one flit in a
context that is not deterministic is performed at its translation; a flit that the region table does not give to the DMA
engine is refused: it is counted with its address and reported, and memory keeps its bytes; a DMA read returns what stands
there. The host's SPDM requests are answered with their codes, those that need algorithms after they are negotiated. It takes
the model's readings of log 8, 46, 53 and 64. -/
def Obligations.HostAccesses : Prop :=
  (∀ s, (∃ b, exec .spdmGetVersion s =
      .next { s with glob := { s.glob with spdmResp := some { code := 0x84, body := b } } }) ∧
    (∃ b, exec .spdmGetCapabilities s =
      .next { s with glob := { s.glob with spdmResp := some { code := 0xE1, body := b } } }) ∧
    (∀ h a, h.testBit 4 = true → a.testBit 7 = true → ∃ b, exec (.spdmNegotiateAlgorithms h a) s =
      .next { s with glob := { s.glob with spdmReady := true, spdmResp := some { code := 0xE3, body := b } } })) ∧
  (∀ s, s.glob.spdmReady = true →
    (∃ b, exec .spdmGetDigests s = .next { s with glob := { s.glob with spdmResp := some { code := 0x81, body := b } } }) ∧
    (∀ n, ∃ b, exec (.spdmGetCertificate n) s =
      .next { s with glob := { s.glob with spdmResp := some { code := 0x82, body := b } } }) ∧
    (∀ n, ∃ b, exec (.spdmChallenge n) s =
      .next { s with glob := { s.glob with spdmResp := some { code := 0x83, body := b } } }) ∧
    ∀ i, i ≤ 3 ∨ i = 0xFF → ∃ b, exec (.spdmGetMeasurements i) s =
      .next { s with glob := { s.glob with spdmResp := some { code := 0x60, body := b } } } ∧
      (i = 3 → b = leBytes 1 s.glob.fenced.toNat ++ leBytes 8 s.glob.ready.toNat ++
        leBytes 4 (s.glob.dmStat.toNat * 16 + (if s.glob.refl then 4 else 0) + s.glob.rot.toNat))) ∧
  (∀ s pa bs ep, bar2Reaches s pa bs.length = true → homeQuiet s pa bs.length = true → pa % 128 + bs.length ≤ 128 →
    0 < bs.length → passes s pa false = false → writeWaits s pa bs.length false = false →
    ∃ t, exec (.hostBar2Access pa (.write bs ep)) s = .next t ∧ homeBytes t pa bs.length = bs ∧ t.glob.bar2Ur = false ∧
      t.mem.chan = s.mem.chan ∧ ∀ l, l ≠ pa / 128 → lineAt t l = lineAt s l) ∧
  (∀ s pa n, bar2Reaches s pa n = true → readWaits s pa n = false →
    ∃ t ep, exec (.hostBar2Access pa (.read n)) s = .next t ∧ t.glob.bar2Last = some (homeBytes t pa n, ep) ∧
      t.glob.bar2Ur = false ∧ (∀ a, pa ≤ a → a < pa + n → homeByte t a = homeByte s a) ∧
      t.mem.chan = s.mem.chan ∧ t.scr = s.scr) ∧
  (∀ s pa n, bar2Reaches s pa n = false →
    exec (.hostBar2Access pa (.read n)) s =
      .next { s with glob := { s.glob with bar2Last := some (List.replicate n 0xFF, false), bar2Ur := true } }) ∧
  (∀ s pa bs ep, bar2Reaches s pa bs.length = false →
    exec (.hostBar2Access pa (.write bs ep)) s = .next { s with glob := { s.glob with bar2Ur := true } }) ∧
  (∀ s pa n, exec (.hostBar2Access pa (.atomic n)) s =
    .next { s with glob := { s.glob with bar2Last := some (List.replicate n 0xFF, false), bar2Ur := true } }) ∧
  (∀ s ctx va bs pa pte, va % 32 + bs.length ≤ 32 → 0 < bs.length → (ctxAt s ctx).det = false →
    sysTranslate s ctx va 1 .write true = .ok pa pte → homeQuiet s pa bs.length = true →
    walkWaits s ctx va = false → portFree s pa = true → writeWaits s pa bs.length false = false →
    ∃ t, exec (.hostDmaTransfer ctx va (.write bs)) s = .next t ∧ t.scr = s.scr ∧
      (paKind pa = .host → t.mem.hostMem = wrBytes s.mem.hostMem pa bs ∧ t.mem.lines = s.mem.lines) ∧
      ((paKind pa).homed = true → pa % 128 + bs.length ≤ 128 → passes s pa false = false →
        t.mem.chan = s.mem.chan ∧ homeBytes t pa bs.length = bs ∧ t.mem.hostMem = s.mem.hostMem ∧ ∀ l, l ≠ pa / 128 → lineAt t l = lineAt s l)) ∧
  (∀ s ctx va bs pa pte e, va % 32 + bs.length ≤ 32 → 0 < bs.length → (ctxAt s ctx).det = true →
    sysTranslate s ctx va 1 .write true = .ok pa pte → homeQuiet s pa bs.length = true →
    walkWaits s ctx va = false → portFree s pa = true → (ctxAt s ctx).wbase ≤ va / 32 * 32 → va / 32 * 32 < (ctxAt s ctx).wbase + 2 ^ 33 →
    look? (ctxAt s ctx).detHeld ((va / 32 * 32 - (ctxAt s ctx).wbase) / 2 ^ 21) = some e →
    (bits e.toNat 16 16 ≠ (ctxAt s ctx).phase % 2 ^ 16 ∨ bits e.toNat 12 4 ≠ 1 ∨ bits e.toNat 0 12 ≠ 0) →
    ∃ t, exec (.hostDmaTransfer ctx va (.write bs)) s = .next t ∧ t.mem = s.mem ∧
      (ctxAt t ctx).refused = satAdd 32 (ctxAt s ctx).refused 1 ∧ (ctxAt t ctx).lastref = va / 32 * 32 ∧
      t.glob.detEvents = s.glob.detEvents ++ [[ctx, va / 32 * 32]] ∧ t.glob.irqs = s.glob.irqs ++ [2 * ctx + 1]) ∧
  ∀ s ctx va n pa pte, va % 32 + n ≤ 32 → 0 < n → sysTranslate s ctx va 1 .read true = .ok pa pte →
    vaWaits s ctx va n = false →
    ∃ t, exec (.hostDmaTransfer ctx va (.read n)) s = .next t ∧
      t.glob.dmaLast = some (if (paKind pa).homed = true then homeBytes s pa n else sysBytes s pa n) ∧
      t.mem.chan = s.mem.chan ∧ t.mem.fabric = s.mem.fabric ∧ t.mem.hostMem = s.mem.hostMem ∧ t.scr = s.scr

/-! ## The torus, the optical ports, routes and the die map -/

/-- R54 to R57: a packet of 1 to 9 flits enters a router of its client. One with a single output advances to the next router when one
slot is free there, two where it enters a ring, what its holding buffer keeps going first, and leaves the torus at its destination; a fork advances or holds each
branch, or waits whole. A holding buffer releases its oldest packet into two free slots. The outputs lead every packet to
its destination. -/
def Sys2Proof.Claims.TorusRouting : Prop :=
  (∀ s r resp fl ds, r < 64 → 1 ≤ fl → fl ≤ 9 → ds ≠ [] → (∀ d ∈ ds, d < 64) →
    ∃ t p, exec (.torusHop (.inject r resp fl ds)) s = .next t ∧ t.links.packets = s.links.packets ++ [p] ∧ p.router = r ∧
      p.resp = resp ∧ p.flits = fl ∧ p.dests = ds ∧ p.holding = none ∧ p.id = s.links.nextPacket ∧
      t.links.nextPacket = s.links.nextPacket + 1) ∧
  (∀ s c sel resp fl ds, 1 ≤ fl → fl ≤ 9 → ds ≠ [] → (∀ d ∈ ds, d < 64) →
    let enters := fun (at_ : Nat → Prop) => ∃ t p, exec (.torusHop (.injectFrom c sel resp fl ds)) s = .next t ∧
      t.links.packets = s.links.packets ++ [p] ∧ at_ p.router ∧ p.dests = ds
    (∀ v < 8, c = .spoke v → enters fun r => r < 64 ∧ r % 8 = v) ∧
    (∀ n < 16, c = .ddr n → enters fun r => r = if n < 8 then n else 56 + n % 8) ∧
    (c = .edge 0 → enters fun r => r < 8) ∧ (c = .edge 1 → enters fun r => 56 ≤ r ∧ r < 64) ∧
    (c = .hostPort → enters fun r => r = 24) ∧ (c = .management → enters fun r => r = 31) ∧
    ∀ x < 8, c = .queueEngine x → enters fun r => r = 32 + x) ∧
  (∀ s id p o, firstOf (fun (q : Packet) => q.id == id && q.holding.isNone) s.links.packets = some p → p.dests ≠ [] →
    (∀ d ∈ p.dests, outputOf p.router d = o) →
    (heldAt s.links.packets p.router o p.resp = [] ∨ (o < 4 ∧ p.ring = o / 2 ∧ p.up = (o % 2 == 0))) →
    (o = 4 → ∃ t, exec (.torusHop (.advance id)) s = .next t ∧
      t.links.packets = s.links.packets.filter fun q => q.id != p.id) ∧
    (o < 4 → inputUsed s.links.packets (nextRouter p.router o) (o / 2) (o % 2 == 0) p.resp +
        (if p.ring = o / 2 ∧ p.up = (o % 2 == 0) then 1 else 2) ≤ 4 →
      ∃ t, exec (.torusHop (.advance id)) s = .next t ∧
        t.links.packets = (s.links.packets.filter fun q => q.id != p.id) ++
          [{ p with router := nextRouter p.router o, ring := o / 2, up := o % 2 == 0, holding := none }])) ∧
  (∀ s id p, firstOf (fun (q : Packet) => q.id == id && q.holding.isNone) s.links.packets = some p →
    2 ≤ (branches p).length →
    ((∃ b ∈ branches p, branchGoes s.links.packets p b.1 = false ∧ branchHolds s.links.packets p b.1 = false) →
      exec (.torusHop (.advance id)) s = .next s) ∧
    ((∀ b ∈ branches p, branchGoes s.links.packets p b.1 = true ∨ branchHolds s.links.packets p b.1 = true) →
      ∃ t, exec (.torusHop (.advance id)) s = .next t ∧ ∀ b ∈ branches p,
        (branchGoes s.links.packets p b.1 = true → b.1 ≠ 4 → ∃ q ∈ t.links.packets,
          q.router = nextRouter p.router b.1 ∧ q.dests = b.2 ∧ q.holding = none) ∧
        (branchGoes s.links.packets p b.1 = false → ∃ q ∈ t.links.packets,
          q.router = p.router ∧ q.dests = b.2 ∧ q.holding = some b.1))) ∧
  (∀ s r o p, releasable s.links.packets r o = some p →
    ∃ t, exec (.holdingBufferRelease r o) s = .next t ∧
      t.links.packets = (s.links.packets.filter fun q => q.id != p.id) ++
        if o = 4 then []
        else [{ p with router := nextRouter p.router o, ring := o / 2, up := o % 2 == 0, holding := none }]) ∧
  ∀ r < 64, ∀ d < 64, (List.range 8).foldl (fun x _ => nextRouter x (outputOf x d)) r = d

/-- R65, R68 to R70, R427: flits on an up port, the last of another package's access leaving it to be performed, whose bits the inbound wavelengths' windows count; a wavelength whose window passes its threshold retrains; a training that succeeds
returns it to service, the third failure in a row disables it; the enable field trains a disabled one or disables one; a
partner's arrival trains every wavelength that is not disabled. The oldest access that has come in on a port is performed at
its home slice here once none is to go out on it. A port is up only with a partner, its edge boundary and 32
wavelengths in each direction. It takes the model's readings of log 78, 85 and 92. -/
def Sys2Proof.Claims.OpticalPorts : Prop :=
  (∀ s n, (portAt s n).up = true →
    (∃ t, exec (.opticalFlitReceive n .clean) s = .next t ∧
      portAt t n = { portAt s n with rxSeq := (portAt s n).rxSeq + 1 }) ∧
    (∀ w b, ∃ t, exec (.opticalFlitReceive n (.corrected w b)) s = .next t ∧
      portAt t n = { portAt s n with
        rxSeq := (portAt s n).rxSeq + 1, corrected := satAdd 64 (portAt s n).corrected b } ∧
      ∀ l < 64, waveAt t n 1 l =
        if (waveAt s n 1 l).state = 0 then (waveAt s n 1 l).count (flitShare s n l) (if l = w then b else 0)
        else waveAt s n 1 l) ∧
    (∀ o r, ∃ t, exec (.opticalFlitReceive n (.access o r)) s = .next t ∧
      t.links.inbound = s.links.inbound ++ [(n, o, r)] ∧
      portAt t n = { portAt s n with rxSeq := (portAt s n).rxSeq + 1 }) ∧
    ∃ t, exec (.opticalFlitReceive n .uncorrected) s = .next t ∧
      portAt t n = { portAt s n with
        uncorrected := satAdd 64 (portAt s n).uncorrected 1, retrans := satAdd 64 (portAt s n).retrans 1 }) ∧
  (∀ s n d wl, n < 6 → d < 2 → wl < 64 →
    let x := waveAt s n d wl
    (∀ b, x.state = 0 → x.thresh.toNat < (if d = 1 then x.winErrs else b) →
      ∃ t, exec (.wavelengthRetire n d wl b) s = .next t ∧
      waveAt t n d wl = { x with state := 1, winBits := 0, winErrs := 0 } ∧
      (portAt t n).trainings = satAdd 64 (portAt s n).trainings 1 ∧
      (portAt t n).up = portMayServe t n) ∧
    (x.state = 1 → (portAt s n).partner = true → ∃ t, exec (.wavelengthTrainDone n d wl true) s = .next t ∧
      waveAt t n d wl = { x with state := 0, fails := 0 } ∧ (portAt t n).up = portMayServe t n) ∧
    (x.state = 1 → ∃ t, exec (.wavelengthTrainDone n d wl false) s = .next t ∧
      waveAt t n d wl = { x with state := if 2 ≤ x.fails then 2 else 1, fails := min (x.fails + 1) 15 } ∧
      (portAt t n).trainings = if 2 ≤ x.fails then (portAt s n).trainings else satAdd 64 (portAt s n).trainings 1) ∧
    ∀ val : Word,
      let y := { x with heat := BitVec.ofNat 8 (bits val.toNat 16 8), ena := val.getLsbD 2 }
      (val.getLsbD 2 = false → ∃ t, exec (.wavelengthEnableWrite .fw n d wl val) s = .next t ∧
        waveAt t n d wl = { y with state := 2 } ∧ (portAt t n).up = portMayServe t n) ∧
      (val.getLsbD 2 = true → x.state = 2 → ∃ t, exec (.wavelengthEnableWrite .fw n d wl val) s = .next t ∧
        waveAt t n d wl = { y with state := 1 } ∧ (portAt t n).trainings = satAdd 64 (portAt s n).trainings 1) ∧
      (val.getLsbD 2 = true → x.state ≠ 2 → ∃ t, exec (.wavelengthEnableWrite .fw n d wl val) s = .next t ∧
        waveAt t n d wl = y)) ∧
  (∀ s n, n < 6 → (portAt s n).partner = false → ∃ t, exec (.opticalPartnerAttach n true) s = .next t ∧
    (portAt t n).partner = true ∧ (portAt t n).up = (portAt s n).up ∧ ∀ d < 2, ∀ wl < 64,
      waveAt t n d wl = if (waveAt s n d wl).state = 2 then waveAt s n d wl else { waveAt s n d wl with state := 1 }) ∧
  (∀ s n, n < 6 → (portAt s n).partner = true → ∃ t, exec (.opticalPartnerAttach n false) s = .next t ∧
    (portAt t n).partner = false ∧ (portAt t n).up = false ∧
    ((portAt s n).up = true → t.glob.ready.getLsbD (23 + n) = false)) ∧
  (∀ s port o n, (∀ e ∈ fabricAccs s, portOf s e.2.2.2 ≠ some port) →
    firstOf (fun e => e.1 == port) s.links.inbound = some (port, o, .load n) → (paKind o).homed = true →
    present s o = true → readWaits s o n = false →
    ∃ t, exec (.fabricAccess port) s = .next t ∧ t.mem.chan = s.mem.chan ∧ t.warps = s.warps ∧
      t.links.inbound = s.links.inbound.erase (port, o, .load n) ∧
      t.links.reply = some (port, leNat (homeBytes s o n), (homeRead s o n).2)) ∧
  (∀ s port o bs, (∀ e ∈ fabricAccs s, portOf s e.2.2.2 ≠ some port) →
    firstOf (fun e => e.1 == port) s.links.inbound = some (port, o, .store bs false) → (paKind o).homed = true →
    present s o = true → readWaits s o bs.length = false → passes s o false = false → 0 < bs.length →
    o % 128 + bs.length ≤ 128 →
    ∃ t, exec (.fabricAccess port) s = .next t ∧ homeBytes t o bs.length = bs ∧ t.warps = s.warps ∧
      t.links.inbound = s.links.inbound.erase (port, o, .store bs false) ∧ ∀ l, l ≠ o / 128 → lineAt t l = lineAt s l) ∧
  ∀ s n, portMayServe s n = true ↔
    (portAt s n).partner = true ∧ s.links.edge.getLsbD (n / 3) = true ∧
      ∀ d < 2, 32 ≤ ((List.range 64).filter fun wl => (waveAt s n d wl).state == 0).length

/-- R12 to R14, R18, R66, R67, R332, R419, R421, R427 to R429: the boot takes every boundary that passes authentication into
service, and a port that may be up then is up and ready. With neither image the package stays in recovery, and boots again
once the owner has written a new one. A route entry takes its valid bit and port, its accesses in flight drain on
the old port, and an unprivileged write is dropped and counted. A die-map write that changes nothing sets STAT 01; one over
a span is refused with STAT 10; another is pending, STAT 11, and enters the placement stream; one that arrives then is
dropped and counted; it applies when no warp is resident on a die that moves. The host link's training is ready bit 46. -/
def Obligations.RoutesAndDieMap : Prop :=
  (∀ s b, s.glob.bootSt = 0 → ∃ t, exec (.boot b) s = .next t ∧ t.glob.bootSt ≠ 0 ∧ t.glob.dmStat = s.glob.dmStat ∧
    (b.imageA = true ∨ b.imageB = true → t.links.ring = ~~~b.failRing ∧ t.links.spoke = ~~~b.failSpoke ∧
      t.links.edge = ~~~b.failEdge ∧ t.links.routes = s.links.routes ∧
      ∀ n < 6, (portAt s n).up = false → (portAt t n).up = portMayServe t n ∧
        t.glob.ready.getLsbD (23 + n) = (portAt t n).up)) ∧
  (∀ s b, s.glob.bootSt = 0 ∨ (s.glob.bootSt = 3 ∧ s.glob.newImage = true) → b.imageA = false → b.imageB = false →
    exec (.boot b) s = .next { s with
      glob := { s.glob with bootSt := 3, newImage := false, ready := BitVec.ofNat 64 (2 ^ 46 + 2 ^ 48) } }) ∧
  (∀ s b, s.glob.bootSt = 3 → s.glob.newImage = true → b.imageA = true ∨ b.imageB = true →
    ∃ t, exec (.boot b) s = .next t ∧ (t.glob.bootSt = 1 ∨ t.glob.bootSt = 2)) ∧
  (∀ s a p val, mayPriv s a = true → p < 128 → ∃ t, exec (.routePortWrite a p val) s = .next t ∧
    (look t.links.routes p 0).toNat = bits val.toNat 7 1 * 128 + bits val.toNat 0 3 ∧
    (∀ q, q ≠ p → look t.links.routes q 0 = look s.links.routes q 0) ∧
    ∀ q, portOf s p = some q → routeBusy s p = true → routePort t p ≠ some q → look? t.links.draining p = some q) ∧
  (∀ s a p val, mayPriv s a = false → ∀ i ∈ [Instr.routePortWrite a p val, .dieMapWrite a val],
    exec i s = .next { s with glob := { s.glob with drop := satAdd 32 s.glob.drop 1 } }) ∧
  (∀ s a val, mayPriv s a = true →
    let refl := val.getLsbD 2
    let rot := BitVec.ofNat 2 (bits val.toNat 0 2)
    (s.glob.dmStat = 3 →
      exec (.dieMapWrite a val) s = .next { s with glob := { s.glob with drop := satAdd 32 s.glob.drop 1 } }) ∧
    (s.glob.dmStat ≠ 3 → refl = s.glob.refl → rot = s.glob.rot →
      exec (.dieMapWrite a val) s = .next { s with glob := { s.glob with dmStat := 1 } }) ∧
    (s.glob.dmStat ≠ 3 → ¬ (refl = s.glob.refl ∧ rot = s.glob.rot) → spanBlocks s refl rot = true →
      exec (.dieMapWrite a val) s = .next { s with glob := { s.glob with dmStat := 2 } }) ∧
    (s.glob.dmStat ≠ 3 → ¬ (refl = s.glob.refl ∧ rot = s.glob.rot) → spanBlocks s refl rot = false →
      exec (.dieMapWrite a val) s = .next { s with
        glob := { s.glob with dmStat := 3, dmPend := some (refl, rot) }, stream := s.stream ++ [.dieMap true] })) ∧
  (∀ s refl rot, s.glob.dmPend = some (refl, rot) →
    (∀ w ∈ allWarps s, w.st.resident = true → dieMoves s refl rot (dieOfCore w.core) = false) →
    exec .dieMapApply s = .next { s with
      glob := { s.glob with refl := refl, rot := rot, dmStat := 1, dmPend := none }
      stream := s.stream ++ [.dieMap false] }) ∧
  ∀ s up, ∃ t, exec (.hostLinkTraining up) s = .next t ∧ t.glob.ready.getLsbD 46 = up ∧
    (∀ n, n ≠ 46 → t.glob.ready.getLsbD n = s.glob.ready.getLsbD n) ∧ t.mem = s.mem ∧ t.warps = s.warps

/-! ## Launches -/

/-- R321, R327 to R332: the launch register of an idle context takes the record's address; of a busy one it sets error 1. A
record that cannot be read refuses the launch with error 2, a malformed one with 3, one that does not fit with 4, and
nothing else of the context changes; the record is read once no read of it waits. A launch that is placed runs with every crew live on a core and each of its warps
unstarted at the entry, all lanes live, priority 3. A die that applies the entry starts the warps that it placed on
that die's cores. It
takes the model's readings of log 45, 55, 56 and 57. -/
def Obligations.Launches : Prop :=
  (∀ s a ctx val, mayPage s a ctx = true →
    ((ctxAt s ctx).state = 0 → ∃ t, exec (.launchWrite a ctx val) s = .next t ∧
      ctxAt t ctx = { ctxAt s ctx with raddr := bits val.toNat 6 50 * 64, state := 1 }) ∧
    ((ctxAt s ctx).state ≠ 0 → ∃ t, exec (.launchWrite a ctx val) s = .next t ∧
      ctxAt t ctx = { ctxAt s ctx with err := 1 })) ∧
  (∀ s ctx, (ctxAt s ctx).state = 1 → (∀ q ∈ s.queues, ∀ c ∈ q.2, c.ctx ≠ ctx) →
    launchWaits s ctx = false →
    (recordWords s ctx = none → ∃ t, exec (.launchRecordRead ctx) s = .next t ∧
      ctxAt t ctx = { ctxAt s ctx with err := 2, state := 0 } ∧ t.warps = s.warps ∧ t.crews = s.crews) ∧
    ∀ ws, recordWords s ctx = some ws →
      (recordBad ws = true → ∃ t, exec (.launchRecordRead ctx) s = .next t ∧
        ctxAt t ctx = { ctxAt s ctx with err := 3, state := 0 } ∧ t.warps = s.warps ∧ t.crews = s.crews) ∧
      (recordBad ws = false →
        let l := launchOf ws
        let r := placeAll ctx l (List.range (crewCount l)) { st := clearContext s ctx, n := [], fixed := [], other := [] }
        (r = none → ∃ t, exec (.launchRecordRead ctx) s = .next t ∧
          ctxAt t ctx = { ctxAt s ctx with err := 4, state := 0 } ∧ t.warps = s.warps ∧ t.crews = s.crews) ∧
        (r.isSome = true → ∃ t, exec (.launchRecordRead ctx) s = .next t ∧ (ctxAt t ctx).launch = some l ∧
          (ctxAt t ctx).state = 2 ∧ (ctxAt t ctx).err = 0 ∧ (ctxAt t ctx).livec = crewCount l ∧
          (ctxAt t ctx).placed = crewCount l ∧ (ctxAt t ctx).phase = 0 ∧
          t.stream = s.stream ++ [.launch ctx l (ctxAt s ctx).clusters] ∧
          ∀ k < crewCount l, ∃ y, crewAt t (crewKey ctx k) = some y ∧ y.ctx = ctx ∧ y.id = k ∧ y.st = .live ∧
            y.wpc = l.wpc ∧ y.pages = l.spages ∧ y.acc = [] ∧ y.entry = s.stream.length ∧
            ∀ i < l.wpc, ∃ w, warpAt t (warpKey (crewKey ctx k) i) = some w ∧ w.st = .unstarted ∧ w.core = y.core ∧
              w.exec = BitVec.allOnes 32 ∧ w.live = BitVec.allOnes 32 ∧ w.pc = l.entry ∧ w.prio = 3 ∧
              w.alloc = 16 * l.regs ∧ w.stack = [] ∧ w.main = []))) ∧
  ∀ s d e, d < 8 → s.stream[look s.versions d 0]? = some e →
    ∃ t, exec (.placementEntryApply d) s = .next t ∧ look t.versions d 0 = look s.versions d 0 + 1 ∧
      ∀ k w, warpAt s k = some w → warpAt t k = some (
        let here := w.st == .unstarted && dieOfCore w.core == d &&
          (crewAt s w.crewK).any fun c => c.entry == look s.versions d 0
        match e with
        | .launch _ _ _ => if here then { w with st := .ready } else w
        | .resume _ _ => if here then { w with st := .ready } else w
        | _ => w)

/-! ## Calving requests -/

/-- R389 to R393: a request to a running launch withholds the highest running cores, closed over spans, and vacates them: a
warp there stops at its boundary, or once its handler has returned or the grace has passed. One made while another runs, or
of no core, or of no launch, is refused with STAT 10; every write stores N. When every chosen crew is quiet they are saved with their warps, and a
KIND 4 record waits; each of the crews is in a group, which waits for a return command unless a core of it has left
service. A return command lifts every withheld mark; a group with room resumes once its records can be read, one
without waits for the next crew exit or return. It takes the model's
readings of log 24, 58 and 73. -/
def Obligations.CalvingRequests : Prop :=
  (∀ s a ctx n, mayPriv s a = true → (ctxAt s ctx).cstat ≠ 1 → n % 256 ≠ 0 → (ctxAt s ctx).state = 2 →
    keysRise s.warps = true → (∀ e ∈ s.warps, e.2.key = e.1) →
    let cores := closeSpans s ctx 192 ((runningCores s ctx).take (n % 256))
    ∃ t, exec (.calveCommand a ctx n) s = .next t ∧ (ctxAt t ctx).cstat = 1 ∧ (ctxAt t ctx).calveN = n % 256 ∧
      (∃ l, t.stream = s.stream ++ .calve ctx (n % 256) :: l) ∧
      (ctxAt t ctx).withheld = dedup ((ctxAt s ctx).withheld ++ cores) ∧
      (ctxAt t ctx).vacating = dedup ((ctxAt s ctx).vacating ++ cores) ∧ (ctxAt t ctx).calveAt = s.time ∧
      ∀ k w, warpAt s k = some w → w.ctx = ctx → w.core ∈ cores → w.st = .running →
        ∃ w', warpAt t k = some w' ∧ (w.tm = true → (coreAt s w.core).inService = true → w'.calveWait = true ∧ w'.st = .running) ∧
          (w.tm = false → w'.st = .ready ∧ w'.pc = w.pc - 4 * w.run.limm.length ∧ w'.run.limm = [])) ∧
  (∀ s a ctx n, mayPriv s a = true → (ctxAt s ctx).cstat = 1 ∨ n % 256 = 0 ∨ (ctxAt s ctx).state ≠ 2 →
    ∃ t, exec (.calveCommand a ctx n) s = .next t ∧ ctxAt t ctx = { ctxAt s ctx with calveN := n % 256, cstat := 2 } ∧
      t.warps = s.warps) ∧
  (∀ s k w, warpAt s k = some w → w.key = k → w.calveWait = true → w.st = .running →
    (ctxAt s w.ctx).calveAt + 1000 * min (ctxAt s w.ctx).grace 1000 ≤ s.time →
    exec (.graceExpire k) s = .next (setWarp s k { w with
      calveWait := false, tblPages := none, st := .ready, pc := w.pc - 4 * w.run.limm.length, code := none
      run := { w.run with pos := w.run.pos - w.run.limm.length, limm := [] } })) ∧
  (∀ s ctx, (ctxAt s ctx).vacating ≠ [] → saveReady s ctx = true → keysRise s.warps = true →
    (∀ e ∈ s.warps, e.2.key = e.1) → keysRise s.crews = true → (∀ e ∈ s.crews, crewKey e.2.ctx e.2.id = e.1) →
    ∃ t, exec (.calveSaveDone ctx) s = .next t ∧ (ctxAt t ctx).vacating = [] ∧ (ctxAt t ctx).cstat = 0 ∧
      (ctxAt t ctx).done = (ctxAt s ctx).vacating.length ∧
      (ctxAt t ctx).savedc = (ctxAt s ctx).savedc + (vacatedCrews s ctx).length ∧
      (∃ r, (ctxAt t ctx).waiting = (ctxAt s ctx).waiting ++ [r] ∧ r.kind = 4) ∧
      (∀ e ∈ vacatedCrews s ctx, ∃ y, crewAt t e.1 = some y ∧ y.st = .saved ∧ y.bars = e.2.bars) ∧
      (∀ e ∈ vacatedCrews s ctx, ∃ g, e.2.id ∈ g ∧ (g ∈ (ctxAt t ctx).groups ∨ g ∈ (ctxAt t ctx).returning) ∧
        ((coreAt s e.2.core).inService = false → g ∈ (ctxAt t ctx).returning)) ∧
      ∀ k w, warpAt s k = some w → (∃ e ∈ vacatedCrews s ctx, w.crewK = e.1) → ∃ w', warpAt t k = some w' ∧
        w'.st = .saved (w.st == .stopped) ∧ w'.main = w.main ∧ w'.pc = w.pc) ∧
  (∀ s a ctx n, mayPriv s a = true →
    ((ctxAt s ctx).cstat = 1 → ∃ t, exec (.returnCommand a ⟨ctx, n⟩) s = .next t ∧
      ctxAt t ctx = { ctxAt s ctx with calveN := n % 256, cstat := 2 }) ∧
    ((ctxAt s ctx).cstat ≠ 1 → ∃ t, exec (.returnCommand a ⟨ctx, n⟩) s = .next t ∧ (ctxAt t ctx).cstat = 0 ∧
      (ctxAt t ctx).calveN = n % 256 ∧ (ctxAt t ctx).withheld = [] ∧ (ctxAt t ctx).groups = [] ∧
      (ctxAt t ctx).noRoom = [] ∧
      ∀ g, g ∈ (ctxAt t ctx).returning ↔
        g ∈ (ctxAt s ctx).returning ∨ g ∈ (ctxAt s ctx).groups ∨ g ∈ (ctxAt s ctx).noRoom)) ∧
  ∀ s ctx n g, (ctxAt s ctx).returning[n]? = some g →
    (∀ h ∈ (ctxAt s ctx).returning.take n, seatGroup s ctx (savedOf s ctx h) = none) →
    (∀ e ∈ savedOf s ctx g, recordUnread s e.2 = false) →
    (∀ u, savedOf s ctx g ≠ [] → seatGroup s ctx (savedOf s ctx g) = some u →
      ∃ t, exec (.groupResume ctx n) s = .next t ∧
        t.warps = (((savedOf s ctx g).map (·.1)).foldl resumeCrew u).warps ∧
        (ctxAt t ctx).savedc = (ctxAt s ctx).savedc - (savedOf s ctx g).length) ∧
    (savedOf s ctx g ≠ [] → seatGroup s ctx (savedOf s ctx g) = none →
      ∃ t, exec (.groupResume ctx n) s = .next t ∧ g ∈ (ctxAt t ctx).noRoom ∧ t.warps = s.warps ∧
        (ctxAt t ctx).returning = (ctxAt s ctx).returning.drop (n + 1))

/-! ## Steering -/

/-- R73, R252, R332, R344 to R349: a core that leaves service has width 0 in the placement stream and its contexts vacate it.
A write of live lanes or rows by firmware is pending, or refused with STAT 2, as every write is while a rewrite of the
quarter is under way, or changes nothing; it takes effect when no
warp of the quarter is in a holder, and the new width is posted. A retired bank serves no logical bank. With 192 or more
live columns each logical column is on a live one; with 96 to 191 two passes use the first 96; with fewer the core leaves
service. It takes the model's reading of log 59. -/
def Obligations.Steering : Prop :=
  (∀ s core, core < 192 → (coreAt s core).inService = true → ∃ t, exec (.coreOutOfService core) s = .next t ∧
    (coreAt t core).inService = false ∧ (coreAt t core).width = 0 ∧ t.stream = s.stream ++ [.width core 0] ∧
    ∀ y ∈ coreCrews s core, (ctxAt t y.ctx).cstat = 1 ∧ core ∈ (ctxAt t y.ctx).vacating) ∧
  (∀ s core u, core < 192 → unitLive (coreAt s core) u = true → (coreAt s core).failing.contains u = false →
    ∃ t, exec (.laneSelfCheckFail core u) s = .next t ∧ (coreAt t core).failing = (coreAt s core).failing ++ [u] ∧
      (coreAt t core).quarters = (coreAt s core).quarters ∧
      ∀ p, (coreAt t core).pendCols.getLsbD p = ((coreAt s core).pendCols.getLsbD p && u != .column p)) ∧
  (∀ s core q (val : Word), core < 192 → q < 4 → q < (coreAt s core).quarters.length →
    let x := quarterAt (coreAt s core) q
    let new := BitVec.ofNat 32 val.toNat
    (∃ t, exec (.qlaneWrite .fw core q val) s = .next t ∧ quarterAt (coreAt t core) q =
      if steerRefused s core q { x with pendLive := some new } = true then { x with stat := 2 }
      else if new = x.live then { x with stat := 0 } else { x with stat := 1, pendLive := some new }) ∧
    (∃ t, exec (.qrowsWrite .fw core q val) s = .next t ∧ quarterAt (coreAt t core) q =
      if steerRefused s core q { x with pendRows := some new } = true then { x with stat := 2 }
      else if new = x.rows then { x with stat := 0 } else { x with stat := 1, pendRows := some new }) ∧
    (rewriting s core q = true → steerRefused s core q { x with pendLive := some new } = true ∧
      steerRefused s core q { x with pendRows := some new } = true)) ∧
  (∀ s core q, rewriting s core q = true → (∀ w ∈ quarterWarps s core q, w.inHolder = false) →
    (coreAt s core).inService = true →
    let x := quarterAt (coreAt s core) q
    ∃ t y, exec (.steeringRewriteDone core q) s = .next t ∧ quarterAt (coreAt t core) q = y ∧
      y.live = x.pendLive.getD x.live ∧ y.rows = x.pendRows.getD x.rows ∧ y.pendLive = none ∧ y.pendRows = none ∧
      y.stat = 0 ∧
      ((∃ z ∈ (coreAt t core).quarters, z.live ≠ 0) →
        t.stream = s.stream ++ [.width core (widthOf (coreAt t core))] ∧ (coreAt t core).inService = true) ∧
      ((∀ z ∈ (coreAt t core).quarters, z.live = 0) → (coreAt t core).inService = false)) ∧
  (∀ s core p c', core < 192 → p < 66 → (coreAt s core).deadBanks.contains p = false →
    steerBanks (served (coreAt s core) p) { coreAt s core with deadBanks := (coreAt s core).deadBanks ++ [p] } = some c' →
    ∃ t, exec (.bankRetire core p) s = .next t ∧ (coreAt t core).deadBanks = (coreAt s core).deadBanks ++ [p] ∧
      ∀ l < 64, if bankOf (coreAt s core) l = p then
          bankOf (coreAt t core) l < 66 ∧ (coreAt t core).deadBanks.contains (bankOf (coreAt t core) l) = false
        else bankOf (coreAt t core) l = bankOf (coreAt s core) l) ∧
  ∀ s core, core < 192 → (coreAt s core).pendCols ≠ (coreAt s core).cols →
    let live := (coreAt s core).pendCols
    ∃ t, exec (.columnSteerRewrite core) s = .next t ∧ (coreAt t core).cols = live ∧
      (192 ≤ liveCols live → ∀ j < 192, live.getLsbD (columnOf (coreAt t core) j) = true ∧
        (live.getLsbD (columnOf (coreAt s core) j) = true →
          columnOf (coreAt t core) j = columnOf (coreAt s core) j)) ∧
      (96 ≤ liveCols live → liveCols live < 192 → ∀ j < 192,
        columnOf (coreAt t core) j = ((List.range 196).filter live.getLsbD).getD (j % 96) 0) ∧
      (liveCols live < 96 → (coreAt t core).inService = false)

/-! ## Power -/

/-- R350 to R353, R406 to R418, R426: clusters and the slew limiter. A cluster none of whose warps has been in a holder for
128 clocks becomes quiescent. At a window boundary the first N pending clusters upward from the one after the last first are
admitted. At a grant boundary a cluster whose grant was not written twice, or every cluster after a mean over EFF, takes the
fail-safe grant, and any other runs at its RATE and step. The 100th sample of an interval sets OVR where the mean is over
EFF, and a boundary comes only after it; a paced interval is bounded by EFF where firmware's fail-safe values are. Lost clocks
are not counted. Time stops at the next boundary and at a hand-over's expiry until they have been handled. It takes the
model's readings of log 77 and 96. -/
def Sys2Proof.Claims.GrantsAndSlew : Prop :=
  (∀ s c, c < 24 → s.power.clusters.length = 24 → (clusterAt s c).quiet = false →
    (∀ w ∈ allWarps s, clusterOfCore w.core = c → w.inHolder = false) → 1280 ≤ (clusterAt s c).idle →
    ∃ t, exec (.clusterQuiesce c) s = .next t ∧ clusterAt t c = { clusterAt s c with quiet := true, pending := false } ∧
      ∀ d, d ≠ c → clusterAt t d = clusterAt s d) ∧
  (∀ s, s.power.clusters.length = 24 → pendingSet s ≠ [] → s.power.episode = none →
    (s.power.slewN = 0 ∨ (s.time % (10 * max 1 s.power.win) = 0 ∧ s.power.slewAt ≠ some s.time)) →
    let order := ((List.range 24).map fun d => (s.power.first + 1 + d) % 24).filter (pendingSet s).contains
    let go := if s.power.slewN = 0 then order else order.take s.power.slewN
    ∃ t, exec .slewAdmit s = .next t ∧ t.power.slewAt = some s.time ∧
      ∀ c < 24, (clusterAt t c).quiet = if c ∈ go then false else (clusterAt s c).quiet) ∧
  (∀ s, s.power.clusters.length = 24 → (s.power.boundary + 1) * 100000 ≤ s.time →
    100 ≤ s.power.sampleCnt →
    ∃ t, exec .grantBoundary s = .next t ∧ t.power.boundary = s.power.boundary + 1 ∧ t.power.paced = s.power.overEff ∧
      t.power.overEff = false ∧ t.power.sampleSum = 0 ∧ t.power.sampleCnt = 0 ∧ ∀ n < 24,
        let c := clusterAt s n
        let d := clusterAt t n
        let miss := if c.wrote then 0 else min 3 (c.miss + 1)
        d.wrote = false ∧ d.miss = miss ∧
          ((2 ≤ miss ∨ s.power.overEff = true) →
            d.gstate = 1 ∧ d.rateNow = s.power.fsrate ∧ d.step = min (min s.power.fsstep 13) (min (s.power.smax.getD c.rail 13) 13)) ∧
          (miss < 2 → s.power.overEff = false → paceGroups s n = [] →
            d.step = min (min c.gstep 13) (min (s.power.smax.getD c.rail 13) 13) ∧
              d.rateNow = c.rate ∧ d.gstate = if d.step = 0 then 2 else 0)) ∧
  (∀ s w, s.power.sampleCnt < 100 → s.power.boundary * 100000 + 1000 * (s.power.sampleCnt + 1) ≤ s.time →
    let x := if s.power.paced = true ∧ s.power.failSafeFits = true then min w s.power.eff else w
    ∃ t, exec (.powerMonitorSample w) s = .next t ∧ t.power.sampleSum = s.power.sampleSum + x ∧
      t.power.sampleCnt = s.power.sampleCnt + 1 ∧
      (t.power.ovr = true ↔ s.power.ovr = true ∨
        (s.power.sampleCnt = 99 ∧ 100 * s.power.eff < s.power.sampleSum + x))) ∧
  (∀ s c n, c < 24 → s.power.clusters.length = 24 → ∃ t, exec (.supplyDroop c n) s = .next t ∧
    clusterAt t c = { clusterAt s c with lost := (clusterAt s c).lost + 10 * n }) ∧
  ∀ s n, ∃ t, runTurn (.env (.tick n)) s = .next t ∧ s.time ≤ t.time ∧ t.time ≤ s.time + n ∧
    (s.time ≤ (s.power.boundary + 1) * 100000 → t.time ≤ (s.power.boundary + 1) * 100000) ∧
    (s.glob.hpend = true → s.time ≤ s.glob.hpendAt + 100000000 → t.time ≤ s.glob.hpendAt + 100000000)

/-- R413 to R415: tokens and pace groups. A die takes the units it lacks from the token, and passes the rest on with those it
does not need, once in 1 µs. A die that has had no token for 2 µs puts every cluster on the fail-safe grant. A pace write holds a step and
a stamp; at the stamp every member that is not on a fail-safe grant takes the lowest step that all can run. Tokens of 1 W sent fall due at the next boundary and those
received at the one after it. It takes the model's readings of log 62 and 102. -/
def Sys2Proof.Claims.TokensAndPace : Prop :=
  (∀ s d, d < 8 → s.power.tokenMode = true → look s.power.lastPass d 0 + 1000 ≤ s.time →
    let need := unitsNeeded s d
    let tok := look s.power.token d 0
    let held := look s.power.units d 0
    ∃ t, exec (.tokenPass d) s = .next t ∧ look t.power.units d 0 = min (held + min tok (need - held)) need ∧
      look t.power.token d 0 = 0 ∧
      look t.power.token ((d + 1) % 8) 0 + look t.power.units d 0 = look s.power.token ((d + 1) % 8) 0 + tok + held ∧
      look? t.power.lastTok ((d + 1) % 8) = some s.time ∧ look? t.power.lastPass d = some s.time) ∧
  (∀ s d, s.time < look s.power.lastPass d 0 + 1000 → exec (.tokenPass d) s = .next s) ∧
  (∀ s n c, s.power.tokenMode = true → c.gstate ≠ 1 →
    let sum := (((List.range (dieClusters (dieOfCluster n))).map fun i =>
      (clusterAt s (dieFirstCluster (dieOfCluster n) + i)).rate).sum)
    let held := 16 * look s.power.units (dieOfCluster n) 0
    held < sum → rateOf s n c = c.rateNow * held / sum) ∧
  (∀ s d, d < 8 → s.power.tokenMode = true → look s.power.lastTok d 0 + 2000 ≤ s.time →
    ∃ t, exec (.tokenTimeout d) s = .next t ∧ t.power.tokenFail = true ∧ ∀ n < 24, (clusterAt t n).gstate = 1 ∧
      (clusterAt t n).step =
        min (min s.power.fsstep 13) (min (s.power.smax.getD (clusterAt s n).rail 13) 13)) ∧
  (∀ s a g val, mayPriv s a = true → 0 < g → g < 256 → ∃ t x, exec (.paceWrite a g val) s = .next t ∧
    look? t.power.paces g = some x ∧ x.stat = 1 ∧ x.step = bits val.toNat 48 4 ∧ x.stamp = bits val.toNat 0 48 ∧
    x.applied = (paceAt s g).applied ∧ ∀ h, h ≠ g → look? t.power.paces h = look? s.power.paces h) ∧
  (∀ s a g val, mayPriv s a = false →
    exec (.paceWrite a g val) s = .next { s with glob := { s.glob with drop := satAdd 32 s.glob.drop 1 } }) ∧
  (∀ s g, s.power.clusters.length = 24 → (paceAt s g).stat = 1 → (paceAt s g).late = false →
    stampPassed s.time (paceAt s g).stamp = true →
    ∃ t x, exec (.paceApply g) s = .next t ∧ look? t.power.paces g = some x ∧ x.applied ≤ min (paceAt s g).step 13 ∧
      (x.applied = min (paceAt s g).step 13 ∨
        ∃ n < 24, g ∈ paceGroups s n ∧ x.applied = s.power.smax.getD (clusterAt s n).rail 13) ∧
      (x.stat = 3 ∨ x.stat = 0) ∧
      (x.stat = 3 ↔ ∃ n < 24, g ∈ paceGroups s n ∧ s.power.smax.getD (clusterAt s n).rail 13 < (paceAt s g).step) ∧
      (∀ n < 24, g ∈ paceGroups s n → x.applied ≤ min (s.power.smax.getD (clusterAt s n).rail 13) 13) ∧
      (∀ n < 24, paceGroups s n = [g] → (clusterAt s n).gstate ≠ 1 → (clusterAt t n).step = x.applied) ∧
      ∀ n < 24, g ∉ paceGroups s n → clusterAt t n = clusterAt s n) ∧
  (∀ s p (k : Nat), s.power.group ≠ 0 → p < 128 → 2400 ≤ s.power.eff + pendingEff s.power false - k →
    ∃ t, exec (.budgetTokenSend p k) s = .next t ∧ t.power.effDue = s.power.effDue ++ [(1, -(k : Int))] ∧
      t.power.net = s.power.net - k ∧ t.power.pendTok = s.power.pendTok + k) ∧
  ∀ s p (k : Nat), s.power.group ≠ 0 → p < 128 → s.power.eff + pendingEff s.power true + k ≤ 4000 →
    ∃ t, exec (.budgetTokenReceive p k) s = .next t ∧ t.power.effDue = s.power.effDue ++ [(2, (k : Int))] ∧
      t.power.net = s.power.net + k

/-! ## Die collective engines, phases and digests -/

/-- R278, R280 to R283, R397, R405: entries posted within the ring's size move TAIL. A command whose accesses have been made
and whose writes have been performed retires with its number; each flit that it writes holds, element for element, what its
operation makes of its sources, poisoned where a source flit is; one discarded under P retires with no access. A malformed
entry sets P, retires and is recorded as KIND 2, engine 6. The phase of a deterministic launch advances once every live
warp has committed and no privileged write is pending. Two executions of a sampled item are compared once, and a mismatch
is counted and reported. It takes the model's readings of log 44, 69 and 71. -/
def Obligations.CollectivesAndPhases : Prop :=
  (∀ s a ctx d val, mayPage s a ctx = true → d < 8 →
    (BitVec.ofNat 16 val.toNat - (ringAt s ctx d).head).toNat ≤ 2 ^ (ringAt s ctx d).logn →
    ∃ t, exec (.ceTailWrite a ctx d val) s = .next t ∧
      ringAt t ctx d = { ringAt s ctx d with tail := BitVec.ofNat 16 val.toNat } ∧ t.mem = s.mem) ∧
  (∀ s ctx d ws u, d < 8 → (ringAt s ctx d).fault = none → (ringAt s ctx d).cmd = some ws →
    (ringAt s ctx d).head = (ringAt s ctx d).tail → (ringAt s ctx d).phase = 0 → (ringAt s ctx d).discards = false →
    (ringAt s ctx d).pos = 0 → ceMalformed ws = false → ceWord ws 6 = 0 →
    ceFlits ctx d ((ringAt s ctx d).tl.t + 1) ws (ceLen ws / 32) s 0 = .all u → ringAt u ctx d = ringAt s ctx d →
    ceDone (setRing (chargeCe u ctx ws) ctx d { ringAt s ctx d with phase := 1 }) ctx d ((ringAt s ctx d).tl.t + 1) ws = true →
    ∃ t r, exec (.ceCommand ctx d) s = .next t ∧ ringAt t ctx d = r ∧ r.tl.t = (ringAt s ctx d).tl.t + 1 ∧ r.cmd = none ∧
      r.tl.p = (ringAt s ctx d).tl.p ∧ r.stat = 0 ∧ t.mem = u.mem) ∧
  (∀ s ctx d ws l u pa pte, d < 8 → (ringAt s ctx d).fault = none → (ringAt s ctx d).cmd = some ws →
    (ringAt s ctx d).phase = 0 → (ringAt s ctx d).discards = false → ceMalformed ws = false →
    (ringAt s ctx d).pos < ceLen ws / 32 →
    let at_ := 32 * (ringAt s ctx d).pos
    CeReads ctx d ((ceSrcs ws).map (· + at_)) s l u → (ctxAt u ctx).det = false →
    walkWaits u ctx (ceWord ws 0 + at_) = false → flitWaits u ctx (ceWord ws 0 + at_) = false →
    sysTranslate u ctx (ceWord ws 0 + at_) 1 .write true = .ok pa pte → (paKind pa).homed = true →
    ∃ t, exec (.ceCommand ctx d) s = .next t ∧ ∃ x ∈ stageOf t d, x.pa = pa ∧ x.size = 32 ∧ x.warp = ceOwner ctx d ∧
      x.pois = l.any (·.2) ∧ ∀ e < 32 / ceElem (bits (ceWord ws 5) 8 4),
        CeCombined (bits (ceWord ws 5) 0 4) (bits (ceWord ws 5) 8 4)
          (l.map fun b => leNat ((b.1.drop (ceElem (bits (ceWord ws 5) 8 4) * e)).take (ceElem (bits (ceWord ws 5) 8 4))))
          (x.data / 2 ^ (8 * ceElem (bits (ceWord ws 5) 8 4) * e) % 2 ^ (8 * ceElem (bits (ceWord ws 5) 8 4)))) ∧
  (∀ s ctx d ws, d < 8 → (ringAt s ctx d).fault = none → (ringAt s ctx d).cmd = some ws →
    (ringAt s ctx d).head = (ringAt s ctx d).tail → (ringAt s ctx d).tl.p ≠ 0 →
    (ringAt s ctx d).tl.p ≤ (ringAt s ctx d).tl.t →
    ∃ t r, exec (.ceCommand ctx d) s = .next t ∧ ringAt t ctx d = r ∧ r.tl.t = (ringAt s ctx d).tl.t + 1 ∧ r.cmd = none ∧
      t.mem = s.mem ∧ t.warps = s.warps) ∧
  (∀ s ctx d ws, d < 8 → (ringAt s ctx d).fault = none → (ringAt s ctx d).cmd = some ws → ceMalformed ws = true →
    (ringAt s ctx d).discards = false → ∃ t r f, exec (.ceFault ctx d) s = .next t ∧ ringAt t ctx d = r ∧
      r.tl.p = (if (ringAt s ctx d).tl.p = 0 then (ringAt s ctx d).tl.t + 1 else (ringAt s ctx d).tl.p) ∧
      r.tl.t = (ringAt s ctx d).tl.t + 1 ∧ (ctxAt t ctx).waiting = (ctxAt s ctx).waiting ++ [f] ∧ f.kind = 2 ∧ f.eng = 6 ∧
      f.vcore = d ∧ f.seq = (ringAt s ctx d).tl.t + 1 ∧ t.mem = s.mem) ∧
  (∀ s ctx, (ctxAt s ctx).det = true → (ctxAt s ctx).state = 2 → (∃ w ∈ allWarps s, w.ctx = ctx ∧ w.st ≠ .ended) →
    (∀ w ∈ allWarps s, w.ctx = ctx → w.st ≠ .ended → (ctxAt s ctx).phase < w.committed) →
    privilegedPending s ctx = false →
    ∃ t, exec (.phaseAdvance ctx) s = .next t ∧
      ctxAt t ctx = { ctxAt s ctx with phase := ((ctxAt s ctx).phase + 1) % 2 ^ 64, detHeld := [] } ∧
      t.warps = s.warps ∧ t.mem.lines = s.mem.lines) ∧
  ∀ s ctx k a b, (ctxAt s ctx).digests[k]? = some a →
    firstOf (fun (x : Digest) => x.qb == a.qb && x.num == a.num && x.shadow != a.shadow) (ctxAt s ctx).digests = some b →
    ∃ t, exec (.digestCompare ctx k) s = .next t ∧ (ctxAt t ctx).samples = satAdd 32 (ctxAt s ctx).samples 1 ∧
      (ctxAt t ctx).digests = (ctxAt s ctx).digests.filter (fun x => x.qb != a.qb || x.num != a.num) ∧
      (a.hash = b.hash → (ctxAt t ctx).mismatch = (ctxAt s ctx).mismatch ∧ t.glob = s.glob) ∧
      (a.hash ≠ b.hash → (ctxAt t ctx).mismatch = satAdd 32 (ctxAt s ctx).mismatch 1 ∧
        t.glob.detEvents = s.glob.detEvents ++
          [[ctx, a.qb, a.num, if a.shadow then b.crew else a.crew, if a.shadow then a.crew else b.crew]])

/-! ## The host port -/

/-- R3, R6, R18, R27, R338, R425, R427 to R429: the boot maps each region to its frame, leaves a set without channels no
capacity, and sets the ready register, in which the failure of an edge boundary takes no die out of service; or it leaves
the package in recovery. A doorbell appends its 32 bytes to a ticket queue with space, whatever its reserved bits hold,
and clears. It takes the model's readings of log 65 and 66. -/
def Obligations.HostPort : Prop :=
  (∀ s b, s.glob.bootSt = 0 → (b.imageA = true ∨ b.imageB = true) → ∃ t, exec (.boot b) s = .next t ∧
    t.glob.img = !b.imageA ∧ t.glob.fenced = b.failSpoke ∧ t.glob.bootSt = (if b.failSpoke = 0 then 1 else 2) ∧
    t.links.ring = ~~~b.failRing ∧ t.links.spoke = ~~~b.failSpoke ∧ t.links.edge = ~~~b.failEdge ∧
    (∀ v < 8, t.glob.ready.getLsbD v = !b.failSpoke.getLsbD v) ∧ t.glob.ready.getLsbD 9 = true ∧
    t.glob.ready.getLsbD 10 = true ∧ t.glob.ready.getLsbD 46 = b.trained ∧ t.glob.ready.getLsbD 48 = true ∧
    (∀ i < 10, bootN b i = 0 → setFrames t i (setAtIdx t i) = 0) ∧
    ∀ r < 768, ∀ x, regionSet t r = some x → x = bootRegion b r) ∧
  (∀ s b, s.glob.bootSt = 0 → b.imageA = false → b.imageB = false → ∃ t, exec (.boot b) s = .next t ∧
    t.glob.bootSt = 3 ∧ t.glob.ready = BitVec.ofNat 64 (2 ^ 46 + 2 ^ 48) ∧ t.mem = s.mem) ∧
  ∀ s a ctx (val : Word) pa pte, mayPage s a ctx = true → (ctxAt s ctx).door1 = 0 →
    let qb := bits val.toNat 0 4
    let die := bits val.toNat 4 3
    vaWaits s ctx (bits (ctxAt s ctx).door0.toNat 5 51 * 32) 32 = false →
    sysTranslate s ctx (bits (ctxAt s ctx).door0.toNat 5 51 * 32) 32 .read true = .ok pa pte →
    (queueOf s ctx qb).cls = 2 → (queueOf s ctx qb).closed = false →
    ((queueOf s ctx qb).sub die).length < 2 ^ (queueOf s ctx qb).logcap →
    ∃ t x, exec (.doorbell a ctx val) s = .next t ∧ (ctxAt t ctx).door1 = 0 ∧
      (queueOf t ctx qb).sub die = (queueOf s ctx qb).sub die ++ [x] ∧ x.data = wordsOf (sysRead s pa 32).1 ∧
      x.seg = die ∧ t.mem = s.mem

/-- R25, R407, R409, R411, R420 to R422, R426: register writes and who makes them. Ownership of the package passes by claim,
by hand-over within 100 ms and by release, and an offer lapses after 100 ms; of claims at one time the host's wins, then the
BMC's, then the fabric manager's, and the others' writes count as dropped. A context's page takes writes of an agent that
may access it, and ignores the others; a register of firmware takes firmware's; a privileged one firmware's and the owner's,
and any other write is dropped and counted. It takes the model's readings of log 16, 67, 99 and
100. -/
def Obligations.RegisterWrites : Prop :=
  (∀ s m, ownerCode m ≠ 0 →
    (s.glob.owner = 0 → s.glob.hpend = false ∨ s.glob.succ.toNat ≠ ownerCode m → exec (.ownerClaim m) s =
      .next { s with glob := { s.glob with owner := BitVec.ofNat 2 (ownerCode m), claimAt := some s.time } }) ∧
    (s.glob.hpend = true → s.glob.succ.toNat = ownerCode m → s.time ≤ s.glob.hpendAt + 100000000 →
      exec (.ownerClaim m) s =
        .next { s with glob := { s.glob with owner := BitVec.ofNat 2 (ownerCode m), hpend := false, claimAt := none } }) ∧
    (s.glob.owner ≠ 0 → s.glob.hpend = false ∨ s.glob.succ.toNat ≠ ownerCode m →
      let drops := { s.glob with drop := satAdd 32 s.glob.drop 1 }
      (s.glob.claimAt = some s.time → ownerCode m < s.glob.owner.toNat → exec (.ownerClaim m) s =
        .next { s with glob := { drops with owner := BitVec.ofNat 2 (ownerCode m), claimAt := some s.time } }) ∧
      (s.glob.claimAt ≠ some s.time ∨ s.glob.owner.toNat < ownerCode m → s.glob.owner.toNat ≠ ownerCode m →
        exec (.ownerClaim m) s = .next { s with glob := drops }) ∧
      (s.glob.owner.toNat = ownerCode m → exec (.ownerClaim m) s = .next s))) ∧
  (∀ s m n, isOwner s m = true → exec (.ownerNameSuccessor m n) s =
    .next { s with glob := { s.glob with succ := BitVec.ofNat 2 (ownerCode n), hpend := true, hpendAt := s.time } }) ∧
  (∀ s m, isOwner s m = true → exec (.ownerRelease m) s =
    .next { s with glob := { s.glob with owner := 0, claimAt := none } }) ∧
  (∀ s m n, isOwner s m = false →
    exec (.ownerNameSuccessor m n) s = .next { s with glob := { s.glob with drop := satAdd 32 s.glob.drop 1 } } ∧
    exec (.ownerRelease m) s = .next { s with glob := { s.glob with drop := satAdd 32 s.glob.drop 1 } }) ∧
  (∀ s, s.glob.hpend = true → s.glob.hpendAt + 100000000 ≤ s.time →
    exec .handoverExpire s = .next { s with glob := { s.glob with hpend := false } }) ∧
  (∀ s a ctx (val : Word), mayPage s a ctx = true → ctx < 64 →
    (∃ t, exec (.registerWrite a (.ptRoot ctx) val) s = .next t ∧
      ctxAt t ctx = { ctxAt s ctx with ptRoot := bits val.toNat 11 41 * 2 ^ 11 }) ∧
    (∃ t, exec (.registerWrite a (.recBase ctx) val) s = .next t ∧
      ctxAt t ctx = { ctxAt s ctx with recBase := bits val.toNat 16 40 * 2 ^ 16 }) ∧
    (∃ t, exec (.registerWrite a (.frBase ctx) val) s = .next t ∧
      ctxAt t ctx = { ctxAt s ctx with frBase := bits val.toNat 14 42 * 2 ^ 14, recHeld := false }) ∧
    (∃ t, exec (.registerWrite a (.caBase ctx) val) s = .next t ∧
      ctxAt t ctx = { ctxAt s ctx with caBase := bits val.toNat 12 44 * 2 ^ 12 }) ∧
    (isOwner s a = true → ∃ t, exec (.registerWrite a (.ctxCfg ctx) val) s = .next t ∧
      ctxAt t ctx = { ctxAt s ctx with
        clusters := BitVec.ofNat 24 val.toNat, fn := bits val.toNat 54 5, prv := val.getLsbD 32 }) ∧
    (isOwner s a = false → ∃ t, exec (.registerWrite a (.ctxCfg ctx) val) s = .next t ∧
      ctxAt t ctx = { ctxAt s ctx with clusters := BitVec.ofNat 24 val.toNat }) ∧
    ((ctxAt s ctx).state = 0 → ∃ t, exec (.registerWrite a (.detBlock ctx 3) val) s = .next t ∧
      ctxAt t ctx = { ctxAt s ctx with seed := val })) ∧
  (∀ s a ctx val, mayPage s a ctx = false → ∀ r ∈ [Reg.ptRoot ctx, .recBase ctx, .frBase ctx, .ctxCfg ctx, .overflow ctx],
    exec (.registerWrite a r val) s = .next s) ∧
  (∀ s n (val : Word), n < 768 ∨ (1024 ≤ n ∧ n < 5120) → ∃ t, exec (.registerWrite .fw (.region n) val) s = .next t ∧
    regionDesc t n = bits val.toNat 30 2 * 2 ^ 30 + bits val.toNat 16 4 * 2 ^ 16 + bits val.toNat 0 12 ∧
    ∀ m, m ≠ n → regionDesc t m = regionDesc s m) ∧
  (∀ s a val n, a ≠ .fw → ∀ r ∈ [Reg.region n, .setCtl n, .sliceCtl, .alwCtl n, .slewCtl],
    exec (.registerWrite a r val) s = .next { s with glob := { s.glob with drop := satAdd 32 s.glob.drop 1 } }) ∧
  (∀ s a val n, mayPriv s a = false → ∀ r ∈ [Reg.clGrant n, .railCtl n, .arbCtl, .siteCtl, .fabId],
    exec (.registerWrite a r val) s = .next { s with glob := { s.glob with drop := satAdd 32 s.glob.drop 1 } }) ∧
  (∀ s a (val : Word) n, mayPriv s a = true → n < 24 → s.power.clusters.length = 24 →
    ∃ t, exec (.registerWrite a (.clGrant n) val) s = .next t ∧ (clusterAt t n).gstep = bits val.toNat 48 4 ∧
      (clusterAt t n).cap = bits val.toNat 32 16 ∧ (clusterAt t n).rate = bits val.toNat 16 16 ∧
      (clusterAt t n).wrote = true ∧ (clusterAt t n).step = (clusterAt s n).step ∧
      (clusterAt t n).rail = (if (clusterAt s n).step = 0 then bits val.toNat 60 2 else (clusterAt s n).rail) ∧
      ∀ m, m ≠ n → clusterAt t m = clusterAt s m) ∧
  (∀ s a (val : Word), mayPriv s a = true → ∃ t, exec (.registerWrite a .arbCtl val) s = .next t ∧
    t.power.limit = max 96 (min (bits val.toNat 40 8) 160) ∧ t.power.eff = s.power.eff ∧
    t.power.fsstep = bits val.toNat 20 4 ∧ t.power.fsrate = bits val.toNat 24 16 ∧
    (t.power.ovr = true ↔ s.power.ovr = true ∧ val.getLsbD 16 = false)) ∧
  ∀ s (val : Word) w, ∃ t, exec (.registerWrite .host (.msix w) val) s = .next t ∧
    look t.glob.msix (w % 4096) 0 = val ∧ t.mem = s.mem ∧
    ∀ e, e ∈ t.glob.pba ↔ e ∈ s.glob.pba ∧ t.glob.msixMasked e.1 = true

/-! ## The step and its frame -/

/-- R149, R150, R155, R160, R350, R416: what every completion shares. The instruction has taken a position and, if
long-latency, a slot; its words are behind pc; the LIMM words before it are consumed; its weight is charged to its cluster's
allowance and to counter 0 of its context. A warp that a calving
request lets run while TM is 1 goes on from there. No other warp, no other state and no byte changes. It takes the model's
reading of log 29. -/
def Obligations.IssueAdvances : Prop :=
  ∀ s k w m, warpAt s k = some w →
    OnlyWarp s (retire s k m) k ∧ SameBytes s (retire s k m) ∧
    (¬ (w.calveWait = true ∧ w.tm = false) →
      warpAt (retire s k m) k = some { w with
        pc := w.pc + m.size, code := w.code.map fun c => c.drop (m.size / 2), tblPages := none
        run := { w.run with
          pos := w.run.pos + 1, taken := if m.long then w.run.taken + 1 else w.run.taken
          limm := if m.isLimm then w.run.limm else [] } }) ∧
    (w.core / 8 < s.power.clusters.length →
      (clusterAt (retire s k m) (w.core / 8)).cnt = (clusterAt s (w.core / 8)).cnt - m.weight) ∧
    (look (ctxAt s w.ctx).energy 0 0 + m.weight < 2 ^ 64 * 1000000 →
      look (ctxAt (retire s k m) w.ctx).energy 0 0 = look (ctxAt s w.ctx).energy 0 0 + m.weight)

/-- The frame of the lane instructions of fixed latency (R100, R109, R122, R193, R211): one that issues changes of its warp only the
main registers and operand-file entries with their error marks, l0 and l1, the flags and its place in the run, with exec = 0 not
even a register's lanes; it sets flags and clears none, and leaves aflags [11:7]; it changes no other warp, no special,
control or exception register and no byte of memory. -/
def Obligations.RegisterFormsFrame : Prop :=
  ∀ i s t w w', registerForm i = true → warpAt s s.cur = some w → exec i s = .next t → warpAt t s.cur = some w' →
    Issued w w' →
    OnlyWarp s t s.cur ∧ SameBytes s t ∧
    w' = { w with
      main := w'.main, ue := w'.ue, aflags := w'.aflags, pc := w'.pc, code := w'.code, st := w'.st, calveWait := w'.calveWait
      tblPages := w'.tblPages
      run := { w.run with
        ofile := w'.run.ofile, owr := w'.run.owr, oue := w'.run.oue, l0 := w'.run.l0, l1 := w'.run.l1, pos := w'.run.pos, limm := [] } } ∧
    (∀ j, w.aflags.getLsbD j = true → w'.aflags.getLsbD j = true) ∧
    (∀ j, 7 ≤ j → w'.aflags.getLsbD j = w.aflags.getLsbD j) ∧
    (w.exec = 0 →
      (∀ r l, l < 32 → laneAt (w'.vreg r) l = laneAt (w.vreg r) l) ∧
      ∀ n l, l < 32 → laneAt (look w'.run.ofile n Lanes.zero) l = laneAt (look w.run.ofile n Lanes.zero) l)

/-- A step runs the decoded instruction (R148, R155, R343): where the next turn listed is a warp's, which may issue, no
instruction of its class in the quarter's other holder contends with it, and the
halfwords from its pc on, fetched and checked at the run start or still held from there, decode to an instruction, the step is
`exec` of it with the warp as the current one, on the state that the fetch leaves, in which no warp, crew or byte has changed, after which the clusters' quiescence is settled (R353). Where the next turn is an event of the table, the step is that event, settled alike. The
model's list of turns stands for the order that the spec leaves open (log 1). It takes the model's reading of log 34. -/
def Obligations.StepRunsDecoded : Prop :=
  (∀ s k rest w hs i more, s.turns = .warp k :: rest → warpAt s k = some w → mayIssue { s with turns := rest } w = true →
    rival { s with turns := rest } w = none →
    (w.code = some hs ∨ (w.code = none ∧ codeWaits { s with turns := rest } w = false ∧
      fetchRun { s with turns := rest } w (25 - w.run.pos) w.pc = .inl hs)) →
    decode hs = some (i, more) →
    i.wf = true ∧
      ∃ v u, exec i (setWarp { v with cur := k } k { w with code := some hs }) = .next u ∧
        step s = .next (settleClusters u) ∧ (w.code = some hs → v = { s with turns := rest }) ∧
        v.turns = rest ∧ v.warps = s.warps ∧ v.crews = s.crews ∧ v.scr = s.scr ∧ v.queues = s.queues ∧ v.time = s.time ∧
        v.mem.chan = s.mem.chan ∧ ∀ a, (homeByte v a).1 = (homeByte s a).1) ∧
  ∀ s i rest, s.turns = .event i :: rest → i.wf = false → Instr.isEvent i = true →
    ∃ u, exec i { s with turns := rest } = .next u ∧ step s = .next (settleClusters u)

/-- Every step answers a next state (R379): what the spec calls illegal, unmapped or privileged raises a trap, and the
manual gives every instruction an effect. -/
def Obligations.EveryStepAnswers : Prop := (∀ i s, Answers (exec i s)) ∧ ∀ s, Answers (step s)

/-! ## Reset -/

/-- What reset leaves, where the spec gives a value: the round-robin pointer of each interleave set (R26, R31), the control registers of a context (R317, R318, R327, R328, R389, R396),
the owner, ready and die-map registers (R13, R426, R427), the slice control and the slice table, entry e naming slice e mod 64 (R47, R49), FABID, the route table,
the wavelengths and the ports (R67, R69, R70), rails, clusters and pace groups
(R407, R408, R414) and the slew limiter (R352); and no timeline has counted (R86). -/
def Obligations.ResetValues : Prop :=
  let s := State.reset
  (∀ c, (ctxAt s c).bke = true ∧ (ctxAt s c).hc = false ∧ (ctxAt s c).det = false ∧ (ctxAt s c).trapen = 0 ∧
    (ctxAt s c).tvec = 0 ∧ (ctxAt s c).raddr = 0 ∧ (ctxAt s c).state = 0 ∧ (ctxAt s c).livec = 0 ∧ (ctxAt s c).placed = 0 ∧
    (ctxAt s c).cstat = 0 ∧ (ctxAt s c).phase = 0 ∧ (ctxAt s c).grace = 50) ∧
  (s.glob.owner = 0 ∧ s.glob.succ = 0 ∧ s.glob.hpend = false ∧ s.glob.ready = 0 ∧ s.glob.refl = false ∧ s.glob.rot = 0 ∧
    s.glob.dmStat = 0) ∧
  (∀ i < 10, (setAtIdx s i).rrptr = (if i = 8 then 256 else if i = 9 then 16 else if i % 2 = 0 then 32 else 64) - 1) ∧
  (s.mem.slices.rrptr = 63 ∧ s.mem.slices.stat = 0 ∧ ∀ e < 512, sliceEntry s e = e % 64) ∧
  (s.links.fabId = 0 ∧ (∀ p < 128, look s.links.routes p 0 = 0) ∧ (∀ p < 6, (portAt s p).up = false) ∧
    ∀ p < 6, ∀ d < 2, ∀ wl < 64, waveWord (waveAt s p d wl) = 0x80 * 2 ^ 16 + 2 ^ 2 ∧ (waveAt s p d wl).thresh = 10737) ∧
  s.power.smax = [13, 13, 13, 13] ∧
  (∀ c, c < 24 → (clusterAt s c).step = 13 ∧ (clusterAt s c).rail = c % 4 ∧ (clusterAt s c).cnt = 0) ∧
  (s.power.win = 25 ∧ s.power.first = 23 ∧ s.power.slewN = 4) ∧
  (∀ k, timelineAt s k = { t := 0, p := 0, next := 1 }) ∧ ∀ k, warpAt s k = none

/-- At reset every memory is in canonical form. That an unlisted byte reads 0, and so its form of memory, is the model's
choice (log 4). -/
def Obligations.ResetMemoryCanonical : Prop := State.reset.memWf = true

/-- Every step keeps every memory in canonical form: addresses strictly rising, and no byte listed that an unlisted address
reads as. It holds of every state, reachable or not. That an unlisted byte reads 0, and so its form of memory, is the
model's choice (log 4). -/
def Obligations.StepKeepsMemoryCanonical : Prop := ∀ s t, s.memWf = true → step s = .next t → t.memWf = true

/-! ## Encodings -/

/-- R137, R158: the word of every well-formed instruction, at the head of any halfwords, decodes to that instruction with every
operand, and leaves the rest. -/
def Obligations.EncodeThenDecode : Prop :=
  ∀ i rest, i.wf = true → decode (wordHalves (encode i) ++ rest) = some (i, rest)

/-- R137, R139, R158: what decodes is the word of a well-formed instruction, so that no two words are one instruction. -/
def Obligations.DecodeThenEncode : Prop :=
  ∀ hs i rest, decode hs = some (i, rest) → i.wf = true ∧ hs = wordHalves (encode i) ++ rest

/-- Worked encodings of the spec (R274, R300, R305, R308, R310, R319, R320) decode to the instructions they stand for, and EXIT with a nonzero unused field (R139) to none. -/
def Obligations.WorkedEncodings : Prop :=
  decodeWord 0xFFFFF025 = some (.bra (BitVec.ofInt 22 (-4))) ∧
  decodeWord 0x00080CA7 = some (.brc 8 (.v 3) .all) ∧
  decodeWord 0x0001002F = some (.call 64) ∧
  decodeWord 0x00000831 = some .exit ∧
  decodeWord 0x00200833 = some (.mskand (.v 2)) ∧
  decodeWord 0x00000075 = some .tfence ∧
  decodeWord 0x00100831 = none ∧
  decodeWord 0x00000C7B = some .phase ∧
  decodeWord 0x1400047B = some (.trap 5) ∧
  decodeWord 0x14000C5F = some (.fence .sc .package)

/-! ## Rules stated whole -/

/-- R253: ACCZ reads word 0: [1:0] names the set and a nonzero bit of [63:2] raises ILLEGAL_OPERAND. Where it executes, every
element of the set becomes +0 and no element of it stays marked poison. -/
def Obligations.AccumulatorZero : Prop :=
  (∀ c s w x,
    let m := cmdShape c 1 false [] fun _ w => octWord w c 0 / 4 != 0
    Word_ w c 0 x → w.exec ≠ 0 →
    (Ready s w m → ∀ y, crewAt s w.crewK = some y → x % 4 < y.nAcc → Roomy s w 4 0 →
      Accepts (.accz c) m s w 4 (.accz (x % 4))) ∧
    (x / 4 ≠ 0 → Ready s w { m with check := noCheck } →
      exec (.accz c) s = .next (raise s s.cur w (w.trap cILLEGAL_OPERAND)))) ∧
  ∀ s core k rest y a, queueAt s (queueKey core 4) = k :: rest → clusterRuns s (clusterOfCore core) = true →
    mayStart s core k = true → k.discard = false →
    crewAt s k.crew = some y → k.body = .accz a →
    ∃ t y', exec (.mxRetire core) s = .next t ∧ crewAt t k.crew = some y' ∧
      ∀ i < 128, ∀ j < 192, y'.accAt ((a * 128 + i) * 192 + j) = (0, false)

/-- R265: TINV reads word 0: bit t of [15:0] names table t, a nonzero bit of [63:16] raises ILLEGAL_OPERAND, and so does a named
table beyond the crew's share. Where it executes, each named table becomes empty. -/
def Obligations.TablesInvalidated : Prop :=
  (∀ c s w x,
    let m := cmdShape c 1 false [] fun _ w => octWord w c 0 / 2 ^ 16 != 0
    Word_ w c 0 x → w.exec ≠ 0 →
    (Ready s w m → ∀ y, crewAt s w.crewK = some y → Roomy s w 5 0 →
      ((∀ t, x.testBit t = true → t < y.nTbl) → Accepts (.tinv c) m s w 5 (.tinv (BitVec.ofNat 16 x))) ∧
      ((∃ t, x.testBit t = true ∧ y.nTbl ≤ t) →
        exec (.tinv c) s = .next (raise s s.cur w (w.trap cILLEGAL_OPERAND)))) ∧
    (x / 2 ^ 16 ≠ 0 → Ready s w { m with check := noCheck } →
      exec (.tinv c) s = .next (raise s s.cur w (w.trap cILLEGAL_OPERAND)))) ∧
  ∀ s core k rest y m, queueAt s (queueKey core 5) = k :: rest → clusterRuns s (clusterOfCore core) = true →
    mayStart s core k = true → k.discard = false →
    crewAt s k.crew = some y → k.body = .tinv m →
    ∃ t y', exec (.lkRetire core) s = .next t ∧ crewAt t k.crew = some y' ∧
      ∀ n < 16, m.getLsbD n = true → look y'.tables n Table.empty = Table.empty

/-- R294: BARINIT sets COUNT and FAR, sets PH to 0 and clears the arrivals; it raises ILLEGAL_OPERAND where COUNT is 0 or above
16, where FAR is 1 in a crew outside any span, and where the barrier has arrivals in its current phase or a warp of the crew
waits on it. -/
def Obligations.BarrierInitialised : Prop :=
  ∀ c s w x cr b,
    let m := barShape c [] fun s w x => barWordBad x true || barInitBad s w x
    let waiter := ∃ j y ph, warpAt s j = some y ∧ y.crewK = w.crewK ∧ y.st = .blocked (.barrier (x % 16) ph)
    Word_ w c 0 x → w.exec ≠ 0 → crewAt s w.crewK = some cr → cr.bars[x % 16]? = some b →
    Ready s w { m with check := noCheck } → x < 2 ^ 10 →
    (x / 16 % 32 = 0 ∨ 16 < x / 16 % 32 ∨ (x.testBit 9 = true ∧ cr.span = []) ∨ b.arrivals ≠ 0 ∨ waiter →
      exec (.barinit c) s = .next (raise s s.cur w (w.trap cILLEGAL_OPERAND))) ∧
    (x / 16 % 32 ≠ 0 → x / 16 % 32 ≤ 16 → (x.testBit 9 = true → cr.span ≠ []) → b.arrivals = 0 → ¬ waiter →
      ∃ t cr' b', exec (.barinit c) s = .next (retire t s.cur m) ∧ (∀ j, warpAt t j = warpAt s j) ∧
        crewAt t w.crewK = some cr' ∧ cr'.bars[x % 16]? = some b' ∧ b'.count = x / 16 % 32 ∧ b'.far = x.testBit 9 ∧
        b'.ph = false ∧ b'.arrivals = 0 ∧ ∀ n, n ≠ x % 16 → cr'.bars[n]? = cr.bars[n]?)

/-! ## Statements of several parts -/

/-- The integer arithmetic, logic, select and move instructions. -/
def Obligations.IntegerAndLogicInstructions : Prop :=
  Claims.IntegerArithmetic ∧ Claims.LogicSelectMove

/-- Shifts and rotates, bit counting, bit fields and LEA. It takes the model's reading of log 13. -/
def Obligations.ShiftsBitsAndAddresses : Prop :=
  Claims.ShiftsAndRotates ∧ Claims.BitCounting ∧ Claims.BitFields ∧ Claims.ElementAddress

/-- The integer compares, the immediate forms and the integer 16-bit forms. -/
def Obligations.ComparesImmediatesAndShortForms : Prop :=
  Claims.IntegerCompares ∧ Claims.ImmediateForms ∧ Claims.ShortForms

/-- Float arithmetic, minimum, maximum and sign, compares and classification. It takes the model's reading of log 15.
-/
def Obligations.FloatArithmeticAndCompares : Prop :=
  Claims.FloatArithmetic ∧ Claims.RoundedResults ∧ Claims.FloatMinMaxSign ∧ Claims.FloatCompares

/-- The float functions, and what they give for special operands. It takes the model's reading of log 5. -/
def Obligations.FloatFunctionInstructions : Prop :=
  Claims.FloatFunctions ∧ Claims.RoundedFunctions ∧ Claims.FunctionSpecialOperands

/-- The conversions and the packing of scaled blocks and FP8. It takes the model's reading of log 15. -/
def Obligations.ConversionInstructions : Prop :=
  Claims.Conversions ∧ Claims.ConvertedValues ∧ Claims.BlockPacking

/-- Shuffles, votes, scans and reductions, segments and packing across lanes. It takes the model's readings of log 12
and 21. -/
def Obligations.CrossLaneInstructions : Prop :=
  Claims.Shuffles ∧ Claims.Votes ∧ Claims.Reductions ∧ Claims.SegmentsAndPacking

/-- Calls, jumps, JOIN, BRK and EXIT. It takes the model's reading of log 36. -/
def Obligations.CallsJoinsAndExits : Prop := Claims.CallsAndJumps ∧ Claims.JoinBreakExit

/-- The mask and the flag instructions. -/
def Obligations.MaskAndFlagInstructions : Prop := Claims.MaskInstructions ∧ Claims.FlagInstructions

/-- The instructions that ask something of the warp or its run, and PHASE. -/
def Obligations.WarpAndPhaseRequests : Prop := Claims.WarpRequests ∧ Claims.PhaseInstruction

/-- TRAP and the trailer. -/
def Obligations.TrapAndTrailerInstructions : Prop := Claims.TrapInstruction ∧ Claims.Trailers

/-- Lane loads and stores, compress stores and atomics at issue. It takes the model's readings of log 10, 35 and 37.
-/
def Obligations.LaneAccessesAtIssue : Prop :=
  Claims.LoadsAndStores ∧ Claims.CompressStores ∧ Claims.AtomicsAtIssue

/-- The special registers, and messages and credits in transit. It takes the model's readings of log 31, 49 and 74. -/
def Obligations.SpecialRegistersAndMessages : Prop := Claims.SpecialRegisters ∧ Claims.MessageTransit

/-- The queue instructions and the queues' events. It takes the model's readings of log 17, 32, 48 and 57. -/
def Obligations.QueueInstructionsAndEvents : Prop := Claims.QueueInstructions ∧ Claims.QueueEvents

/-- The record instructions and RECORD_FETCH. It takes the model's reading of log 72. -/
def Obligations.RecordInstructionsAndFetch : Prop := Claims.RecordInstructions ∧ Claims.RecordFetch

/-- The barrier instructions and FAR_ARRIVAL. It takes the model's reading of log 74. -/
def Obligations.BarriersAndFarArrivals : Prop := Claims.Barriers ∧ Claims.FarArrivals

/-- The copy engine's events, and what memory and scratchpad hold after its commands. It takes the model's readings of
log 39, 88 and 89. -/
def Obligations.CopyEngineEvents : Prop :=
  Claims.CopyQueueEvents ∧ Claims.CopyLoadsAndStores ∧ Claims.RaggedAndEntropyLoads

/-- MX_RETIRE and LK_RETIRE. It takes the model's readings of log 39, 43 and 107. -/
def Obligations.EngineRetirement : Prop :=
  Claims.MatrixRetirement ∧ Claims.AccumulatorTransfers ∧ Claims.RegionLoads ∧ Claims.LookupRetirement ∧ Claims.TableSpills

/-- Run starts, resumptions, promotion and sleep, and the answers to REGRS. -/
def Obligations.SchedulingAndRegisterRequests : Prop :=
  Claims.WarpScheduling ∧ Claims.RegisterRequests

/-- Page walks and the checks of an address, the TLBs and shoot-down. -/
def Obligations.Translations : Prop := Claims.TranslationBuffers ∧ Claims.WalksAndChecks

/-- Where an instruction traps: the run, privilege, operand and address checks. It takes the model's readings of log
22, 25, 26 and 27. -/
def Obligations.WhereInstructionsTrap : Prop :=
  Claims.RunAndPrivilegeTraps ∧ Claims.OperandTraps ∧ Claims.AddressChecksTrap

/-- The torus and the optical ports. It takes the model's readings of log 19, 63, 78, 85, 92 and 98. -/
def Obligations.TorusAndOpticalPorts : Prop := Claims.TorusRouting ∧ Claims.OpticalPorts

/-- Grants and slew, tokens and pace. It takes the model's readings of log 60, 61 and 62. -/
def Obligations.PowerGrantsTokensAndPace : Prop := Claims.GrantsAndSlew ∧ Claims.TokensAndPace
end

