-- ==== Sys2Proof/Laws/Issue.lean ====
section
/-! SUPPORT. What the issue of an instruction comes to: one lemma for each outcome of its effect. -/

set_option Elab.async false

namespace Sys2Proof.Laws

open Sys2Proof Sys2Proof.Machine

/-- No check of R155 fails for an instruction that is ready. -/
theorem issueTrap_ready {s : State} {w : Warp} {m : Shape} (i : Instr) (h : Ready s w m) : issueTrap s w i m = none := by
  have h1 := h.limm
  have h2 := h.chain
  have h3 := h.inRun
  have h4 := h.slot
  have h5 := h.trailer
  have h6 := h.mode
  have h7 : m.allUses.any (·.beyond w.alloc) = false := by
    rw [List.any_eq_false]; intro u hu; simpa using h.within u hu
  have h8 : acting m w = true → m.allUses.any (·.missing w) = false := by
    intro ha; rw [List.any_eq_false]; intro u hu; simpa using h.written ha u hu
  have h9 := h.legal
  have h10 := h.index
  have h11 := h.intact
  have hk := h.known
  have h12 := h.hazardFree
  have c1 : ((!w.run.limm.isEmpty && !m.limm) || (m.isLimm && decide (2 ≤ w.run.limm.length))) = false := by
    rw [Bool.or_eq_false_iff]
    constructor
    · rcases h1 with h1 | h1 <;> simp [h1]
    · cases hb : m.isLimm
      · simp
      · have := h2 hb; simp; omega
  have c2 : decide (24 ≤ w.run.pos) = false := by simp; omega
  have c3 : (m.long && decide (6 ≤ w.run.taken)) = false := by
    cases hb : m.long
    · simp
    · have := h4 hb; simp; omega
  have c4 : (m.ct && !nextIsTrl w m.size) = false := by
    cases hb : m.ct
    · simp
    · simp [h5 hb]
  have c5 : (m.priv && !(ctxAt s w.ctx).prv) = false := by
    cases hb : m.priv
    · simp
    · simp [h6 hb]
  unfold issueTrap
  dsimp only
  rw [c1, c2, c3, c4, c5, h7]
  cases ha : acting m w
  · simp [trapIf, firstSome]
  · have a8 := h8 ha
    have a9 := h9 ha
    have a10 := h10 ha
    have a11 := h11 ha
    have a12 := h12 ha
    have ak := hk ha
    have c12 : ((ctxAt s w.ctx).hc && hazard w m.allUses (m.lanes w)) = false := by
      cases hb : (ctxAt s w.ctx).hc
      · simp
      · simp [a12 hb]
    rw [a10]
    simp [trapIf, firstSome, a8, a9, ak, ueTrap, a11, c12]

/-- An instruction that is ready comes to its effect. -/
theorem issue_ready {s : State} {w : Warp} {m : Shape} (i : Instr) (eff : State → Warp → Eff) (h : Ready s w m) :
    issue i m eff s =
      match eff s w with
      | .trap t => raise s s.cur w t
      | .part s' t =>
        match warpAt s' s.cur with
        | none => s'
        | some w' => raise s' s.cur w' t
      | .stall => s
      | .hold s' => s'
      | .wait b => setWarp s s.cur { w with st := .blocked b }
      | .waitIn s' b => modWarp s' s.cur fun w' => { w' with st := .blocked b }
      | .done s' => retire s' s.cur m
      | .doneTrap s' t =>
        match warpAt (retire s' s.cur m) s.cur with
        | none => retire s' s.cur m
        | some w' => raise (retire s' s.cur m) s.cur w' { t with resume := w'.pc } := by
  have hi : (acting m w && interlocked w m.uses) = false := by
    cases ha : acting m w
    · simp
    · simp [h.arrived ha]
  unfold issue
  rw [h.warp]
  simp only [h.issues, Bool.not_true, Bool.false_eq_true, if_false, issueTrap_ready i h, hi]
  try rfl

/-- An instruction that is ready and whose effect is done has issued. -/
theorem issue_done {s : State} {w : Warp} {m : Shape} (i : Instr) (eff : State → Warp → Eff) (s' : State)
    (h : Ready s w m) (he : eff s w = .done s') : issue i m eff s = retire s' s.cur m := by
  rw [issue_ready i eff h, he]

/-- An instruction that is ready and changes its warp only. -/
theorem issue_warp {s : State} {w : Warp} {m : Shape} (i : Instr) (f : Warp → Warp) (h : Ready s w m) :
    issue i m (warpEff f) s = retire (setWarp s s.cur (f w)) s.cur m :=
  issue_done i _ _ h rfl

/-- A ready long-latency instruction whose result is fixed at issue: with no active lane it has issued and nothing else
happens, else it takes a slot with its value. -/
theorem issue_slot {s : State} {w : Warp} {m : Shape} (i : Instr) (d : Dst) (g : Nat)
    (res : State → Warp → List Nat × Flags) (h : Ready s w m) :
    (w.exec = 0 → issue i m (slotEff d g res) s = retire s s.cur m) ∧
    (w.exec ≠ 0 → issue i m (slotEff d g res) s =
      retire (setWarp s s.cur
        (w.addSlot .relaxed .warp (w.slotDst d g) (.value (res s w).1 (res s w).2))) s.cur m) := by
  constructor
  · intro he
    exact issue_done i _ _ h (by unfold slotEff; rw [if_pos he])
  · intro he
    exact issue_done i _ _ h (by unfold slotEff; rw [if_neg he])

/-- A check of R155 that fails raises its trap. -/
theorem issue_trap {s : State} {w : Warp} {m : Shape} (i : Instr) (eff : State → Warp → Eff) (t : TrapReq)
    (hw : warpAt s s.cur = some w) (hm : mayIssue s w = true) (ht : issueTrap s w i m = some t) :
    issue i m eff s = raise s s.cur w t := by
  unfold issue
  rw [hw]
  simp [hm, ht]

end Sys2Proof.Laws
end

