-- ==== Sys2Proof/Laws/Memory.lean ====
section
/-! SUPPORT. Sparse maps and byte memories: a read after a write, and that every operation keeps the canonical form. -/

set_option Elab.async false

namespace Sys2Proof.Laws

open Sys2Proof Sys2Proof.Machine

/-! ## Reading after writing -/

section Maps

variable {α : Type}

/-- Every key of a map lies above a bound. -/
def above (m : SMap α) (k : Nat) : Prop := ∀ e ∈ m, k < e.1

theorem keysRise_cons (j : Nat) (v : α) (m : SMap α) : keysRise ((j, v) :: m) = true ↔ above m j ∧ keysRise m = true := by
  induction m generalizing j v with
  | nil => simp [keysRise, above]
  | cons e m ih =>
    obtain ⟨k, u⟩ := e
    simp only [keysRise, Bool.and_eq_true, decide_eq_true_eq]
    constructor
    · rintro ⟨hjk, hr⟩
      refine ⟨?_, hr⟩
      intro e he
      rcases List.mem_cons.1 he with rfl | he
      · exact hjk
      · exact Nat.lt_trans hjk (((ih k u).1 hr).1 e he)
    · rintro ⟨ha, hr⟩
      exact ⟨ha (k, u) (by simp), hr⟩

theorem look?_above (m : SMap α) (k : Nat) (h : above m k) : look? m k = none := by
  induction m with
  | nil => rfl
  | cons e m ih =>
    obtain ⟨j, v⟩ := e
    have hj : k < j := h (j, v) (by simp)
    have hn : ¬ j = k := by omega
    simp only [look?, hn, if_false]
    exact ih fun e he => h e (by simp [he])

@[simp] theorem look?_put_same (m : SMap α) (k : Nat) (v : α) : look? (put m k v) k = some v := by
  induction m with
  | nil => simp [put, look?]
  | cons e m ih =>
    obtain ⟨j, u⟩ := e
    simp only [put]
    split
    · simp [look?]
    · split
      · simp [look?]
      · have : ¬ j = k := by omega
        simp [look?, this, ih]

theorem look?_put_other (m : SMap α) (j k : Nat) (v : α) (h : j ≠ k) : look? (put m k v) j = look? m j := by
  induction m with
  | nil => simp [put, look?, Ne.symm h]
  | cons e m ih =>
    obtain ⟨i, u⟩ := e
    simp only [put]
    split
    · simp [look?, Ne.symm h]
    · split
      · subst_vars; simp [look?, Ne.symm h]
      · simp only [look?, ih]

theorem look?_del_other (m : SMap α) (j k : Nat) (h : j ≠ k) : look? (del m k) j = look? m j := by
  induction m with
  | nil => rfl
  | cons e m ih =>
    obtain ⟨i, u⟩ := e
    simp only [del, List.filter_cons] at ih ⊢
    by_cases hi : i = k
    · subst hi
      have : ¬ i = j := fun e => h e.symm
      simp [look?, this, ih]
    · have : (i != k) = true := by simp [hi]
      simp only [this, if_true, look?, ih]

@[simp] theorem look?_del_same (m : SMap α) (k : Nat) : look? (del m k) k = none := by
  induction m with
  | nil => rfl
  | cons e m ih =>
    obtain ⟨i, u⟩ := e
    simp only [del, List.filter_cons] at ih ⊢
    by_cases hi : i = k
    · subst hi; simp [ih]
    · have : (i != k) = true := by simp [hi]
      simp only [this, if_true, look?, hi, if_false, ih]

@[simp] theorem look_putD_same [DecidableEq α] (m : SMap α) (k : Nat) (d v : α) : look (putD m k d v) k d = v := by
  unfold putD
  split
  · subst_vars; simp [look]
  · simp [look]

theorem look_putD_other [DecidableEq α] (m : SMap α) (j k : Nat) (d v : α) (h : j ≠ k) :
    look (putD m k d v) j d = look m j d := by
  unfold putD look
  split
  · rw [look?_del_other m j k h]
  · rw [look?_put_other m j k v h]

/-! ## The canonical form -/

theorem above_put (m : SMap α) (j k : Nat) (v : α) (h : above m j) (hk : j < k) : above (put m k v) j := by
  induction m with
  | nil => intro e he; simp [put] at he; subst he; exact hk
  | cons e m ih =>
    obtain ⟨i, u⟩ := e
    have hi : j < i := h (i, u) (by simp)
    have hm : above m j := fun e he => h e (by simp [he])
    simp only [put]
    split
    · intro e he; simp at he; rcases he with rfl | rfl | he
      · exact hk
      · exact hi
      · exact hm e he
    · split
      · intro e he; simp at he; rcases he with rfl | he
        · exact hk
        · exact hm e he
      · intro e he; simp at he; rcases he with rfl | he
        · exact hi
        · exact ih hm e he

theorem keysRise_put (m : SMap α) (k : Nat) (v : α) (h : keysRise m = true) : keysRise (put m k v) = true := by
  induction m with
  | nil => rfl
  | cons e m ih =>
    obtain ⟨j, u⟩ := e
    obtain ⟨ha, hr⟩ := (keysRise_cons j u m).1 h
    simp only [put]
    split
    · rename_i hk
      refine (keysRise_cons _ _ _).2 ⟨?_, h⟩
      intro e he; simp at he; rcases he with rfl | he
      · exact hk
      · exact Nat.lt_trans hk (ha e he)
    · split
      · subst_vars; exact (keysRise_cons _ _ _).2 ⟨ha, hr⟩
      · exact (keysRise_cons _ _ _).2 ⟨above_put m j k v ha (by omega), ih hr⟩

theorem keysRise_filter (m : SMap α) (p : Nat × α → Bool) (h : keysRise m = true) : keysRise (m.filter p) = true := by
  induction m with
  | nil => rfl
  | cons e m ih =>
    obtain ⟨j, u⟩ := e
    obtain ⟨ha, hr⟩ := (keysRise_cons j u m).1 h
    simp only [List.filter_cons]
    split
    · exact (keysRise_cons _ _ _).2 ⟨fun e he => ha e (List.mem_filter.1 he).1, ih hr⟩
    · exact ih hr

theorem keysRise_del (m : SMap α) (k : Nat) (h : keysRise m = true) : keysRise (del m k) = true :=
  keysRise_filter m _ h

theorem keysRise_putD [DecidableEq α] (m : SMap α) (k : Nat) (d v : α) (h : keysRise m = true) :
    keysRise (putD m k d v) = true := by
  unfold putD
  split
  · exact keysRise_del m k h
  · exact keysRise_put m k v h

theorem mem_put (m : SMap α) (k : Nat) (v : α) (e : Nat × α) (he : e ∈ put m k v) : e = (k, v) ∨ e ∈ m := by
  induction m with
  | nil => simpa [put] using he
  | cons x m ih =>
    obtain ⟨j, u⟩ := x
    simp only [put] at he
    split at he
    · simpa using he
    · split at he
      · subst_vars
        simp at he
        rcases he with rfl | he
        · simp
        · simp [he]
      · simp at he
        rcases he with rfl | he
        · simp
        · rcases ih he with h | h
          · exact .inl h
          · exact .inr (by simp [h])

end Maps

/-! ## Byte memories -/

theorem memory_wf_iff (m : Memory) : Memory.wf m = true ↔ keysRise m = true ∧ ∀ e ∈ m, e.2 ≠ 0 := by
  simp [Memory.wf]

@[simp] theorem memory_wf_nil : Memory.wf ([] : Memory) = true := rfl

/-- Writing a byte keeps the canonical form. -/
@[simp] theorem wrByte_wf (m : Memory) (a : Nat) (b : Byte) (h : Memory.wf m = true) : Memory.wf (wrByte m a b) = true := by
  rw [memory_wf_iff] at h ⊢
  refine ⟨keysRise_putD m a 0 b h.1, ?_⟩
  unfold wrByte putD
  split
  · intro e he
    exact h.2 e (List.mem_filter.1 he).1
  · rename_i hb
    intro e he
    rcases mem_put m a b e he with rfl | he
    · exact hb
    · exact h.2 e he

/-- Writing bytes keeps the canonical form. -/
@[simp] theorem wrBytes_wf (m : Memory) (a : Nat) (bs : List Byte) (h : Memory.wf m = true) :
    Memory.wf (wrBytes m a bs) = true := by
  induction bs generalizing m a with
  | nil => exact h
  | cons b bs ih => exact ih _ _ (wrByte_wf m a b h)

/-- Dropping entries keeps the canonical form. -/
theorem filter_wf (m : Memory) (p : Nat × Byte → Bool) (h : Memory.wf m = true) : Memory.wf (m.filter p) = true := by
  rw [memory_wf_iff] at h ⊢
  exact ⟨keysRise_filter m p h.1, fun e he => h.2 e (List.mem_filter.1 he).1⟩

/-- A byte reads back after its write. -/
@[simp] theorem rdByte_wrByte_same (m : Memory) (a : Nat) (b : Byte) : rdByte (wrByte m a b) a = b := by
  simp [rdByte, wrByte]

/-- A write of one byte leaves every other byte. -/
theorem rdByte_wrByte_other (m : Memory) (a x : Nat) (b : Byte) (h : x ≠ a) : rdByte (wrByte m a b) x = rdByte m x :=
  look_putD_other m x a 0 b h

/-- A write of bytes leaves every byte outside them. -/
theorem rdByte_wrBytes_other (m : Memory) (a x : Nat) (bs : List Byte) (h : x < a ∨ a + bs.length ≤ x) :
    rdByte (wrBytes m a bs) x = rdByte m x := by
  induction bs generalizing m a with
  | nil => rfl
  | cons b bs ih =>
    simp only [List.length_cons] at h
    rw [wrBytes, ih _ _ (by omega), rdByte_wrByte_other m a x b (by omega)]

/-- A written byte reads back. -/
theorem rdByte_wrBytes_in (m : Memory) (a i : Nat) (bs : List Byte) (h : i < bs.length) :
    rdByte (wrBytes m a bs) (a + i) = bs[i] := by
  induction bs generalizing m a i with
  | nil => simp at h
  | cons b bs ih =>
    rw [wrBytes]
    cases i with
    | zero => rw [rdByte_wrBytes_other _ _ _ _ (by omega)]; simp
    | succ i =>
      have := ih (wrByte m a b) (a + 1) i (by simpa using h)
      rw [show a + (i + 1) = a + 1 + i by omega, this]
      simp

/-- Bytes read back after their write. -/
theorem rdBytes_wrBytes (m : Memory) (a : Nat) (bs : List Byte) : rdBytes (wrBytes m a bs) a bs.length = bs := by
  apply List.ext_getElem
  · simp [rdBytes]
  · intro i h1 h2
    simp only [rdBytes, List.getElem_map, List.getElem_range]
    exact rdByte_wrBytes_in m a i bs h2

end Sys2Proof.Laws
end

