-- ==== Sys2Proof/Laws/LaneWrite.lean ====
section
/-! SUPPORT. Reading registers after a write of some lanes: masks from properties, elements of joined groups, and every
lane of every register after a destination is written. -/

set_option Elab.async false

namespace Sys2Proof.Laws

open Sys2Proof Sys2Proof.Machine

/-! ## Masks -/

theorem testBit_foldr_mask (p : Nat → Bool) (s n i : Nat) :
    ((List.range' s n).foldr (fun l m => (if p l then 1 else 0) + 2 * m) 0).testBit i = (decide (i < n) && p (s + i)) := by
  induction n generalizing s i with
  | zero => simp
  | succ n ih =>
    rw [List.range'_succ, List.foldr_cons]
    cases i with
    | zero =>
      cases h : p s <;> simp [Nat.testBit_zero] <;> omega
    | succ i =>
      have e : ∀ (b x : Nat), b ≤ 1 → (b + 2 * x) / 2 = x := by intro b x hb; omega
      rw [Nat.testBit_succ, e _ _ (by split <;> omega), ih]
      have : s + 1 + i = s + (i + 1) := by omega
      simp [this]

/-- The mask of a property has its lanes. -/
@[simp] theorem inMask_maskOf (p : Nat → Bool) (l : Nat) (hl : l < 32) : inMask (maskOf p) l = p l := by
  unfold inMask maskOf laneList
  rw [BitVec.getLsbD_ofNat, List.range_eq_range', testBit_foldr_mask]
  simp [hl]

/-! ## Maps -/

/-- A key after several are set. -/
theorem look_putAll {α : Type} [DecidableEq α] (m : SMap α) (ks : List Nat) (d : α) (f : Nat → α) (k : Nat) :
    look (putAll m ks d f) k d = if k ∈ ks then f k else look m k d := by
  unfold putAll
  induction ks generalizing m with
  | nil => simp
  | cons j ks ih =>
    rw [List.foldl_cons, ih]
    by_cases h1 : k ∈ ks
    · simp [h1]
    · by_cases h2 : k = j
      · subst h2; simp [h1]
      · simp [h1, h2, look_putD_other m k j d (f j) h2]

/-! ## Elements -/

theorem elem_joinElems (n : Nat) (es : List Nat) (k : Nat) (h : k < es.length) :
    elem n (joinElems n es) k = es[k] % 2 ^ n := by
  induction es generalizing k with
  | nil => simp at h
  | cons e es ih =>
    cases k with
    | zero =>
      simp [elem, joinElems]
    | succ k =>
      have hp : 0 < 2 ^ n := Nat.two_pow_pos n
      have e1 : (e % 2 ^ n + 2 ^ n * joinElems n es) / 2 ^ ((k + 1) * n) = joinElems n es / 2 ^ (k * n) := by
        rw [show (k + 1) * n = n + k * n by rw [Nat.add_mul]; omega, Nat.pow_add, ← Nat.div_div_eq_div_mul,
          Nat.add_mul_div_left _ _ hp, Nat.div_eq_of_lt (Nat.mod_lt _ hp), Nat.zero_add]
      have := ih k (by simpa using h)
      unfold elem at this ⊢
      rw [joinElems, e1, this]
      simp

/-- An element of an element-wise result (R193). -/
theorem elem_mapElems (n count : Nat) (op : ElemOp) (a b d k : Nat) (h : k < count) :
    elem n (mapElems n count op a b d).1 k = (op (elem n a k) (elem n b k) (elem n d k)).1 % 2 ^ n := by
  unfold mapElems
  dsimp only
  rw [elem_joinElems _ _ _ (by simpa using h)]
  simp

theorem elem_mod (n g v k : Nat) (h : k < 64 * g / n) : elem n (v % 2 ^ (64 * g)) k = elem n v k := by
  unfold elem
  have h2 : (k + 1) * n ≤ 64 * g := Nat.le_trans (Nat.mul_le_mul_right n h) (Nat.div_mul_le_self _ _)
  rw [Nat.add_mul, Nat.one_mul] at h2
  apply Nat.eq_of_testBit_eq
  intro i
  simp only [Nat.testBit_mod_two_pow, Nat.testBit_div_two_pow]
  by_cases hi : i < n
  · have : i + k * n < 64 * g := by omega
    simp [hi, this]
  · simp [hi]

/-! ## Lanes of registers -/

theorem laneAt_mergeLanes (m : Mask) (old : Lanes) (f : Nat → Nat) (l : Nat) (hl : l < 32) :
    laneAt (mergeLanes m old f) l = if inMask m l then f l % 2 ^ 64 else laneAt old l := by
  unfold laneAt mergeLanes laneList
  rw [List.getD_eq_getElem?_getD, List.getElem?_map, List.getElem?_range hl]
  simp only [Option.map_some, Option.getD_some]
  split
  · simp
  · rfl

theorem mem_touched (bases : List Nat) (g r l : Nat) (hr : r < 64) (h : touches bases g r l = true) :
    r ∈ touched bases g := by
  unfold touches at h
  simp only [Bool.and_eq_true, decide_eq_true_eq] at h
  unfold touched
  simp only [List.mem_filter, List.mem_range, hr, true_and, List.any_eq_true, Bool.and_eq_true, decide_eq_true_eq]
  have hl : l < bases.length := by
    apply Nat.lt_of_not_le
    intro hc
    rw [List.getD_eq_getElem?_getD, List.getElem?_eq_none hc, Option.getD_none] at h
    omega
  refine ⟨bases[l], List.getElem_mem hl, ?_⟩
  rw [List.getD_eq_getElem?_getD, List.getElem?_eq_getElem hl, Option.getD_some] at h
  exact h

/-- Every lane of every main register after a group is written (R100, R105). -/
theorem vreg_writeRegs (w : Warp) (bases : List Nat) (g : Nat) (m : Mask) (vals : Nat → Nat) (r l : Nat) (hl : l < 32) :
    laneAt ((w.writeRegs bases g m vals).vreg r) l =
      if r < 64 ∧ inMask m l = true ∧ touches bases g r l = true then
        vals l / 2 ^ (64 * (r - bases.getD l 64)) % 2 ^ 64
      else laneAt (w.vreg r) l := by
  unfold Warp.writeRegs Warp.vreg
  dsimp only
  rw [look_putAll]
  by_cases hm : r ∈ touched bases g
  · have hr : r < 64 := by
      unfold touched at hm
      simpa using (List.mem_filter.1 hm).1
    rw [if_pos hm, laneAt_mergeLanes _ _ _ _ hl, inMask_maskOf _ _ hl]
    simp only [Bool.and_eq_true, hr, true_and]
    split
    · simp
    · rfl
  · rw [if_neg hm]
    split
    · rename_i h
      exact absurd (mem_touched bases g r l h.1 h.2.2) hm
    · rfl

/-- A group in a lane is known from its registers in that lane. -/
theorem group_eq (w : Warp) (l v b g : Nat) (h : ∀ i < g, laneAt (w.vreg (b + i)) l = v / 2 ^ (64 * i) % 2 ^ 64) :
    w.group b g l = v % 2 ^ (64 * g) := by
  induction g generalizing b v with
  | zero => simp [Warp.group, Nat.mod_one]
  | succ g ih =>
    have h0 := h 0 (by omega)
    simp only [Nat.mul_zero, Nat.pow_zero, Nat.div_one, Nat.add_zero] at h0
    have hg := ih (v / 2 ^ 64) (b + 1) (by
      intro i hi
      rw [show b + 1 + i = b + (i + 1) by omega, h (i + 1) (by omega), show 64 * (i + 1) = 64 + 64 * i by omega,
        Nat.pow_add, ← Nat.div_div_eq_div_mul])
    rw [Warp.group, h0, hg, show 64 * (g + 1) = 64 + 64 * g by omega, Nat.pow_add, Nat.mod_mul]

theorem group_congr (w w' : Warp) (l b g : Nat) (h : ∀ i < g, laneAt (w'.vreg (b + i)) l = laneAt (w.vreg (b + i)) l) :
    w'.group b g l = w.group b g l := by
  induction g generalizing b with
  | zero => rfl
  | succ g ih =>
    have h0 := h 0 (by omega)
    simp only [Nat.add_zero] at h0
    rw [Warp.group, Warp.group, h0, ih (b + 1) (by
      intro i hi
      rw [show b + 1 + i = b + (i + 1) by omega]
      exact h (i + 1) (by omega))]

/-- A group that an active lane names holds what was written. -/
theorem group_writeRegs_on (w : Warp) (bases : List Nat) (g : Nat) (m : Mask) (vals : Nat → Nat) (l : Nat) (hl : l < 32)
    (hm : inMask m l = true) (hb : bases.getD l 64 + g ≤ 64) :
    (w.writeRegs bases g m vals).group (bases.getD l 64) g l = vals l % 2 ^ (64 * g) := by
  apply group_eq
  intro i hi
  rw [vreg_writeRegs _ _ _ _ _ _ _ hl, if_pos]
  · rw [Nat.add_sub_cancel_left]
  · refine ⟨by omega, hm, ?_⟩
    simp [touches]; omega

/-- A lane that is not active keeps every group. -/
theorem group_writeRegs_off (w : Warp) (bases : List Nat) (g : Nat) (m : Mask) (vals : Nat → Nat) (l b n : Nat)
    (hl : l < 32) (hm : inMask m l = false) : (w.writeRegs bases g m vals).group b n l = w.group b n l := by
  apply group_congr
  intro i _
  rw [vreg_writeRegs _ _ _ _ _ _ _ hl, if_neg]
  simp [hm]

end Sys2Proof.Laws
end

