-- ==== Sys2Proof/Laws/Result.lean ====
section
/-! SUPPORT. Everything that the writing of a fixed-latency result can do to a warp. -/

set_option Elab.async false

namespace Sys2Proof.Laws

open Sys2Proof Sys2Proof.Machine

theorem getD_map_laneList (f : Nat → Nat) (l : Nat) (hl : l < 32) : (laneList.map f).getD l 0 = f l := by
  unfold laneList
  rw [List.getD_eq_getElem?_getD, List.getElem?_map, List.getElem?_range hl]
  simp

theorem getD_map_bases (f : Nat → Nat) (l : Nat) (hl : l < 32) : (laneList.map f).getD l 64 = f l := by
  unfold laneList
  rw [List.getD_eq_getElem?_getD, List.getElem?_map, List.getElem?_range hl]
  simp

theorem getD_idxBases (w : Warp) (k g l : Nat) (hl : l < 32) :
    (w.idxBases k g).getD l 64 = if idxOk w.alloc g (w.xval k l) then idxBase (w.xval k l) else 64 :=
  getD_map_bases _ _ hl

theorem inMask_exec_ne (w : Warp) (l : Nat) (h : inMask w.exec l = true) : w.exec ≠ 0 := by
  intro e; rw [e] at h; simp [inMask] at h

theorem rd_v (w : Warp) (n : Fin 32) (g l : Nat) (t : NumTy) (hl : l < 32) :
    (w.rd (.v n) g t).getD l 0 = w.group n g l := getD_map_laneList _ _ hl

theorem rd_o (w : Warp) (n : Fin 6) (g l : Nat) (t : NumTy) (hl : l < 32) :
    (w.rd (.o n) g t).getD l 0 = laneAt (look w.run.ofile n Lanes.zero) l := getD_map_laneList _ _ hl

theorem rd_x (w : Warp) (k : Fin 4) (g l : Nat) (t : NumTy) (hl : l < 32) :
    (w.rd (.x k) g t).getD l 0 =
      if (w.idxBases k g).getD l 64 < 64 then w.group ((w.idxBases k g).getD l 64) g l else 0 := by
  unfold Warp.rd
  dsimp only
  rw [getD_map_laneList _ _ hl]

theorem group_main (w w' : Warp) (h : w'.main = w.main) (b g l : Nat) : w'.group b g l = w.group b g l :=
  group_congr _ _ _ _ _ fun i _ => by simp [Warp.vreg, h]

theorem destGroup_congr (w w' : Warp) (d : Dst) (g l : Nat) (hl : l < 32) (h1 : w'.main = w.main) (h2 : w'.xr = w.xr)
    (h3 : w'.alloc = w.alloc) (h4 : w'.run.ofile = w.run.ofile) : w'.destGroup d g l = w.destGroup d g l := by
  have hb : ∀ k, w'.idxBases k g = w.idxBases k g := by 
    intro k
    unfold Warp.idxBases Warp.xval
    rw [h2, h3]
  cases d with
  | v n => unfold Warp.destGroup dstOpnd; dsimp only; rw [rd_v _ _ _ _ _ hl, rd_v _ _ _ _ _ hl, group_main w w' h1]
  | o n => unfold Warp.destGroup dstOpnd; dsimp only; rw [rd_o _ _ _ _ _ hl, rd_o _ _ _ _ _ hl, h4]
  | x k => unfold Warp.destGroup dstOpnd; dsimp only; rw [rd_x _ _ _ _ _ hl, rd_x _ _ _ _ _ hl, hb, group_main w w' h1]

/-- What a warp holds in the registers that it writes as a destination. -/
theorem destGroup_wr (w : Warp) (d : Dst) (g : Nat) (vals : Nat → Nat) (h : DestHere w d g) (l : Nat) (hl : l < 32) :
    (w.wr d g vals).destGroup d g l = if inMask w.exec l then vals l % 2 ^ (64 * g) else w.destGroup d g l := by
  unfold Warp.wr
  by_cases he : w.exec = 0
  · rw [if_pos he]
    have hi : inMask w.exec l = false := by rw [he]; simp [inMask]
    simp [hi]
  · rw [if_neg he]
    cases d with
    | o n =>
      unfold Warp.destGroup dstOpnd
      dsimp only
      rw [rd_o _ _ _ _ _ hl, rd_o _ _ _ _ _ hl]
      have hg : g = 1 := h
      subst hg
      show laneAt (look (putD w.run.ofile n.val Lanes.zero _) n.val Lanes.zero) l = _
      rw [look_putD_same, laneAt_mergeLanes _ _ _ _ hl]
    | v n =>
      unfold Warp.destGroup dstOpnd
      dsimp only
      rw [rd_v _ _ _ _ _ hl, rd_v _ _ _ _ _ hl]
      have hb : (w.dstBases (.v n) g).getD l 64 = n.val := by
        unfold Warp.dstBases
        dsimp only
        rw [List.getD_eq_getElem?_getD, List.getElem?_replicate, if_pos hl]
        rfl
      cases hm : inMask w.exec l
      · simp only [Bool.false_eq_true, if_false]
        exact group_writeRegs_off _ _ _ _ _ _ _ _ hl hm
      · simp only [if_true]
        have hh : n.val + g ≤ 64 := h
        have := group_writeRegs_on w (w.dstBases (.v n) g) g w.exec vals l hl hm (by rw [hb]; exact hh)
        rwa [hb] at this
    | x k =>
      unfold Warp.destGroup dstOpnd
      dsimp only
      rw [rd_x _ _ _ _ _ hl, rd_x _ _ _ _ _ hl]
      show (if (w.idxBases k g).getD l 64 < 64 then
        (w.writeRegs (w.idxBases k g) g w.exec vals).group ((w.idxBases k g).getD l 64) g l else 0) = _
      cases hm : inMask w.exec l
      · simp only [Bool.false_eq_true, if_false]
        rw [group_writeRegs_off _ _ _ _ _ _ _ _ hl hm]
      · simp only [if_true]
        obtain ⟨h1, h2⟩ := h l hl hm
        have hb : (w.idxBases k g).getD l 64 = idxBase (w.xval k l) := by rw [getD_idxBases _ _ _ _ hl, if_pos h1]
        by_cases hg : g = 0
        · subst hg
          simp [Warp.group, Nat.mod_one]
        · rw [if_pos (by rw [hb]; omega)]
          exact group_writeRegs_on w (w.idxBases k g) g w.exec vals l hl hm (by rw [hb]; exact h2)

/-- A destination's write leaves every register that it does not name. -/
theorem vreg_wr (w : Warp) (d : Dst) (g : Nat) (vals : Nat → Nat) (r l : Nat) (hl : l < 32)
    (h : inMask w.exec l = false ∨ r ∉ destRegs w d g l) : laneAt ((w.wr d g vals).vreg r) l = laneAt (w.vreg r) l := by
  have key : ∀ bs : List Nat, (touches bs g r l = true → r < 64 → r ∈ destRegs w d g l) →
      laneAt ((w.writeRegs bs g w.exec vals).vreg r) l = laneAt (w.vreg r) l := by
    intro bs hb
    rw [vreg_writeRegs _ _ _ _ _ _ _ hl, if_neg]
    rintro ⟨hr, hm, ht⟩
    rcases h with h | h
    · rw [hm] at h; cases h
    · exact h (hb ht hr)
  unfold Warp.wr
  split
  · rfl
  · cases d with
    | o n => rfl
    | v n =>
      apply key
      intro ht _
      unfold touches Warp.dstBases at ht
      dsimp only at ht
      rw [List.getD_eq_getElem?_getD, List.getElem?_replicate, if_pos hl, Option.getD_some] at ht
      simp only [Bool.and_eq_true, decide_eq_true_eq] at ht
      simp only [destRegs, Use.regsIn, dstOpnd, List.mem_map, List.mem_range]
      exact ⟨r - n.val, by omega, by omega⟩
    | x k =>
      apply key
      intro ht hr
      unfold touches Warp.dstBases at ht
      dsimp only at ht
      rw [getD_idxBases _ _ _ _ hl] at ht
      simp only [Bool.and_eq_true, decide_eq_true_eq] at ht
      by_cases hok : idxOk w.alloc g (w.xval k l) = true
      · rw [if_pos hok] at ht
        simp only [destRegs, Use.regsIn, dstOpnd, hok, if_true, List.mem_map, List.mem_range]
        exact ⟨r - idxBase (w.xval k l), by omega, by omega⟩
      · rw [if_neg hok] at ht
        omega

/-- What a destination's write leaves of the warp. -/
theorem wr_frame (w : Warp) (d : Dst) (g : Nat) (vals : Nat → Nat) :
    w.wr d g vals =
      { w with
        main := (w.wr d g vals).main, ue := (w.wr d g vals).ue
        run := { w.run with
          ofile := (w.wr d g vals).run.ofile, owr := (w.wr d g vals).run.owr, oue := (w.wr d g vals).run.oue } } := by
  unfold Warp.wr
  split
  · rfl
  · cases d <;> rfl

/-- A destination's write leaves every operand-file entry but its own. -/
theorem ofile_wr (w : Warp) (d : Dst) (g : Nat) (vals : Nat → Nat) (n : Fin 6) (h : d ≠ .o n) :
    look (w.wr d g vals).run.ofile n.val Lanes.zero = look w.run.ofile n.val Lanes.zero := by
  unfold Warp.wr
  split
  · rfl
  · cases d with
    | o m =>
      show look (putD w.run.ofile m.val Lanes.zero _) n.val Lanes.zero = _
      rw [look_putD_other]
      intro e
      apply h
      rw [Fin.ext e]
    | v m => rfl
    | x k => rfl

/-- What the writing of a fixed-latency result does (R100, R106). -/
theorem result_resulted (w : Warp) (d : Dst) (g : Nat) (vals : Nat → Nat) (a : BitVec 12) (h : DestHere w d g) :
    Resulted w { w.result d g vals with aflags := a } d g vals := by
  have hf := wr_frame w d g vals
  refine ⟨?_, ?_, ?_, ?_, ?_, ?_⟩
  · intro l hl
    rw [← destGroup_wr w d g vals h l hl]
    exact destGroup_congr _ _ _ _ _ hl rfl rfl rfl rfl
  · intro r l hl hr
    exact vreg_wr w d g vals r l hl hr
  · intro n hn
    exact ofile_wr w d g vals n hn
  · show (w.wr d g vals).run.l0 = w.run.l0
    rw [hf]
  · show some _ = some _
    congr 1
  · unfold Warp.result Warp.setLast
    rw [hf]

end Sys2Proof.Laws
end

