-- ==== Sys2Proof/Laws/Elementwise.lean ====
section
/-! SUPPORT. Everything that an element-wise fixed-latency operation does to its warp. -/

set_option Elab.async false

namespace Sys2Proof.Laws

open Sys2Proof Sys2Proof.Machine

theorem foldl_or_bit (fs : List Flags) (a : Flags) (j : Nat) :
    (fs.foldl (· ||| ·) a).getLsbD j = (a.getLsbD j || fs.any (·.getLsbD j)) := by
  induction fs generalizing a with
  | nil => simp
  | cons f fs ih => rw [List.foldl_cons, ih, BitVec.getLsbD_or, List.any_cons, Bool.or_assoc]

theorem orFlags_bit (fs : List Flags) (j : Nat) : (orFlags fs).getLsbD j = fs.any (·.getLsbD j) := by
  unfold orFlags
  rw [foldl_or_bit]
  simp

theorem addFlags_bit (a : BitVec 12) (f : Flags) (j : Nat) :
    (addFlags a f).getLsbD j = (a.getLsbD j || f.getLsbD j) := by
  unfold addFlags
  rw [BitVec.getLsbD_or, BitVec.getLsbD_setWidth]
  by_cases h : j < 12
  · simp [h]
  · have : f.getLsbD j = false := BitVec.getLsbD_of_ge _ _ (by omega)
    simp [h, this]

/-- The type of a destination read as a source does not matter. -/
theorem rd_dst (w : Warp) (d : Dst) (g : Nat) (t u : NumTy) : w.rd (dstOpnd d) g t = w.rd (dstOpnd d) g u := by
  cases d <;> rfl

/-- What `elemwise` does (R100, R106, R122, R193). -/
theorem elemwise_elementwise (w : Warp) (d : Dst) (g : Nat) (t : NumTy) (op : ElemOp) (as bs : List Nat)
    (h : DestHere w d g) :
    Elementwise w (w.elemwise d g t op as bs) d g (numBits t) fun l k =>
      op (elem (numBits t) (as.getD l 0) k) (elem (numBits t) (bs.getD l 0) k) (elem (numBits t) (w.destGroup d g l) k) := by
  have hd : ∀ l, (w.rd (dstOpnd d) g t).getD l 0 = w.destGroup d g l := by
    intro l; unfold Warp.destGroup; rw [rd_dst w d g t (.int .s64)]
  refine ⟨⟨_, result_resulted w d g _ _ h, ?_⟩, ?_⟩
  · intro l hl hm k hk
    dsimp only
    have e : ∀ f : Nat → Nat × Flags, (laneList.map f).getD l (0, 0) = f l := by
      intro f
      unfold laneList
      rw [List.getD_eq_getElem?_getD, List.getElem?_map, List.getElem?_range hl]
      simp
    rw [e, if_pos hm, elem_mapElems _ _ _ _ _ _ _ hk, hd]
  · intro j
    show (addFlags w.aflags (orFlags _)).getLsbD j = true ↔ _
    rw [addFlags_bit, orFlags_bit, Bool.or_eq_true]
    apply or_congr Iff.rfl
    rw [List.any_eq_true]
    constructor
    · rintro ⟨x, hx, hj⟩
      rw [List.mem_map] at hx
      obtain ⟨y, hy, rfl⟩ := hx
      rw [List.mem_map] at hy
      obtain ⟨l, hl, rfl⟩ := hy
      unfold laneList at hl
      rw [List.mem_range] at hl
      by_cases hm : inMask w.exec l = true
      · refine ⟨l, hl, hm, ?_⟩
        rw [if_pos hm] at hj
        unfold mapElems at hj
        dsimp only at hj
        rw [orFlags_bit, List.any_eq_true] at hj
        obtain ⟨z, hz, hzj⟩ := hj
        rw [List.mem_map] at hz
        obtain ⟨q, hq, rfl⟩ := hz
        rw [List.mem_map] at hq
        obtain ⟨k, hk, rfl⟩ := hq
        rw [List.mem_range] at hk
        rw [hd] at hzj
        exact ⟨k, hk, hzj⟩
      · rw [if_neg hm] at hj
        simp at hj
    · rintro ⟨l, hl, hm, k, hk, hj⟩
      refine ⟨_, List.mem_map.2 ⟨_, List.mem_map.2 ⟨l, by unfold laneList; exact List.mem_range.2 hl, rfl⟩, rfl⟩, ?_⟩
      rw [if_pos hm]
      unfold mapElems
      dsimp only
      rw [orFlags_bit, List.any_eq_true]
      refine ⟨_, List.mem_map.2 ⟨_, List.mem_map.2 ⟨k, List.mem_range.2 hk, rfl⟩, rfl⟩, ?_⟩
      rw [hd]
      exact hj

end Sys2Proof.Laws
end

