-- ==== Sys2Proof/Laws/CrossLane.lean ====
section
/-! SUPPORT. The elements, counted across the lanes, of results that are built lane by lane. -/

set_option Elab.async false

namespace Sys2Proof.Laws

open Sys2Proof Sys2Proof.Machine

theorem numBits_pos (t : NumTy) : 0 < numBits t := by
  cases t with
  | int t => cases t <;> decide
  | flt t => cases t <;> decide

theorem getD_groupsOf (m : Mask) (f : Nat → Nat) (l : Nat) (hl : l < 32) (hm : inMask m l = true) :
    (groupsOf m f).getD l 0 = f l := by
  unfold groupsOf
  rw [getD_map_laneList _ _ hl, if_pos hm]

theorem elem_lt (n x k : Nat) : elem n x k < 2 ^ n := Nat.mod_lt _ (Nat.two_pow_pos n)

theorem elem_laneGroup (t : NumTy) (g : Nat) (f : Nat → Nat) (l k : Nat) (hk : k < perLane t g) :
    elem (numBits t) (laneGroup t g f l) k = f (l * perLane t g + k) % 2 ^ numBits t := by
  unfold laneGroup
  dsimp only
  rw [elem_joinElems _ _ _ (by simpa using hk)]
  simp

/-- The lane and the place of a flat index. -/
theorem flat_split {n e : Nat} (h : e < 32 * n) : e / n < 32 ∧ e % n < n ∧ e / n * n + e % n = e := by
  have hn : 0 < n := by
    apply Nat.pos_of_ne_zero
    intro hz
    subst hz
    simp at h
  exact ⟨(Nat.div_lt_iff_lt_mul hn).2 h, Nat.mod_lt _ hn, by rw [Nat.mul_comm]; exact Nat.div_add_mod e n⟩

/-- Element e of a result built from a function on flat indices. -/
theorem flatElem_groupsOf (t : NumTy) (g : Nat) (m : Mask) (f : Nat → Nat) (e : Nat) (he : e < 32 * perLane t g)
    (hm : inMask m (e / perLane t g) = true) :
    flatElem t g (groupsOf m (laneGroup t g f)) e = f e % 2 ^ numBits t := by
  obtain ⟨h1, h2, h3⟩ := flat_split he
  unfold flatElem
  rw [getD_groupsOf _ _ _ h1 hm, elem_laneGroup _ _ _ _ _ h2, h3]

/-- Element e of a result given as groups of lanes. -/
theorem flatElem_groups (t : NumTy) (g : Nat) (m : Mask) (f : Nat → Nat) (e : Nat) (he : e < 32 * perLane t g)
    (hm : inMask m (e / perLane t g) = true) :
    flatElem t g (groupsOf m f) e = elem (numBits t) (f (e / perLane t g)) (e % perLane t g) := by
  unfold flatElem
  rw [getD_groupsOf _ _ _ (flat_split he).1 hm]

end Sys2Proof.Laws
end

