-- ==== Sys2Proof/Laws/Encoding.lean ====
section
/-! SUPPORT. The field codes read back, the fields of each word format, and what the decoder of each encoding shape
makes of the encoder's word. -/

set_option Elab.async false

namespace Sys2Proof.Laws

open Sys2Proof

/-! ## Codes -/

theorem opnd_code_lt (o : Opnd) : o.code < 64 := by cases o <;> simp [Opnd.code] <;> omega

theorem dst_code_lt (d : Dst) : d.code < 64 := by cases d <;> simp [Dst.code] <;> omega

@[simp] theorem opnd_ofCode (o : Opnd) : Opnd.ofCode o.code = some o := by
  cases o with
  | v n => simp [Opnd.ofCode, Opnd.code, n.isLt]
  | o n => revert n; decide
  | l0 => rfl
  | l1 => rfl
  | x k => revert k; decide
  | c k => revert k; decide

@[simp] theorem dst_ofCode (d : Dst) : Dst.ofCode d.code = some d := by
  cases d with
  | v n => simp [Dst.ofCode, Dst.code, n.isLt]
  | o n => revert n; decide
  | x k => revert k; decide

theorem width_code_lt (x : Width) : x.code < 4 := by cases x <;> decide
theorem intTy_code_lt (x : IntTy) : x.code < 8 := by cases x <;> decide
theorem fltTy_code_lt (x : FltTy) : x.code < 6 := by cases x <;> decide
theorem rmode_code_lt (x : RMode) : x.code < 4 := by cases x <;> decide
theorem order_code_lt (x : Order) : x.code < 4 := by cases x <;> decide
theorem fenceKind_code_lt (x : FenceKind) : x.code < 4 := by cases x <;> decide
theorem scope_code_lt (x : Scope) : x.code < 8 := by cases x <;> decide
theorem eng_code_lt (x : Eng) : x.code < 8 := by cases x <;> decide
theorem redK_code_lt (x : RedK) : x.code < 8 := by cases x <;> decide
theorem atomG_code_lt (x : AtomG) : x.code < 8 := by cases x <;> decide
theorem atomX_code_lt (x : AtomX) : x.code < 8 := by cases x <;> decide
theorem brCond_code_lt (x : BrCond) : x.code < 4 := by cases x <;> decide
theorem mskSel_code_lt (x : MskSel) : x.code < 4 := by cases x <;> decide
theorem seFmt_code_lt (x : SeFmt) : x.code < 3 := by cases x <;> decide
theorem segTy_code_lt (x : SegTy) : x.code < 8 := by cases x <;> decide
theorem numTy_ty_lt (x : NumTy) : x.ty < 8 := by
  cases x with
  | int t => exact intTy_code_lt t
  | flt t => exact Nat.lt_of_lt_of_le (fltTy_code_lt t) (by decide)
theorem numTy_code_lt (x : NumTy) : x.code < 16 := by
  cases x with
  | int t => exact Nat.lt_of_lt_of_le (intTy_code_lt t) (by decide)
  | flt t => have := fltTy_code_lt t; simp only [NumTy.code]; omega
theorem csr_code_lt (x : Csr) : x.code < 2 ^ 14 := by cases x <;> simp [Csr.code] <;> omega
theorem octCode_lt (c : Fin 4) : octCode c < 64 := by revert c; decide
theorem bit_lt (b : Bool) : bit b < 2 := by cases b <;> decide

@[simp] theorem width_ofCode (x : Width) : Width.ofCode x.code = some x := by cases x <;> rfl
@[simp] theorem intTy_ofCode (x : IntTy) : IntTy.ofCode x.code = some x := by cases x <;> rfl
@[simp] theorem fltTy_ofCode (x : FltTy) : FltTy.ofCode x.code = some x := by cases x <;> rfl
@[simp] theorem rmode_ofCode (x : RMode) : RMode.ofCode x.code = some x := by cases x <;> rfl
@[simp] theorem order_ofCode (x : Order) : Order.ofCode x.code = some x := by cases x <;> rfl
@[simp] theorem fenceKind_ofCode (x : FenceKind) : FenceKind.ofCode x.code = some x := by cases x <;> rfl
@[simp] theorem scope_ofCode (x : Scope) : Scope.ofCode x.code = some x := by cases x <;> rfl
@[simp] theorem eng_ofCode (x : Eng) : Eng.ofCode x.code = some x := by cases x <;> rfl
@[simp] theorem redK_ofCode (x : RedK) : RedK.ofCode x.code = some x := by cases x <;> rfl
@[simp] theorem atomG_ofCode (x : AtomG) : AtomG.ofCode x.code = some x := by cases x <;> rfl
@[simp] theorem atomX_ofCode (x : AtomX) : AtomX.ofCode x.code = some x := by cases x <;> rfl
@[simp] theorem brCond_ofCode (x : BrCond) : BrCond.ofCode x.code = some x := by cases x <;> rfl
@[simp] theorem mskSel_ofCode (x : MskSel) : MskSel.ofCode x.code = some x := by cases x <;> rfl
@[simp] theorem seFmt_ofCode (x : SeFmt) : SeFmt.ofCode x.code = some x := by cases x <;> rfl
@[simp] theorem segTy_ofCode (x : SegTy) : SegTy.ofCode x.code = some x := by cases x <;> rfl
@[simp] theorem octet_octCode (c : Fin 4) : octet (octCode c) = some c := by revert c; decide
@[simp] theorem csr_ofCode (x : Csr) : Csr.ofCode x.code = some x := by
  cases x with
  | escr k => revert k; decide
  | _ => rfl
@[simp] theorem atomS_ofCode (x : AtomS) : AtomS.ofCode x.w x.op = some x := by
  cases x with
  | g wide op => cases wide <;> simp [AtomS.w, AtomS.op, AtomS.ofCode, bit]
  | x op => simp [AtomS.w, AtomS.op, AtomS.ofCode]
theorem atomS_w_lt (x : AtomS) : x.w < 4 := by
  cases x with
  | g wide op => cases wide <;> simp [AtomS.w, bit]
  | x op => simp [AtomS.w]
theorem atomS_op_lt (x : AtomS) : x.op < 8 := by
  cases x with
  | g wide op => exact atomG_code_lt op
  | x op => exact atomX_code_lt op
@[simp] theorem numTy_ofCode (x : NumTy) : NumTy.ofCode x.code = some x := by
  cases x with
  | int t => cases t <;> rfl
  | flt t => cases t <;> rfl
@[simp] theorem numTy_read (x : NumTy) : NumTy.read x.isFlt x.ty = some x := by
  cases x with
  | int t => cases t <;> rfl
  | flt t => cases t <;> rfl
@[simp] theorem bit_beq_one (b : Bool) : (bit b == 1) = b := by cases b <;> rfl
@[simp] theorem finOf_val {n : Nat} (k : Fin n) : finOf n k.val = some k := by simp [finOf]
@[simp] theorem need_true {α : Type} (x : Option α) : need true x = x := rfl

/-! ## Fields of the word formats (R138) -/

/-- The fields of a T-format word. -/
theorem fields_T (maj fn t w d a b : Nat) (h1 : maj < 64) (h2 : fn < 4) (h3 : t < 8) (h4 : w < 4) (h5 : d < 64)
    (h6 : a < 64) (h7 : b < 64) :
    wT maj fn t w d a b % 2 = 1 ∧ wT maj fn t w d a b < 2 ^ 32 ∧ fld (wT maj fn t w d a b) 1 6 = maj ∧
      fld (wT maj fn t w d a b) 7 3 = t ∧ fld (wT maj fn t w d a b) 10 2 = fn ∧ fld (wT maj fn t w d a b) 12 2 = w ∧
      fld (wT maj fn t w d a b) 14 6 = d ∧ fld (wT maj fn t w d a b) 20 6 = a ∧ fld (wT maj fn t w d a b) 26 6 = b := by
  unfold wT fld
  omega

/-- The fixed part of a T-format word, in one field (R139). -/
theorem wide_T (maj fn t w d a b : Nat) (h1 : maj < 64) (h2 : fn < 4) (h3 : t < 8) (h4 : w < 4) (h5 : d < 64)
    (h6 : a < 64) :
    fld (wT maj fn t w d a b) 14 18 = (d + 64 * a + 4096 * b) % 2 ^ 18 ∧
      fld (wT maj fn t w d a b) 14 12 = d + 64 * a := by
  unfold wT fld
  omega

/-- The parts of a word's top six bits. -/
theorem top_T (w b : Nat) (h : fld w 26 6 = b) :
    fld w 26 4 = b % 16 ∧ fld w 30 1 = b / 16 % 2 ∧ fld w 31 1 = b / 32 ∧ fld w 26 3 = b % 8 ∧
      fld w 29 1 = b / 8 % 2 ∧ fld w 30 2 = b / 16 := by
  unfold fld at *
  omega

/-- The fields of an I-format word. -/
theorem fields_I (maj t d a imm : Nat) (h1 : maj < 64) (h2 : t < 8) (h3 : d < 64) (h4 : a < 64) (h5 : imm < 1024) :
    wI maj t d a imm % 2 = 1 ∧ wI maj t d a imm < 2 ^ 32 ∧ fld (wI maj t d a imm) 1 6 = maj ∧
      fld (wI maj t d a imm) 7 3 = t ∧ fld (wI maj t d a imm) 10 6 = d ∧ fld (wI maj t d a imm) 16 6 = a ∧
      fld (wI maj t d a imm) 22 10 = imm := by
  unfold wI fld
  omega

/-- The fields of a B-format word. -/
theorem fields_B (maj off : Nat) (h1 : maj < 64) (h2 : off < 2 ^ 22) :
    wB maj off % 2 = 1 ∧ wB maj off < 2 ^ 32 ∧ fld (wB maj off) 1 6 = maj ∧ fld (wB maj off) 7 3 = 0 ∧
      fld (wB maj off) 10 22 = off := by
  unfold wB fld
  omega

/-- The fields of a C-format word. -/
theorem fields_C (maj cond a off : Nat) (h1 : maj < 64) (h2 : cond < 8) (h3 : a < 64) (h4 : off < 2 ^ 16) :
    wC maj cond a off % 2 = 1 ∧ wC maj cond a off < 2 ^ 32 ∧ fld (wC maj cond a off) 1 6 = maj ∧
      fld (wC maj cond a off) 7 3 = cond ∧ fld (wC maj cond a off) 10 6 = a ∧ fld (wC maj cond a off) 16 16 = off := by
  unfold wC fld
  omega

/-- The fields of an M-format word. -/
theorem fields_M (maj t ord w d a sc imm : Nat) (h1 : maj < 64) (h2 : t < 8) (h3 : ord < 4) (h4 : w < 4) (h5 : d < 64)
    (h6 : a < 64) (h7 : sc < 8) (h8 : imm < 8) :
    wM maj t ord w d a sc imm % 2 = 1 ∧ wM maj t ord w d a sc imm < 2 ^ 32 ∧ fld (wM maj t ord w d a sc imm) 1 6 = maj ∧
      fld (wM maj t ord w d a sc imm) 7 3 = t ∧ fld (wM maj t ord w d a sc imm) 10 2 = ord ∧
      fld (wM maj t ord w d a sc imm) 12 2 = w ∧ fld (wM maj t ord w d a sc imm) 14 6 = d ∧
      fld (wM maj t ord w d a sc imm) 20 6 = a ∧ fld (wM maj t ord w d a sc imm) 26 3 = sc ∧
      fld (wM maj t ord w d a sc imm) 29 3 = imm ∧ fld (wM maj t ord w d a sc imm) 12 14 = w + 4 * d + 256 * a := by
  unfold wM fld
  omega

/-- The fields of an E-format word. -/
theorem fields_E (maj fn eng c c2 sc fl : Nat) (h1 : maj < 64) (h2 : fn < 4) (h3 : eng < 8) (h4 : c < 64) (h5 : c2 < 64)
    (h6 : sc < 8) (h7 : fl < 32) :
    wE maj fn eng c c2 sc fl % 2 = 1 ∧ wE maj fn eng c c2 sc fl < 2 ^ 32 ∧ fld (wE maj fn eng c c2 sc fl) 1 6 = maj ∧
      fld (wE maj fn eng c c2 sc fl) 7 3 = eng ∧ fld (wE maj fn eng c c2 sc fl) 10 2 = fn ∧
      fld (wE maj fn eng c c2 sc fl) 12 6 = c ∧ fld (wE maj fn eng c c2 sc fl) 18 6 = c2 ∧
      fld (wE maj fn eng c c2 sc fl) 24 3 = sc ∧ fld (wE maj fn eng c c2 sc fl) 27 5 = fl := by
  unfold wE fld
  omega

/-- The flag bits and the joint fields of an E-format word. -/
theorem flags_E (maj fn eng c c2 sc fl : Nat) (h1 : maj < 64) (h2 : fn < 4) (h3 : eng < 8) (h4 : c < 64) (h5 : c2 < 64)
    (h6 : sc < 8) (h7 : fl < 32) :
    fld (wE maj fn eng c c2 sc fl) 27 1 = fl % 2 ∧ fld (wE maj fn eng c c2 sc fl) 28 1 = fl / 2 % 2 ∧
      fld (wE maj fn eng c c2 sc fl) 29 1 = fl / 4 % 2 ∧ fld (wE maj fn eng c c2 sc fl) 30 1 = fl / 8 % 2 ∧
      fld (wE maj fn eng c c2 sc fl) 31 1 = fl / 16 ∧ fld (wE maj fn eng c c2 sc fl) 27 2 = fl % 4 ∧
      fld (wE maj fn eng c c2 sc fl) 30 2 = fl / 8 ∧ fld (wE maj fn eng c c2 sc fl) 29 3 = fl / 4 ∧
      fld (wE maj fn eng c c2 sc fl) 24 5 = sc + 8 * (fl % 4) ∧ fld (wE maj fn eng c c2 sc fl) 24 8 = sc + 8 * fl ∧
      fld (wE maj fn eng c c2 sc fl) 18 14 = c2 + 64 * sc + 512 * fl ∧
      fld (wE maj fn eng c c2 sc fl) 18 11 = c2 + 64 * sc + 512 * (fl % 4) := by
  unfold wE fld
  omega

/-- The fields of an S-format word. -/
theorem fields_S (maj sel d sub : Nat) (h1 : maj < 64) (h2 : sel < 32) (h3 : d < 64) (h4 : sub < 2 ^ 14) :
    wS maj sel d sub % 2 = 1 ∧ wS maj sel d sub < 2 ^ 32 ∧ fld (wS maj sel d sub) 1 6 = maj ∧
      fld (wS maj sel d sub) 7 5 = sel ∧ fld (wS maj sel d sub) 12 6 = d ∧ fld (wS maj sel d sub) 18 14 = sub := by
  unfold wS fld
  omega

/-- The fields of a K-format word. -/
theorem fields_K (maj imm : Nat) (h1 : maj < 64) (h2 : imm < 2 ^ 25) :
    wK maj imm % 2 = 1 ∧ wK maj imm < 2 ^ 32 ∧ fld (wK maj imm) 1 6 = maj ∧ fld (wK maj imm) 7 25 = imm := by
  unfold wK fld
  omega

/-- The fields of a trailer. -/
theorem fields_trl (m s y : Nat) (h1 : m < 64) (h2 : s < 2) (h3 : y < 2) :
    wTrl m s y % 2 = 1 ∧ wTrl m s y < 2 ^ 32 ∧ fld (wTrl m s y) 1 6 = 0x3F ∧ fld (wTrl m s y) 7 6 = m ∧
      fld (wTrl m s y) 13 1 = s ∧ fld (wTrl m s y) 14 1 = y ∧ fld (wTrl m s y) 15 17 = 0 := by
  unfold wTrl fld
  omega

/-- The fields of a 16-bit form. -/
theorem fields_H (op d s t : Nat) (h1 : op < 16) (h2 : d < 32) (h3 : s < 32) (h4 : t < 2) :
    wH op d s t % 2 = 0 ∧ wH op d s t < 2 ^ 16 ∧ fld (wH op d s t) 1 4 = op ∧ fld (wH op d s t) 5 5 = d ∧
      fld (wH op d s t) 10 5 = s ∧ fld (wH op d s t) 15 1 = t := by
  unfold wH fld
  omega

/-! ## Fields of the encoder's words, by shape -/

theorem fields_AluOp (maj fn : Nat) (h1 : maj < 64) (h2 : fn < 4) (f : AluOp) :
    f.enc maj fn % 2 = 1 ∧ f.enc maj fn < 2 ^ 32 ∧ fld (f.enc maj fn) 1 6 = maj ∧ fld (f.enc maj fn) 7 3 = f.t.code ∧
      fld (f.enc maj fn) 10 2 = fn ∧ fld (f.enc maj fn) 12 2 = f.w.code ∧ fld (f.enc maj fn) 14 6 = f.d.code ∧
      fld (f.enc maj fn) 20 6 = f.a.code ∧ fld (f.enc maj fn) 26 6 = f.b.code :=
  fields_T maj fn _ _ _ _ _ h1 h2 (intTy_code_lt _) (width_code_lt _) (dst_code_lt _) (opnd_code_lt _) (opnd_code_lt _)

theorem fields_AluUn (maj fn : Nat) (h1 : maj < 64) (h2 : fn < 4) (f : AluUn) :
    f.enc maj fn % 2 = 1 ∧ f.enc maj fn < 2 ^ 32 ∧ fld (f.enc maj fn) 1 6 = maj ∧ fld (f.enc maj fn) 7 3 = f.t.code ∧
      fld (f.enc maj fn) 10 2 = fn ∧ fld (f.enc maj fn) 12 2 = f.w.code ∧ fld (f.enc maj fn) 14 6 = f.d.code ∧
      fld (f.enc maj fn) 20 6 = f.a.code ∧ fld (f.enc maj fn) 26 6 = 0 :=
  fields_T maj fn _ _ _ _ _ h1 h2 (intTy_code_lt _) (width_code_lt _) (dst_code_lt _) (opnd_code_lt _) (by decide)

theorem fields_FltOp (maj fn : Nat) (h1 : maj < 64) (h2 : fn < 4) (f : FltOp) :
    f.enc maj fn % 2 = 1 ∧ f.enc maj fn < 2 ^ 32 ∧ fld (f.enc maj fn) 1 6 = maj ∧ fld (f.enc maj fn) 7 3 = f.t.code ∧
      fld (f.enc maj fn) 10 2 = fn ∧ fld (f.enc maj fn) 12 2 = f.w.code ∧ fld (f.enc maj fn) 14 6 = f.d.code ∧
      fld (f.enc maj fn) 20 6 = f.a.code ∧ fld (f.enc maj fn) 26 6 = f.b.code :=
  fields_T maj fn _ _ _ _ _ h1 h2 (Nat.lt_of_lt_of_le (fltTy_code_lt _) (by decide)) (width_code_lt _) (dst_code_lt _)
    (opnd_code_lt _) (opnd_code_lt _)

theorem fields_FltUn (maj fn : Nat) (h1 : maj < 64) (h2 : fn < 4) (f : FltUn) :
    f.enc maj fn % 2 = 1 ∧ f.enc maj fn < 2 ^ 32 ∧ fld (f.enc maj fn) 1 6 = maj ∧ fld (f.enc maj fn) 7 3 = f.t.code ∧
      fld (f.enc maj fn) 10 2 = fn ∧ fld (f.enc maj fn) 12 2 = f.w.code ∧ fld (f.enc maj fn) 14 6 = f.d.code ∧
      fld (f.enc maj fn) 20 6 = f.a.code ∧ fld (f.enc maj fn) 26 6 = 0 :=
  fields_T maj fn _ _ _ _ _ h1 h2 (Nat.lt_of_lt_of_le (fltTy_code_lt _) (by decide)) (width_code_lt _) (dst_code_lt _)
    (opnd_code_lt _) (by decide)

theorem fields_ShImm (fn : Nat) (h2 : fn < 4) (f : ShImm) :
    f.enc fn % 2 = 1 ∧ f.enc fn < 2 ^ 32 ∧ fld (f.enc fn) 1 6 = 0x0A ∧ fld (f.enc fn) 7 3 = f.t.code ∧
      fld (f.enc fn) 10 2 = fn ∧ fld (f.enc fn) 12 2 = f.w.code ∧ fld (f.enc fn) 14 6 = f.d.code ∧
      fld (f.enc fn) 20 6 = f.a.code ∧ fld (f.enc fn) 26 6 = f.imm.toNat :=
  fields_T _ fn _ _ _ _ _ (by decide) h2 (intTy_code_lt _) (width_code_lt _) (dst_code_lt _) (opnd_code_lt _)
    (BitVec.isLt _)

theorem fields_AluImm (maj : Nat) (h1 : maj < 64) (f : AluImm) :
    f.enc maj % 2 = 1 ∧ f.enc maj < 2 ^ 32 ∧ fld (f.enc maj) 1 6 = maj ∧ fld (f.enc maj) 7 3 = f.t.code ∧
      fld (f.enc maj) 10 6 = f.d.code ∧ fld (f.enc maj) 16 6 = f.a.code ∧ fld (f.enc maj) 22 10 = f.imm.toNat :=
  fields_I maj _ _ _ _ h1 (intTy_code_lt _) (dst_code_lt _) (opnd_code_lt _) (BitVec.isLt _)

theorem fields_LoadOp (maj : Nat) (h1 : maj < 64) (f : LoadOp) :
    f.enc maj % 2 = 1 ∧ f.enc maj < 2 ^ 32 ∧ fld (f.enc maj) 1 6 = maj ∧ fld (f.enc maj) 7 3 = f.t.code ∧
      fld (f.enc maj) 10 2 = f.ord.code ∧ fld (f.enc maj) 12 2 = f.w.code ∧ fld (f.enc maj) 14 6 = f.d.code ∧
      fld (f.enc maj) 20 6 = f.a.code ∧ fld (f.enc maj) 26 3 = f.scope.code ∧ fld (f.enc maj) 29 3 = f.imm.val ∧
      fld (f.enc maj) 12 14 = f.w.code + 4 * f.d.code + 256 * f.a.code :=
  fields_M maj _ _ _ _ _ _ _ h1 (intTy_code_lt _) (order_code_lt _) (width_code_lt _) (dst_code_lt _) (opnd_code_lt _)
    (scope_code_lt _) (by omega)

theorem fields_StoreOp (maj : Nat) (h1 : maj < 64) (f : StoreOp) :
    f.enc maj % 2 = 1 ∧ f.enc maj < 2 ^ 32 ∧ fld (f.enc maj) 1 6 = maj ∧ fld (f.enc maj) 7 3 = f.t.code ∧
      fld (f.enc maj) 10 2 = f.ord.code ∧ fld (f.enc maj) 12 2 = f.w.code ∧ fld (f.enc maj) 14 6 = f.d.code ∧
      fld (f.enc maj) 20 6 = f.a.code ∧ fld (f.enc maj) 26 3 = f.scope.code ∧ fld (f.enc maj) 29 3 = f.imm.val ∧
      fld (f.enc maj) 12 14 = f.w.code + 4 * f.d.code + 256 * f.a.code :=
  fields_M maj _ _ _ _ _ _ _ h1 (intTy_code_lt _) (order_code_lt _) (width_code_lt _) (opnd_code_lt _) (opnd_code_lt _)
    (scope_code_lt _) (by omega)

/-! ## Streams of halfwords -/

/-- A 32-bit word at the head of a stream. -/
theorem decode_wide (w : Nat) (rest : List (BitVec 16)) (h : w % 2 = 1) (hw : w < 2 ^ 32) :
    decode (wordHalves w ++ rest) = (checked (decode32 w)).map (·, rest) := by
  have e : (BitVec.ofNat 16 w).toNat + 2 ^ 16 * (BitVec.ofNat 16 (w / 2 ^ 16)).toNat = w := by
    simp only [BitVec.toNat_ofNat]; omega
  have o : (BitVec.ofNat 16 w).toNat % 2 = 1 := by simp only [BitVec.toNat_ofNat]; omega
  simp only [wordHalves, h, if_pos, List.cons_append, List.nil_append, decode, o, e]

/-- A halfword at the head of a stream. -/
theorem decode_short (w : Nat) (rest : List (BitVec 16)) (h : w % 2 = 0) (hw : w < 2 ^ 16) :
    decode (wordHalves w ++ rest) = (checked (decode16 w)).map (·, rest) := by
  have e : (BitVec.ofNat 16 w).toNat = w := by simp only [BitVec.toNat_ofNat]; omega
  have o : ¬ w % 2 = 1 := by omega
  simp only [wordHalves, o, if_neg, not_false_eq_true, List.cons_append, List.nil_append, decode, e]

/-- What the checks let through. -/
theorem checked_some (i : Instr) (h : i.wf = true) : checked (some i) = some i := by simp [checked, h]

/-- A 32-bit instruction reads back when its word decodes to it. -/
theorem read_back_wide {w : Nat} {i : Instr} (ho : w % 2 = 1) (hb : w < 2 ^ 32) (hd : decode32 w = some i)
    (hw : i.wf = true) (rest : List (BitVec 16)) : decode (wordHalves w ++ rest) = some (i, rest) := by
  rw [decode_wide w rest ho hb, hd, checked_some i hw]; rfl

/-- A 16-bit instruction reads back when its halfword decodes to it. -/
theorem read_back_short {w : Nat} {i : Instr} (ho : w % 2 = 0) (hb : w < 2 ^ 16) (hd : decode16 w = some i)
    (hw : i.wf = true) (rest : List (BitVec 16)) : decode (wordHalves w ++ rest) = some (i, rest) := by
  rw [decode_short w rest ho hb, hd, checked_some i hw]; rfl

end Sys2Proof.Laws
end

