-- ==== Sys2Proof/Laws/PerInstr.lean ====
section
/-! SUPPORT. The statement made per instruction: decoding the encoder's word of a well-formed instruction gives that
instruction back, with every operand, and leaves the rest of the stream. An event has no word, so its statement holds
for want of a well-formed term. -/

set_option Elab.async false

namespace Sys2Proof.Laws

open Sys2Proof

/-- Decoding the word of a well-formed instruction, at the head of any stream, gives the instruction and the rest. -/
def Encoding.Statement (i : Instr) : Prop :=
  i.wf = true → ∀ rest : List (BitVec 16), decode (wordHalves (encode i) ++ rest) = some (i, rest)

theorem Encoding.iadd (f : AluOp) : Encoding.Statement (.iadd f) := fun h rest => by
  have F := fields_AluOp 0x01 0 (by decide) (by decide) f
  exact read_back_wide F.1 F.2.1 (by simp [decode32, decLane, decAlu, F]) h rest

theorem Encoding.isub (f : AluOp) : Encoding.Statement (.isub f) := fun h rest => by
  have F := fields_AluOp 0x01 1 (by decide) (by decide) f
  exact read_back_wide F.1 F.2.1 (by simp [decode32, decLane, decAlu, F]) h rest

theorem Encoding.iadds (f : AluOp) : Encoding.Statement (.iadds f) := fun h rest => by
  have F := fields_AluOp 0x01 2 (by decide) (by decide) f
  exact read_back_wide F.1 F.2.1 (by simp [decode32, decLane, decAlu, F]) h rest

theorem Encoding.isubs (f : AluOp) : Encoding.Statement (.isubs f) := fun h rest => by
  have F := fields_AluOp 0x01 3 (by decide) (by decide) f
  exact read_back_wide F.1 F.2.1 (by simp [decode32, decLane, decAlu, F]) h rest

theorem Encoding.iaddi (f : AluImm) : Encoding.Statement (.iaddi f) := fun h rest => by
  have F := fields_AluImm 0x02 (by decide) f
  exact read_back_wide F.1 F.2.1 (by simp [decode32, decLane, decImm, F]) h rest

theorem Encoding.imul (f : AluOp) : Encoding.Statement (.imul f) := fun h rest => by
  have F := fields_AluOp 0x03 0 (by decide) (by decide) f
  exact read_back_wide F.1 F.2.1 (by simp [decode32, decLane, decAlu, F]) h rest

theorem Encoding.imulh (f : AluOp) : Encoding.Statement (.imulh f) := fun h rest => by
  have F := fields_AluOp 0x03 1 (by decide) (by decide) f
  exact read_back_wide F.1 F.2.1 (by simp [decode32, decLane, decAlu, F]) h rest

theorem Encoding.imad (f : AluOp) : Encoding.Statement (.imad f) := fun h rest => by
  have F := fields_AluOp 0x03 2 (by decide) (by decide) f
  exact read_back_wide F.1 F.2.1 (by simp [decode32, decLane, decAlu, F]) h rest

theorem Encoding.imin (f : AluOp) : Encoding.Statement (.imin f) := fun h rest => by
  have F := fields_AluOp 0x04 0 (by decide) (by decide) f
  exact read_back_wide F.1 F.2.1 (by simp [decode32, decLane, decAlu, F]) h rest

theorem Encoding.imax (f : AluOp) : Encoding.Statement (.imax f) := fun h rest => by
  have F := fields_AluOp 0x04 1 (by decide) (by decide) f
  exact read_back_wide F.1 F.2.1 (by simp [decode32, decLane, decAlu, F]) h rest

theorem Encoding.iabs (f : AluUn) : Encoding.Statement (.iabs f) := fun h rest => by
  have F := fields_AluUn 0x04 2 (by decide) (by decide) f
  exact read_back_wide F.1 F.2.1 (by simp [decode32, decLane, decAluUn, F]) h rest

theorem Encoding.ineg (f : AluUn) : Encoding.Statement (.ineg f) := fun h rest => by
  have F := fields_AluUn 0x04 3 (by decide) (by decide) f
  exact read_back_wide F.1 F.2.1 (by simp [decode32, decLane, decAluUn, F]) h rest

theorem Encoding.and (f : AluOp) : Encoding.Statement (.and f) := fun h rest => by
  have F := fields_AluOp 0x05 0 (by decide) (by decide) f
  exact read_back_wide F.1 F.2.1 (by simp [decode32, decLane, decAlu, F]) h rest

theorem Encoding.or (f : AluOp) : Encoding.Statement (.or f) := fun h rest => by
  have F := fields_AluOp 0x05 1 (by decide) (by decide) f
  exact read_back_wide F.1 F.2.1 (by simp [decode32, decLane, decAlu, F]) h rest

theorem Encoding.xor (f : AluOp) : Encoding.Statement (.xor f) := fun h rest => by
  have F := fields_AluOp 0x05 2 (by decide) (by decide) f
  exact read_back_wide F.1 F.2.1 (by simp [decode32, decLane, decAlu, F]) h rest

theorem Encoding.andn (f : AluOp) : Encoding.Statement (.andn f) := fun h rest => by
  have F := fields_AluOp 0x05 3 (by decide) (by decide) f
  exact read_back_wide F.1 F.2.1 (by simp [decode32, decLane, decAlu, F]) h rest

theorem Encoding.andi (f : AluImm) : Encoding.Statement (.andi f) := fun h rest => by
  have F := fields_AluImm 0x06 (by decide) f
  exact read_back_wide F.1 F.2.1 (by simp [decode32, decLane, decImm, F]) h rest

theorem Encoding.ori (f : AluImm) : Encoding.Statement (.ori f) := fun h rest => by
  have F := fields_AluImm 0x07 (by decide) f
  exact read_back_wide F.1 F.2.1 (by simp [decode32, decLane, decImm, F]) h rest

theorem Encoding.xori (f : AluImm) : Encoding.Statement (.xori f) := fun h rest => by
  have F := fields_AluImm 0x08 (by decide) f
  exact read_back_wide F.1 F.2.1 (by simp [decode32, decLane, decImm, F]) h rest

theorem Encoding.shl (f : AluOp) : Encoding.Statement (.shl f) := fun h rest => by
  have F := fields_AluOp 0x09 0 (by decide) (by decide) f
  exact read_back_wide F.1 F.2.1 (by simp [decode32, decLane, decAlu, F]) h rest

theorem Encoding.shr (f : AluOp) : Encoding.Statement (.shr f) := fun h rest => by
  have F := fields_AluOp 0x09 1 (by decide) (by decide) f
  exact read_back_wide F.1 F.2.1 (by simp [decode32, decLane, decAlu, F]) h rest

theorem Encoding.sra (f : AluOp) : Encoding.Statement (.sra f) := fun h rest => by
  have F := fields_AluOp 0x09 2 (by decide) (by decide) f
  exact read_back_wide F.1 F.2.1 (by simp [decode32, decLane, decAlu, F]) h rest

theorem Encoding.rot (f : AluOp) : Encoding.Statement (.rot f) := fun h rest => by
  have F := fields_AluOp 0x09 3 (by decide) (by decide) f
  exact read_back_wide F.1 F.2.1 (by simp [decode32, decLane, decAlu, F]) h rest

theorem Encoding.shli (f : ShImm) : Encoding.Statement (.shli f) := fun h rest => by
  have F := fields_ShImm 0 (by decide) f
  exact read_back_wide F.1 F.2.1 (by simp [decode32, decLane, decSh, F]) h rest

theorem Encoding.shri (f : ShImm) : Encoding.Statement (.shri f) := fun h rest => by
  have F := fields_ShImm 1 (by decide) f
  exact read_back_wide F.1 F.2.1 (by simp [decode32, decLane, decSh, F]) h rest

theorem Encoding.srai (f : ShImm) : Encoding.Statement (.srai f) := fun h rest => by
  have F := fields_ShImm 2 (by decide) f
  exact read_back_wide F.1 F.2.1 (by simp [decode32, decLane, decSh, F]) h rest

theorem Encoding.roti (f : ShImm) : Encoding.Statement (.roti f) := fun h rest => by
  have F := fields_ShImm 3 (by decide) f
  exact read_back_wide F.1 F.2.1 (by simp [decode32, decLane, decSh, F]) h rest

theorem Encoding.popc (f : AluUn) : Encoding.Statement (.popc f) := fun h rest => by
  have F := fields_AluUn 0x0B 0 (by decide) (by decide) f
  exact read_back_wide F.1 F.2.1 (by simp [decode32, decLane, decAluUn, F]) h rest

theorem Encoding.clz (f : AluUn) : Encoding.Statement (.clz f) := fun h rest => by
  have F := fields_AluUn 0x0B 1 (by decide) (by decide) f
  exact read_back_wide F.1 F.2.1 (by simp [decode32, decLane, decAluUn, F]) h rest

theorem Encoding.ctz (f : AluUn) : Encoding.Statement (.ctz f) := fun h rest => by
  have F := fields_AluUn 0x0B 2 (by decide) (by decide) f
  exact read_back_wide F.1 F.2.1 (by simp [decode32, decLane, decAluUn, F]) h rest

theorem Encoding.brev (f : AluUn) : Encoding.Statement (.brev f) := fun h rest => by
  have F := fields_AluUn 0x0B 3 (by decide) (by decide) f
  exact read_back_wide F.1 F.2.1 (by simp [decode32, decLane, decAluUn, F]) h rest

theorem Encoding.bfx (f : AluOp) : Encoding.Statement (.bfx f) := fun h rest => by
  have F := fields_AluOp 0x0C 0 (by decide) (by decide) f
  exact read_back_wide F.1 F.2.1 (by simp [decode32, decLane, decAlu, F]) h rest

theorem Encoding.bfxs (f : AluOp) : Encoding.Statement (.bfxs f) := fun h rest => by
  have F := fields_AluOp 0x0C 1 (by decide) (by decide) f
  exact read_back_wide F.1 F.2.1 (by simp [decode32, decLane, decAlu, F]) h rest

theorem Encoding.bfi (f : AluOp) : Encoding.Statement (.bfi f) := fun h rest => by
  have F := fields_AluOp 0x0C 2 (by decide) (by decide) f
  exact read_back_wide F.1 F.2.1 (by simp [decode32, decLane, decAlu, F]) h rest

theorem Encoding.lea (f : AluOp) : Encoding.Statement (.lea f) := fun h rest => by
  have F := fields_AluOp 0x0C 3 (by decide) (by decide) f
  exact read_back_wide F.1 F.2.1 (by simp [decode32, decLane, decAlu, F]) h rest

theorem Encoding.iseteq (f : AluOp) : Encoding.Statement (.iseteq f) := fun h rest => by
  have F := fields_AluOp 0x0D 0 (by decide) (by decide) f
  exact read_back_wide F.1 F.2.1 (by simp [decode32, decLane, decAlu, F]) h rest

theorem Encoding.isetne (f : AluOp) : Encoding.Statement (.isetne f) := fun h rest => by
  have F := fields_AluOp 0x0D 1 (by decide) (by decide) f
  exact read_back_wide F.1 F.2.1 (by simp [decode32, decLane, decAlu, F]) h rest

theorem Encoding.isetlt (f : AluOp) : Encoding.Statement (.isetlt f) := fun h rest => by
  have F := fields_AluOp 0x0D 2 (by decide) (by decide) f
  exact read_back_wide F.1 F.2.1 (by simp [decode32, decLane, decAlu, F]) h rest

theorem Encoding.isetle (f : AluOp) : Encoding.Statement (.isetle f) := fun h rest => by
  have F := fields_AluOp 0x0D 3 (by decide) (by decide) f
  exact read_back_wide F.1 F.2.1 (by simp [decode32, decLane, decAlu, F]) h rest

theorem Encoding.isetgt (f : AluOp) : Encoding.Statement (.isetgt f) := fun h rest => by
  have F := fields_AluOp 0x0E 0 (by decide) (by decide) f
  exact read_back_wide F.1 F.2.1 (by simp [decode32, decLane, decAlu, F]) h rest

theorem Encoding.isetge (f : AluOp) : Encoding.Statement (.isetge f) := fun h rest => by
  have F := fields_AluOp 0x0E 1 (by decide) (by decide) f
  exact read_back_wide F.1 F.2.1 (by simp [decode32, decLane, decAlu, F]) h rest

theorem Encoding.itest (f : AluOp) : Encoding.Statement (.itest f) := fun h rest => by
  have F := fields_AluOp 0x0E 2 (by decide) (by decide) f
  exact read_back_wide F.1 F.2.1 (by simp [decode32, decLane, decAlu, F]) h rest

theorem Encoding.sel (f : AluOp) : Encoding.Statement (.sel f) := fun h rest => by
  have F := fields_AluOp 0x0F 0 (by decide) (by decide) f
  exact read_back_wide F.1 F.2.1 (by simp [decode32, decLane, decAlu, F]) h rest

theorem Encoding.mov (f : AluUn) : Encoding.Statement (.mov f) := fun h rest => by
  have F := fields_AluUn 0x0F 1 (by decide) (by decide) f
  exact read_back_wide F.1 F.2.1 (by simp [decode32, decLane, decAluUn, F]) h rest

theorem Encoding.movi (f : MovImm) : Encoding.Statement (.movi f) := fun h rest => by
  have F := fields_I 0x10 f.t.code f.d.code 0 f.imm.toNat (by decide) (intTy_code_lt _) (dst_code_lt _) (by decide) (BitVec.isLt _)
  refine read_back_wide (w := wI 0x10 f.t.code f.d.code 0 f.imm.toNat) F.1 F.2.1 ?_ h rest
  simp [decode32, decLane, decMovi, F]

theorem Encoding.rds (d : Dst) (sp : Fin 32) : Encoding.Statement (.rds d sp) := fun h rest => by
  have F := fields_S 0x11 sp.val d.code 0 (by decide) (by omega) (dst_code_lt _) (by decide)
  refine read_back_wide (w := wS 0x11 sp.val d.code 0) F.1 F.2.1 ?_ h rest
  simp [decode32, decLane, F]

theorem Encoding.wrs (a : Opnd) (sp : Fin 32) : Encoding.Statement (.wrs a sp) := fun h rest => by
  have F := fields_S 0x11 sp.val a.code 1 (by decide) (by omega) (opnd_code_lt _) (by decide)
  refine read_back_wide (w := wS 0x11 sp.val a.code 1) F.1 F.2.1 ?_ h rest
  simp [decode32, decLane, F]

theorem Encoding.mov16 (f : Short) : Encoding.Statement (.mov16 f) := fun h rest => by
  have F := fields_H 0 f.d.val f.s.val (bit f.t) (by decide) (by omega) (by omega) (Nat.lt_of_lt_of_le (bit_lt _) (by decide))
  refine read_back_short (w := wH 0 f.d.val f.s.val (bit f.t)) F.1 F.2.1 ?_ h rest
  have N : wH 0 f.d.val f.s.val (bit f.t) ≠ 0 := by
    have k : f.t = false → ¬ (f.s = 0 ∧ f.d = 0) := by
      intro e ⟨a, b⟩; simp [Instr.wf, e, a, b] at h
    unfold wH
    cases e : f.t
    · intro z; exact k e ⟨Fin.ext (by simp; omega), Fin.ext (by simp; omega)⟩
    · simp [bit]
  simp [decode16, decShort, F, N]

theorem Encoding.zeroHalfword : Encoding.Statement .zeroHalfword := fun h rest =>
  read_back_short (w := 0) rfl (by decide) rfl h rest

theorem Encoding.iadd16 (f : Short) : Encoding.Statement (.iadd16 f) := fun h rest => by
  have F := fields_H 1 f.d.val f.s.val (bit f.t) (by decide) (by omega) (by omega) (Nat.lt_of_lt_of_le (bit_lt _) (by decide))
  refine read_back_short (w := wH 1 f.d.val f.s.val (bit f.t)) F.1 F.2.1 ?_ h rest
  have N : wH 1 f.d.val f.s.val (bit f.t) ≠ 0 := by unfold wH; omega
  simp [decode16, decShort, F, N]

theorem Encoding.isub16 (f : Short) : Encoding.Statement (.isub16 f) := fun h rest => by
  have F := fields_H 2 f.d.val f.s.val (bit f.t) (by decide) (by omega) (by omega) (Nat.lt_of_lt_of_le (bit_lt _) (by decide))
  refine read_back_short (w := wH 2 f.d.val f.s.val (bit f.t)) F.1 F.2.1 ?_ h rest
  have N : wH 2 f.d.val f.s.val (bit f.t) ≠ 0 := by unfold wH; omega
  simp [decode16, decShort, F, N]

theorem Encoding.and16 (f : Short) : Encoding.Statement (.and16 f) := fun h rest => by
  have F := fields_H 3 f.d.val f.s.val (bit f.t) (by decide) (by omega) (by omega) (Nat.lt_of_lt_of_le (bit_lt _) (by decide))
  refine read_back_short (w := wH 3 f.d.val f.s.val (bit f.t)) F.1 F.2.1 ?_ h rest
  have N : wH 3 f.d.val f.s.val (bit f.t) ≠ 0 := by unfold wH; omega
  simp [decode16, decShort, F, N]

theorem Encoding.or16 (f : Short) : Encoding.Statement (.or16 f) := fun h rest => by
  have F := fields_H 4 f.d.val f.s.val (bit f.t) (by decide) (by omega) (by omega) (Nat.lt_of_lt_of_le (bit_lt _) (by decide))
  refine read_back_short (w := wH 4 f.d.val f.s.val (bit f.t)) F.1 F.2.1 ?_ h rest
  have N : wH 4 f.d.val f.s.val (bit f.t) ≠ 0 := by unfold wH; omega
  simp [decode16, decShort, F, N]

theorem Encoding.xor16 (f : Short) : Encoding.Statement (.xor16 f) := fun h rest => by
  have F := fields_H 5 f.d.val f.s.val (bit f.t) (by decide) (by omega) (by omega) (Nat.lt_of_lt_of_le (bit_lt _) (by decide))
  refine read_back_short (w := wH 5 f.d.val f.s.val (bit f.t)) F.1 F.2.1 ?_ h rest
  have N : wH 5 f.d.val f.s.val (bit f.t) ≠ 0 := by unfold wH; omega
  simp [decode16, decShort, F, N]

theorem Encoding.shli16 (f : Short) : Encoding.Statement (.shli16 f) := fun h rest => by
  have F := fields_H 6 f.d.val f.s.val (bit f.t) (by decide) (by omega) (by omega) (Nat.lt_of_lt_of_le (bit_lt _) (by decide))
  refine read_back_short (w := wH 6 f.d.val f.s.val (bit f.t)) F.1 F.2.1 ?_ h rest
  have N : wH 6 f.d.val f.s.val (bit f.t) ≠ 0 := by unfold wH; omega
  simp [decode16, decShort, F, N]

theorem Encoding.shri16 (f : Short) : Encoding.Statement (.shri16 f) := fun h rest => by
  have F := fields_H 7 f.d.val f.s.val (bit f.t) (by decide) (by omega) (by omega) (Nat.lt_of_lt_of_le (bit_lt _) (by decide))
  refine read_back_short (w := wH 7 f.d.val f.s.val (bit f.t)) F.1 F.2.1 ?_ h rest
  have N : wH 7 f.d.val f.s.val (bit f.t) ≠ 0 := by unfold wH; omega
  simp [decode16, decShort, F, N]

theorem Encoding.movi16 (f : Short) : Encoding.Statement (.movi16 f) := fun h rest => by
  have F := fields_H 8 f.d.val f.s.val (bit f.t) (by decide) (by omega) (by omega) (Nat.lt_of_lt_of_le (bit_lt _) (by decide))
  refine read_back_short (w := wH 8 f.d.val f.s.val (bit f.t)) F.1 F.2.1 ?_ h rest
  have N : wH 8 f.d.val f.s.val (bit f.t) ≠ 0 := by unfold wH; omega
  simp [decode16, decShort, F, N]

theorem Encoding.iaddi16 (f : Short) : Encoding.Statement (.iaddi16 f) := fun h rest => by
  have F := fields_H 9 f.d.val f.s.val (bit f.t) (by decide) (by omega) (by omega) (Nat.lt_of_lt_of_le (bit_lt _) (by decide))
  refine read_back_short (w := wH 9 f.d.val f.s.val (bit f.t)) F.1 F.2.1 ?_ h rest
  have N : wH 9 f.d.val f.s.val (bit f.t) ≠ 0 := by unfold wH; omega
  simp [decode16, decShort, F, N]

theorem Encoding.fadd16 (f : Short) : Encoding.Statement (.fadd16 f) := fun h rest => by
  have F := fields_H 10 f.d.val f.s.val (bit f.t) (by decide) (by omega) (by omega) (Nat.lt_of_lt_of_le (bit_lt _) (by decide))
  refine read_back_short (w := wH 10 f.d.val f.s.val (bit f.t)) F.1 F.2.1 ?_ h rest
  have N : wH 10 f.d.val f.s.val (bit f.t) ≠ 0 := by unfold wH; omega
  simp [decode16, decShort, F, N]

theorem Encoding.fmul16 (f : Short) : Encoding.Statement (.fmul16 f) := fun h rest => by
  have F := fields_H 11 f.d.val f.s.val (bit f.t) (by decide) (by omega) (by omega) (Nat.lt_of_lt_of_le (bit_lt _) (by decide))
  refine read_back_short (w := wH 11 f.d.val f.s.val (bit f.t)) F.1 F.2.1 ?_ h rest
  have N : wH 11 f.d.val f.s.val (bit f.t) ≠ 0 := by unfold wH; omega
  simp [decode16, decShort, F, N]

theorem Encoding.fsub16 (f : Short) : Encoding.Statement (.fsub16 f) := fun h rest => by
  have F := fields_H 12 f.d.val f.s.val (bit f.t) (by decide) (by omega) (by omega) (Nat.lt_of_lt_of_le (bit_lt _) (by decide))
  refine read_back_short (w := wH 12 f.d.val f.s.val (bit f.t)) F.1 F.2.1 ?_ h rest
  have N : wH 12 f.d.val f.s.val (bit f.t) ≠ 0 := by unfold wH; omega
  simp [decode16, decShort, F, N]

theorem Encoding.imul16 (f : Short) : Encoding.Statement (.imul16 f) := fun h rest => by
  have F := fields_H 13 f.d.val f.s.val (bit f.t) (by decide) (by omega) (by omega) (Nat.lt_of_lt_of_le (bit_lt _) (by decide))
  refine read_back_short (w := wH 13 f.d.val f.s.val (bit f.t)) F.1 F.2.1 ?_ h rest
  have N : wH 13 f.d.val f.s.val (bit f.t) ≠ 0 := by unfold wH; omega
  simp [decode16, decShort, F, N]

theorem Encoding.lds16 (s : Fin 32) (d : Fin 32) : Encoding.Statement (.lds16 s d) := fun h rest => by
  have F := fields_H 14 d.val s.val 0 (by decide) (by omega) (by omega) (by decide)
  refine read_back_short (w := wH 14 d.val s.val 0) F.1 F.2.1 ?_ h rest
  have N : wH 14 d.val s.val 0 ≠ 0 := by unfold wH; omega
  simp [decode16, decShortSp, F, N]

theorem Encoding.sts16 (s : Fin 32) (d : Fin 32) : Encoding.Statement (.sts16 s d) := fun h rest => by
  have F := fields_H 15 d.val s.val 0 (by decide) (by omega) (by omega) (by decide)
  refine read_back_short (w := wH 15 d.val s.val 0) F.1 F.2.1 ?_ h rest
  have N : wH 15 d.val s.val 0 ≠ 0 := by unfold wH; omega
  simp [decode16, decShortSp, F, N]

theorem Encoding.bra (off : BitVec 22) : Encoding.Statement (.bra off) := fun h rest => by
  have F := fields_B 0x12 off.toNat (by decide) (BitVec.isLt _)
  refine read_back_wide (w := wB 0x12 off.toNat) F.1 F.2.1 ?_ h rest
  simp [decode32, decCtl, decB, F]

theorem Encoding.brc (off : BitVec 16) (a : Opnd) (c : BrCond) : Encoding.Statement (.brc off a c) := fun h rest => by
  have F := fields_C 0x13 c.code a.code off.toNat (by decide) (Nat.lt_of_lt_of_le (brCond_code_lt _) (by decide)) (opnd_code_lt _) (BitVec.isLt _)
  refine read_back_wide (w := wC 0x13 c.code a.code off.toNat) F.1 F.2.1 ?_ h rest
  simp [decode32, decCtl, F]

theorem Encoding.brx (off : BitVec 16) (a : Opnd) (z : Bool) : Encoding.Statement (.brx off a z) := fun h rest => by
  have F := fields_C 0x14 (bit z) a.code off.toNat (by decide) (Nat.lt_of_lt_of_le (bit_lt _) (by decide)) (opnd_code_lt _) (BitVec.isLt _)
  refine read_back_wide (w := wC 0x14 (bit z) a.code off.toNat) F.1 F.2.1 ?_ h rest
  simp [decode32, decCtl, F]
  cases z <;> rfl

theorem Encoding.brk (a : Opnd) (z : Bool) : Encoding.Statement (.brk a z) := fun h rest => by
  have F := fields_C 0x15 (bit z) a.code 0 (by decide) (Nat.lt_of_lt_of_le (bit_lt _) (by decide)) (opnd_code_lt _) (by decide)
  refine read_back_wide (w := wC 0x15 (bit z) a.code 0) F.1 F.2.1 ?_ h rest
  simp [decode32, decCtl, F]
  cases z <;> rfl

theorem Encoding.pj (off : BitVec 22) : Encoding.Statement (.pj off) := fun h rest => by
  have F := fields_B 0x16 off.toNat (by decide) (BitVec.isLt _)
  refine read_back_wide (w := wB 0x16 off.toNat) F.1 F.2.1 ?_ h rest
  simp [decode32, decCtl, decB, F]

theorem Encoding.call (off : BitVec 22) : Encoding.Statement (.call off) := fun h rest => by
  have F := fields_B 0x17 off.toNat (by decide) (BitVec.isLt _)
  refine read_back_wide (w := wB 0x17 off.toNat) F.1 F.2.1 ?_ h rest
  simp [decode32, decCtl, decB, F]

theorem Encoding.join : Encoding.Statement (.join) := fun h rest => by
  have F := fields_T 0x18 0 0 0 0 0 0 (by decide) (by decide) (by decide) (by decide) (by decide) (by decide) (by decide)
  have G := wide_T 0x18 0 0 0 0 0 0 (by decide) (by decide) (by decide) (by decide) (by decide) (by decide)
  refine read_back_wide (w := wT 0x18 0 0 0 0 0 0) F.1 F.2.1 ?_ h rest
  simp [decode32, decCtl, plainT, F, G]

theorem Encoding.jmpr (a : Opnd) : Encoding.Statement (.jmpr a) := fun h rest => by
  have F := fields_T 0x18 1 0 0 0 a.code 0 (by decide) (by decide) (by decide) (by decide) (by decide) (opnd_code_lt _) (by decide)
  refine read_back_wide (w := wT 0x18 1 0 0 0 a.code 0) F.1 F.2.1 ?_ h rest
  simp [decode32, decCtl, plainT, F]

theorem Encoding.exit : Encoding.Statement (.exit) := fun h rest => by
  have F := fields_T 0x18 2 0 0 0 0 0 (by decide) (by decide) (by decide) (by decide) (by decide) (by decide) (by decide)
  have G := wide_T 0x18 2 0 0 0 0 0 (by decide) (by decide) (by decide) (by decide) (by decide) (by decide)
  refine read_back_wide (w := wT 0x18 2 0 0 0 0 0) F.1 F.2.1 ?_ h rest
  simp [decode32, decCtl, plainT, F, G]

theorem Encoding.callr (a : Opnd) : Encoding.Statement (.callr a) := fun h rest => by
  have F := fields_T 0x18 3 0 0 0 a.code 0 (by decide) (by decide) (by decide) (by decide) (by decide) (opnd_code_lt _) (by decide)
  refine read_back_wide (w := wT 0x18 3 0 0 0 a.code 0) F.1 F.2.1 ?_ h rest
  simp [decode32, decCtl, plainT, F]

theorem Encoding.mskrd (d : Dst) (sel : MskSel) : Encoding.Statement (.mskrd d sel) := fun h rest => by
  have F := fields_T 0x19 0 0 0 d.code 0 (0x38 + sel.code) (by decide) (by decide) (by decide) (by decide) (dst_code_lt _) (by decide) (by have := mskSel_code_lt sel; omega)
  refine read_back_wide (w := wT 0x19 0 0 0 d.code 0 (0x38 + sel.code)) F.1 F.2.1 ?_ h rest
  simp [decode32, decCtl, plainT, F]

theorem Encoding.mskwr (a : Opnd) : Encoding.Statement (.mskwr a) := fun h rest => by
  have F := fields_T 0x19 1 0 0 0 a.code 0 (by decide) (by decide) (by decide) (by decide) (by decide) (opnd_code_lt _) (by decide)
  refine read_back_wide (w := wT 0x19 1 0 0 0 a.code 0) F.1 F.2.1 ?_ h rest
  simp [decode32, decCtl, plainT, F]

theorem Encoding.mskand (a : Opnd) : Encoding.Statement (.mskand a) := fun h rest => by
  have F := fields_T 0x19 2 0 0 0 a.code 0 (by decide) (by decide) (by decide) (by decide) (by decide) (opnd_code_lt _) (by decide)
  refine read_back_wide (w := wT 0x19 2 0 0 0 a.code 0) F.1 F.2.1 ?_ h rest
  simp [decode32, decCtl, plainT, F]

theorem Encoding.fadd (f : FltOp) : Encoding.Statement (.fadd f) := fun h rest => by
  have F := fields_FltOp 0x1A 0 (by decide) (by decide) f
  exact read_back_wide F.1 F.2.1 (by simp [decode32, decFloat, decFlt, F]) h rest

theorem Encoding.fsub (f : FltOp) : Encoding.Statement (.fsub f) := fun h rest => by
  have F := fields_FltOp 0x1A 1 (by decide) (by decide) f
  exact read_back_wide F.1 F.2.1 (by simp [decode32, decFloat, decFlt, F]) h rest

theorem Encoding.fmul (f : FltOp) : Encoding.Statement (.fmul f) := fun h rest => by
  have F := fields_FltOp 0x1A 2 (by decide) (by decide) f
  exact read_back_wide F.1 F.2.1 (by simp [decode32, decFloat, decFlt, F]) h rest

theorem Encoding.ffma (f : FltOp) : Encoding.Statement (.ffma f) := fun h rest => by
  have F := fields_FltOp 0x1A 3 (by decide) (by decide) f
  exact read_back_wide F.1 F.2.1 (by simp [decode32, decFloat, decFlt, F]) h rest

theorem Encoding.fmin (f : FltOp) : Encoding.Statement (.fmin f) := fun h rest => by
  have F := fields_FltOp 0x1B 0 (by decide) (by decide) f
  exact read_back_wide F.1 F.2.1 (by simp [decode32, decFloat, decFlt, F]) h rest

theorem Encoding.fmax (f : FltOp) : Encoding.Statement (.fmax f) := fun h rest => by
  have F := fields_FltOp 0x1B 1 (by decide) (by decide) f
  exact read_back_wide F.1 F.2.1 (by simp [decode32, decFloat, decFlt, F]) h rest

theorem Encoding.fabs (f : FltUn) : Encoding.Statement (.fabs f) := fun h rest => by
  have F := fields_FltUn 0x1B 2 (by decide) (by decide) f
  exact read_back_wide F.1 F.2.1 (by simp [decode32, decFloat, decFltUn, F]) h rest

theorem Encoding.fneg (f : FltUn) : Encoding.Statement (.fneg f) := fun h rest => by
  have F := fields_FltUn 0x1B 3 (by decide) (by decide) f
  exact read_back_wide F.1 F.2.1 (by simp [decode32, decFloat, decFltUn, F]) h rest

theorem Encoding.frcp (f : FltUn) : Encoding.Statement (.frcp f) := fun h rest => by
  have F := fields_FltUn 0x1C 0 (by decide) (by decide) f
  exact read_back_wide F.1 F.2.1 (by simp [decode32, decFloat, decFltUn, F]) h rest

theorem Encoding.frsq (f : FltUn) : Encoding.Statement (.frsq f) := fun h rest => by
  have F := fields_FltUn 0x1C 1 (by decide) (by decide) f
  exact read_back_wide F.1 F.2.1 (by simp [decode32, decFloat, decFltUn, F]) h rest

theorem Encoding.fsqrt (f : FltUn) : Encoding.Statement (.fsqrt f) := fun h rest => by
  have F := fields_FltUn 0x1C 2 (by decide) (by decide) f
  exact read_back_wide F.1 F.2.1 (by simp [decode32, decFloat, decFltUn, F]) h rest

theorem Encoding.fexp2 (f : FltUn) : Encoding.Statement (.fexp2 f) := fun h rest => by
  have F := fields_FltUn 0x1C 3 (by decide) (by decide) f
  exact read_back_wide F.1 F.2.1 (by simp [decode32, decFloat, decFltUn, F]) h rest

theorem Encoding.flog2 (f : FltUn) : Encoding.Statement (.flog2 f) := fun h rest => by
  have F := fields_FltUn 0x1D 0 (by decide) (by decide) f
  exact read_back_wide F.1 F.2.1 (by simp [decode32, decFloat, decFltUn, F]) h rest

theorem Encoding.fsin (f : FltUn) : Encoding.Statement (.fsin f) := fun h rest => by
  have F := fields_FltUn 0x1D 1 (by decide) (by decide) f
  exact read_back_wide F.1 F.2.1 (by simp [decode32, decFloat, decFltUn, F]) h rest

theorem Encoding.fcos (f : FltUn) : Encoding.Statement (.fcos f) := fun h rest => by
  have F := fields_FltUn 0x1D 2 (by decide) (by decide) f
  exact read_back_wide F.1 F.2.1 (by simp [decode32, decFloat, decFltUn, F]) h rest

theorem Encoding.frnd (f : FltUn) : Encoding.Statement (.frnd f) := fun h rest => by
  have F := fields_FltUn 0x1D 3 (by decide) (by decide) f
  exact read_back_wide F.1 F.2.1 (by simp [decode32, decFloat, decFltUn, F]) h rest

theorem Encoding.fseteq (f : FltOp) : Encoding.Statement (.fseteq f) := fun h rest => by
  have F := fields_FltOp 0x1E 0 (by decide) (by decide) f
  exact read_back_wide F.1 F.2.1 (by simp [decode32, decFloat, decFlt, F]) h rest

theorem Encoding.fsetne (f : FltOp) : Encoding.Statement (.fsetne f) := fun h rest => by
  have F := fields_FltOp 0x1E 1 (by decide) (by decide) f
  exact read_back_wide F.1 F.2.1 (by simp [decode32, decFloat, decFlt, F]) h rest

theorem Encoding.fsetlt (f : FltOp) : Encoding.Statement (.fsetlt f) := fun h rest => by
  have F := fields_FltOp 0x1E 2 (by decide) (by decide) f
  exact read_back_wide F.1 F.2.1 (by simp [decode32, decFloat, decFlt, F]) h rest

theorem Encoding.fsetle (f : FltOp) : Encoding.Statement (.fsetle f) := fun h rest => by
  have F := fields_FltOp 0x1E 3 (by decide) (by decide) f
  exact read_back_wide F.1 F.2.1 (by simp [decode32, decFloat, decFlt, F]) h rest

theorem Encoding.fsetgt (f : FltOp) : Encoding.Statement (.fsetgt f) := fun h rest => by
  have F := fields_FltOp 0x1F 0 (by decide) (by decide) f
  exact read_back_wide F.1 F.2.1 (by simp [decode32, decFloat, decFlt, F]) h rest

theorem Encoding.fsetge (f : FltOp) : Encoding.Statement (.fsetge f) := fun h rest => by
  have F := fields_FltOp 0x1F 1 (by decide) (by decide) f
  exact read_back_wide F.1 F.2.1 (by simp [decode32, decFloat, decFlt, F]) h rest

theorem Encoding.fsetun (f : FltOp) : Encoding.Statement (.fsetun f) := fun h rest => by
  have F := fields_FltOp 0x1F 2 (by decide) (by decide) f
  exact read_back_wide F.1 F.2.1 (by simp [decode32, decFloat, decFlt, F]) h rest

theorem Encoding.fclass (f : FltUn) : Encoding.Statement (.fclass f) := fun h rest => by
  have F := fields_FltUn 0x1F 3 (by decide) (by decide) f
  exact read_back_wide F.1 F.2.1 (by simp [decode32, decFloat, decFltUn, F]) h rest

theorem Encoding.cvt (f : CvtOp) : Encoding.Statement (.cvt f) := fun h rest => by
  have F := fields_T 0x20 f.rm.code f.dst.ty f.w.code f.d.code f.a.code (f.src.code + 16 * bit f.dst.isFlt + 32 * bit f.sat) (by decide) (rmode_code_lt _) (numTy_ty_lt _) (width_code_lt _) (dst_code_lt _) (opnd_code_lt _) (by have := bit_lt f.dst.isFlt; have := bit_lt f.sat; have := numTy_code_lt f.src; omega)
  refine read_back_wide (w := wT 0x20 f.rm.code f.dst.ty f.w.code f.d.code f.a.code (f.src.code + 16 * bit f.dst.isFlt + 32 * bit f.sat)) F.1 F.2.1 ?_ h rest
  have B := top_T (wT 0x20 f.rm.code f.dst.ty f.w.code f.d.code f.a.code (f.src.code + 16 * bit f.dst.isFlt + 32 * bit f.sat)) (f.src.code + 16 * bit f.dst.isFlt + 32 * bit f.sat) F.2.2.2.2.2.2.2.2
  have := numTy_code_lt f.src
  have b1 : (f.src.code + 16 * bit f.dst.isFlt + 32 * bit f.sat) % 16 = f.src.code := by omega
  have b2 : (f.src.code + 16 * bit f.dst.isFlt + 32 * bit f.sat) / 16 % 2 = bit f.dst.isFlt := by have := bit_lt f.dst.isFlt; omega
  have b3 : (f.src.code + 16 * bit f.dst.isFlt + 32 * bit f.sat) / 32 = bit f.sat := by have := bit_lt f.dst.isFlt; omega
  rw [b1, b2, b3] at B
  simp [decode32, decFloat, decCvt, F, B]

theorem Encoding.sepk (f : SeOp) : Encoding.Statement (.sepk f) := fun h rest => by
  have F := fields_T 0x21 0 6 0 f.d.code f.a.code (0x38 + f.m.code) (by decide) (by decide) (by decide) (by decide) (dst_code_lt _) (opnd_code_lt _) (by have := seFmt_code_lt f.m; omega)
  refine read_back_wide (w := wT 0x21 0 6 0 f.d.code f.a.code (0x38 + f.m.code)) F.1 F.2.1 ?_ h rest
  simp [decode32, decFloat, decSe, F]

theorem Encoding.seunpk (f : SeOp) : Encoding.Statement (.seunpk f) := fun h rest => by
  have F := fields_T 0x21 1 6 0 f.d.code f.a.code (0x38 + f.m.code) (by decide) (by decide) (by decide) (by decide) (dst_code_lt _) (opnd_code_lt _) (by have := seFmt_code_lt f.m; omega)
  refine read_back_wide (w := wT 0x21 1 6 0 f.d.code f.a.code (0x38 + f.m.code)) F.1 F.2.1 ?_ h rest
  simp [decode32, decFloat, decSe, F]

theorem Encoding.f8pk (f : F8PkOp) : Encoding.Statement (.f8pk f) := fun h rest => by
  have F := fields_T 0x21 2 (3 + bit f.e5) 0 f.d.code f.a.code f.b.code (by decide) (by decide) (by have := bit_lt f.e5; omega) (by decide) (dst_code_lt _) (opnd_code_lt _) (opnd_code_lt _)
  refine read_back_wide (w := wT 0x21 2 (3 + bit f.e5) 0 f.d.code f.a.code f.b.code) F.1 F.2.1 ?_ h rest
  simp [decode32, decFloat, decF8Pk, F]
  rcases f with ⟨d, a, b, e⟩; cases e <;> rfl

theorem Encoding.f8unpk (f : F8UnpkOp) : Encoding.Statement (.f8unpk f) := fun h rest => by
  have F := fields_T 0x21 3 (3 + bit f.e5) 0 f.d.code f.a.code (0x38 + bit f.h) (by decide) (by decide) (by have := bit_lt f.e5; omega) (by decide) (dst_code_lt _) (opnd_code_lt _) (by have := bit_lt f.h; omega)
  refine read_back_wide (w := wT 0x21 3 (3 + bit f.e5) 0 f.d.code f.a.code (0x38 + bit f.h)) F.1 F.2.1 ?_ h rest
  simp [decode32, decFloat, decF8Unpk, F]
  rcases f with ⟨d, a, x, e⟩; cases x <;> cases e <;> rfl

theorem Encoding.shfl (f : AluOp) : Encoding.Statement (.shfl f) := fun h rest => by
  have F := fields_AluOp 0x22 0 (by decide) (by decide) f
  exact read_back_wide F.1 F.2.1 (by simp [decode32, decMem, decAlu, F]) h rest

theorem Encoding.shflx (f : AluOp) : Encoding.Statement (.shflx f) := fun h rest => by
  have F := fields_AluOp 0x22 1 (by decide) (by decide) f
  exact read_back_wide F.1 F.2.1 (by simp [decode32, decMem, decAlu, F]) h rest

theorem Encoding.shflu (f : AluOp) : Encoding.Statement (.shflu f) := fun h rest => by
  have F := fields_AluOp 0x22 2 (by decide) (by decide) f
  exact read_back_wide F.1 F.2.1 (by simp [decode32, decMem, decAlu, F]) h rest

theorem Encoding.shfld (f : AluOp) : Encoding.Statement (.shfld f) := fun h rest => by
  have F := fields_AluOp 0x22 3 (by decide) (by decide) f
  exact read_back_wide F.1 F.2.1 (by simp [decode32, decMem, decAlu, F]) h rest

theorem Encoding.vany (f : AluUn) : Encoding.Statement (.vany f) := fun h rest => by
  have F := fields_AluUn 0x23 0 (by decide) (by decide) f
  exact read_back_wide F.1 F.2.1 (by simp [decode32, decMem, decAluUn, F]) h rest

theorem Encoding.vall (f : AluUn) : Encoding.Statement (.vall f) := fun h rest => by
  have F := fields_AluUn 0x23 1 (by decide) (by decide) f
  exact read_back_wide F.1 F.2.1 (by simp [decode32, decMem, decAluUn, F]) h rest

theorem Encoding.vuni (f : AluUn) : Encoding.Statement (.vuni f) := fun h rest => by
  have F := fields_AluUn 0x23 2 (by decide) (by decide) f
  exact read_back_wide F.1 F.2.1 (by simp [decode32, decMem, decAluUn, F]) h rest

theorem Encoding.ballot (f : AluUn) : Encoding.Statement (.ballot f) := fun h rest => by
  have F := fields_AluUn 0x23 3 (by decide) (by decide) f
  exact read_back_wide F.1 F.2.1 (by simp [decode32, decMem, decAluUn, F]) h rest

theorem Encoding.scan (f : RedOp) : Encoding.Statement (.scan f) := fun h rest => by
  have F := fields_T 0x24 0 f.t.ty f.w.code f.d.code f.a.code (f.op.code + 8 * bit f.t.isFlt) (by decide) (by decide) (numTy_ty_lt _) (width_code_lt _) (dst_code_lt _) (opnd_code_lt _) (by have := bit_lt f.t.isFlt; have := redK_code_lt f.op; omega)
  refine read_back_wide (w := wT 0x24 0 f.t.ty f.w.code f.d.code f.a.code (f.op.code + 8 * bit f.t.isFlt)) F.1 F.2.1 ?_ h rest
  have B := top_T (wT 0x24 0 f.t.ty f.w.code f.d.code f.a.code (f.op.code + 8 * bit f.t.isFlt)) (f.op.code + 8 * bit f.t.isFlt) F.2.2.2.2.2.2.2.2
  have := redK_code_lt f.op
  have b1 : (f.op.code + 8 * bit f.t.isFlt) % 8 = f.op.code := by omega
  have b2 : (f.op.code + 8 * bit f.t.isFlt) / 8 % 2 = bit f.t.isFlt := by have := bit_lt f.t.isFlt; omega
  have b3 : (f.op.code + 8 * bit f.t.isFlt) / 16 = 0 := by have := bit_lt f.t.isFlt; omega
  rw [b1, b2, b3] at B
  simp [decode32, decMem, decRed, F, B]

theorem Encoding.scanx (f : RedOp) : Encoding.Statement (.scanx f) := fun h rest => by
  have F := fields_T 0x24 1 f.t.ty f.w.code f.d.code f.a.code (f.op.code + 8 * bit f.t.isFlt) (by decide) (by decide) (numTy_ty_lt _) (width_code_lt _) (dst_code_lt _) (opnd_code_lt _) (by have := bit_lt f.t.isFlt; have := redK_code_lt f.op; omega)
  refine read_back_wide (w := wT 0x24 1 f.t.ty f.w.code f.d.code f.a.code (f.op.code + 8 * bit f.t.isFlt)) F.1 F.2.1 ?_ h rest
  have B := top_T (wT 0x24 1 f.t.ty f.w.code f.d.code f.a.code (f.op.code + 8 * bit f.t.isFlt)) (f.op.code + 8 * bit f.t.isFlt) F.2.2.2.2.2.2.2.2
  have := redK_code_lt f.op
  have b1 : (f.op.code + 8 * bit f.t.isFlt) % 8 = f.op.code := by omega
  have b2 : (f.op.code + 8 * bit f.t.isFlt) / 8 % 2 = bit f.t.isFlt := by have := bit_lt f.t.isFlt; omega
  have b3 : (f.op.code + 8 * bit f.t.isFlt) / 16 = 0 := by have := bit_lt f.t.isFlt; omega
  rw [b1, b2, b3] at B
  simp [decode32, decMem, decRed, F, B]

theorem Encoding.red (f : RedOp) : Encoding.Statement (.red f) := fun h rest => by
  have F := fields_T 0x24 2 f.t.ty f.w.code f.d.code f.a.code (f.op.code + 8 * bit f.t.isFlt) (by decide) (by decide) (numTy_ty_lt _) (width_code_lt _) (dst_code_lt _) (opnd_code_lt _) (by have := bit_lt f.t.isFlt; have := redK_code_lt f.op; omega)
  refine read_back_wide (w := wT 0x24 2 f.t.ty f.w.code f.d.code f.a.code (f.op.code + 8 * bit f.t.isFlt)) F.1 F.2.1 ?_ h rest
  have B := top_T (wT 0x24 2 f.t.ty f.w.code f.d.code f.a.code (f.op.code + 8 * bit f.t.isFlt)) (f.op.code + 8 * bit f.t.isFlt) F.2.2.2.2.2.2.2.2
  have := redK_code_lt f.op
  have b1 : (f.op.code + 8 * bit f.t.isFlt) % 8 = f.op.code := by omega
  have b2 : (f.op.code + 8 * bit f.t.isFlt) / 8 % 2 = bit f.t.isFlt := by have := bit_lt f.t.isFlt; omega
  have b3 : (f.op.code + 8 * bit f.t.isFlt) / 16 = 0 := by have := bit_lt f.t.isFlt; omega
  rw [b1, b2, b3] at B
  simp [decode32, decMem, decRed, F, B]

theorem Encoding.segred (f : SegOp) : Encoding.Statement (.segred f) := fun h rest => by
  have F := fields_T 0x24 3 f.t.code 0 f.d.code f.a.code f.b.code (by decide) (by decide) (segTy_code_lt _) (by decide) (dst_code_lt _) (opnd_code_lt _) (opnd_code_lt _)
  refine read_back_wide (w := wT 0x24 3 f.t.code 0 f.d.code f.a.code f.b.code) F.1 F.2.1 ?_ h rest
  simp [decode32, decMem, decSeg, F]

theorem Encoding.cmprs (f : AluOp) : Encoding.Statement (.cmprs f) := fun h rest => by
  have F := fields_AluOp 0x25 0 (by decide) (by decide) f
  exact read_back_wide F.1 F.2.1 (by simp [decode32, decMem, decAlu, F]) h rest

theorem Encoding.expnd (f : AluOp) : Encoding.Statement (.expnd f) := fun h rest => by
  have F := fields_AluOp 0x25 1 (by decide) (by decide) f
  exact read_back_wide F.1 F.2.1 (by simp [decode32, decMem, decAlu, F]) h rest

theorem Encoding.matchv (f : AluUn) : Encoding.Statement (.matchv f) := fun h rest => by
  have F := fields_AluUn 0x25 2 (by decide) (by decide) f
  exact read_back_wide F.1 F.2.1 (by simp [decode32, decMem, decAluUn, F]) h rest

theorem Encoding.ldg (f : LoadOp) : Encoding.Statement (.ldg f) := fun h rest => by
  have F := fields_LoadOp 0x26 (by decide) f
  exact read_back_wide F.1 F.2.1 (by simp [decode32, decMem, decLoad, F]) h rest

theorem Encoding.stg (f : StoreOp) : Encoding.Statement (.stg f) := fun h rest => by
  have F := fields_StoreOp 0x27 (by decide) f
  exact read_back_wide F.1 F.2.1 (by simp [decode32, decMem, decStore, F]) h rest

theorem Encoding.lds (f : LoadOp) : Encoding.Statement (.lds f) := fun h rest => by
  have F := fields_LoadOp 0x28 (by decide) f
  exact read_back_wide F.1 F.2.1 (by simp [decode32, decMem, decLoad, F]) h rest

theorem Encoding.sts (f : StoreOp) : Encoding.Statement (.sts f) := fun h rest => by
  have F := fields_StoreOp 0x29 (by decide) f
  exact read_back_wide F.1 F.2.1 (by simp [decode32, decMem, decStore, F]) h rest

theorem Encoding.cstg (f : StoreOp) : Encoding.Statement (.cstg f) := fun h rest => by
  have F := fields_StoreOp 0x2A (by decide) f
  exact read_back_wide F.1 F.2.1 (by simp [decode32, decMem, decStore, F]) h rest

theorem Encoding.csts (f : StoreOp) : Encoding.Statement (.csts f) := fun h rest => by
  have F := fields_StoreOp 0x2B (by decide) f
  exact read_back_wide F.1 F.2.1 (by simp [decode32, decMem, decStore, F]) h rest

theorem Encoding.atomg (f : AtomGOp) : Encoding.Statement (.atomg f) := fun h rest => by
  have F := fields_M 0x2C f.op.code f.ord.code (bit f.wide) f.d.code f.a.code f.scope.code f.imm.val (by decide) (atomG_code_lt _) (order_code_lt _) (Nat.lt_of_lt_of_le (bit_lt _) (by decide)) (dst_code_lt _) (opnd_code_lt _) (scope_code_lt _) (by omega)
  refine read_back_wide (w := wM 0x2C f.op.code f.ord.code (bit f.wide) f.d.code f.a.code f.scope.code f.imm.val) F.1 F.2.1 ?_ h rest
  simp [decode32, decMem, decAtomG, F]
  rcases f with ⟨d, a, i, x, p, q, r⟩; cases x <;> rfl

theorem Encoding.atomx (f : AtomXOp) : Encoding.Statement (.atomx f) := fun h rest => by
  have F := fields_M 0x2D f.op.code f.ord.code 0 f.d.code f.a.code f.scope.code f.imm.val (by decide) (atomX_code_lt _) (order_code_lt _) (by decide) (dst_code_lt _) (opnd_code_lt _) (scope_code_lt _) (by omega)
  refine read_back_wide (w := wM 0x2D f.op.code f.ord.code 0 f.d.code f.a.code f.scope.code f.imm.val) F.1 F.2.1 ?_ h rest
  simp [decode32, decMem, decAtomX, F]

theorem Encoding.atoms (f : AtomSOp) : Encoding.Statement (.atoms f) := fun h rest => by
  have F := fields_M 0x2E f.op.op f.ord.code f.op.w f.d.code f.a.code f.scope.code f.imm.val (by decide) (atomS_op_lt _) (order_code_lt _) (atomS_w_lt _) (dst_code_lt _) (opnd_code_lt _) (scope_code_lt _) (by omega)
  refine read_back_wide (w := wM 0x2E f.op.op f.ord.code f.op.w f.d.code f.a.code f.scope.code f.imm.val) F.1 F.2.1 ?_ h rest
  simp [decode32, decMem, decAtomS, F]

theorem Encoding.fence (k : FenceKind) (scope : Scope) : Encoding.Statement (.fence k scope) := fun h rest => by
  have F := fields_M 0x2F 0 k.code 0 0 0 scope.code 0 (by decide) (by decide) (fenceKind_code_lt _) (by decide) (by decide) (by decide) (scope_code_lt _) (by decide)
  refine read_back_wide (w := wM 0x2F 0 k.code 0 0 0 scope.code 0) F.1 F.2.1 ?_ h rest
  simp [decode32, decMem, decFence, F]

theorem Encoding.tlwait (e : Eng) (n : Opnd) : Encoding.Statement (.tlwait e n) := fun h rest => by
  have F := fields_E 0x30 0 e.code 0 n.code 0 0 (by decide) (by decide) (eng_code_lt _) (by decide) (opnd_code_lt _) (by decide) (by decide)
  have G := flags_E 0x30 0 e.code 0 n.code 0 0 (by decide) (by decide) (eng_code_lt _) (by decide) (opnd_code_lt _) (by decide) (by decide)
  refine read_back_wide (w := wE 0x30 0 e.code 0 n.code 0 0) F.1 F.2.1 ?_ h rest
  simp [decode32, decEng, F, G]

theorem Encoding.tlrd (e : Eng) (d : Dst) (flt : Bool) : Encoding.Statement (.tlrd e d flt) := fun h rest => by
  have F := fields_E 0x30 1 e.code 0 d.code 0 (4 * bit flt) (by decide) (by decide) (eng_code_lt _) (by decide) (dst_code_lt _) (by decide) (by have := bit_lt flt; omega)
  have G := flags_E 0x30 1 e.code 0 d.code 0 (4 * bit flt) (by decide) (by decide) (eng_code_lt _) (by decide) (dst_code_lt _) (by decide) (by have := bit_lt flt; omega)
  refine read_back_wide (w := wE 0x30 1 e.code 0 d.code 0 (4 * bit flt)) F.1 F.2.1 ?_ h rest
  simp [decode32, decEng, F, G]
  cases flt <;> rfl

theorem Encoding.deq (d : Dst) (c : Fin 4) (scope : Scope) : Encoding.Statement (.deq d c scope) := fun h rest => by
  have F := fields_E 0x31 0 0 (octCode c) d.code scope.code 0 (by decide) (by decide) (by decide) (octCode_lt _) (dst_code_lt _) (scope_code_lt _) (by decide)
  refine read_back_wide (w := wE 0x31 0 0 (octCode c) d.code scope.code 0) F.1 F.2.1 ?_ h rest
  simp [decode32, decEng, F]

theorem Encoding.enq (d : Dst) (c : Fin 4) (scope : Scope) (close : Bool) : Encoding.Statement (.enq d c scope close) := fun h rest => by
  have F := fields_E 0x31 1 0 (octCode c) d.code scope.code (4 * bit close) (by decide) (by decide) (by decide) (octCode_lt _) (dst_code_lt _) (scope_code_lt _) (by have := bit_lt close; omega)
  have G := flags_E 0x31 1 0 (octCode c) d.code scope.code (4 * bit close) (by decide) (by decide) (by decide) (octCode_lt _) (dst_code_lt _) (scope_code_lt _) (by have := bit_lt close; omega)
  refine read_back_wide (w := wE 0x31 1 0 (octCode c) d.code scope.code (4 * bit close)) F.1 F.2.1 ?_ h rest
  simp [decode32, decEng, F, G]
  cases close <;> rfl

theorem Encoding.qtry (d : Dst) (c : Fin 4) (scope : Scope) : Encoding.Statement (.qtry d c scope) := fun h rest => by
  have F := fields_E 0x31 2 0 (octCode c) d.code scope.code 0 (by decide) (by decide) (by decide) (octCode_lt _) (dst_code_lt _) (scope_code_lt _) (by decide)
  refine read_back_wide (w := wE 0x31 2 0 (octCode c) d.code scope.code 0) F.1 F.2.1 ?_ h rest
  simp [decode32, decEng, F]

theorem Encoding.qbind (c : Fin 4) : Encoding.Statement (.qbind c) := fun h rest => by
  have F := fields_E 0x31 3 0 (octCode c) 0 0 0 (by decide) (by decide) (by decide) (octCode_lt _) (by decide) (by decide) (by decide)
  have G := flags_E 0x31 3 0 (octCode c) 0 0 0 (by decide) (by decide) (by decide) (octCode_lt _) (by decide) (by decide) (by decide)
  refine read_back_wide (w := wE 0x31 3 0 (octCode c) 0 0 0) F.1 F.2.1 ?_ h rest
  simp [decode32, decEng, decBlk, F, G]

theorem Encoding.barinit (c : Fin 4) : Encoding.Statement (.barinit c) := fun h rest => by
  have F := fields_E 0x32 0 0 (octCode c) 0 0 0 (by decide) (by decide) (by decide) (octCode_lt _) (by decide) (by decide) (by decide)
  have G := flags_E 0x32 0 0 (octCode c) 0 0 0 (by decide) (by decide) (by decide) (octCode_lt _) (by decide) (by decide) (by decide)
  refine read_back_wide (w := wE 0x32 0 0 (octCode c) 0 0 0) F.1 F.2.1 ?_ h rest
  simp [decode32, decEng, decBlk, F, G]

theorem Encoding.bararv (d : Dst) (c : Fin 4) (scope : Scope) : Encoding.Statement (.bararv d c scope) := fun h rest => by
  have F := fields_E 0x32 1 0 (octCode c) d.code scope.code 0 (by decide) (by decide) (by decide) (octCode_lt _) (dst_code_lt _) (scope_code_lt _) (by decide)
  refine read_back_wide (w := wE 0x32 1 0 (octCode c) d.code scope.code 0) F.1 F.2.1 ?_ h rest
  simp [decode32, decEng, F]

theorem Encoding.barwait (n : Opnd) (c : Fin 4) (scope : Scope) : Encoding.Statement (.barwait n c scope) := fun h rest => by
  have F := fields_E 0x32 2 0 (octCode c) n.code scope.code 0 (by decide) (by decide) (by decide) (octCode_lt _) (opnd_code_lt _) (scope_code_lt _) (by decide)
  refine read_back_wide (w := wE 0x32 2 0 (octCode c) n.code scope.code 0) F.1 F.2.1 ?_ h rest
  simp [decode32, decEng, F]

theorem Encoding.bararvw (c : Fin 4) (scope : Scope) : Encoding.Statement (.bararvw c scope) := fun h rest => by
  have F := fields_E 0x32 3 0 (octCode c) 0 scope.code 0 (by decide) (by decide) (by decide) (octCode_lt _) (by decide) (scope_code_lt _) (by decide)
  refine read_back_wide (w := wE 0x32 3 0 (octCode c) 0 scope.code 0) F.1 F.2.1 ?_ h rest
  simp [decode32, decEng, F]

theorem Encoding.cpy (f : CopyOp) : Encoding.Statement (.cpy f) := fun h rest => by
  have F := fields_E 0x33 0 f.q.val (octCode f.c) (octCode f.c2) f.scope.code (bit f.chain + 2 * bit f.cw + 4 * bit f.st + 8 * bit f.mman) (by decide) (by decide) (by omega) (octCode_lt _) (octCode_lt _) (scope_code_lt _) (by have := bit_lt f.chain; have := bit_lt f.cw; have := bit_lt f.st; have := bit_lt f.mman; omega)
  have G := flags_E 0x33 0 f.q.val (octCode f.c) (octCode f.c2) f.scope.code (bit f.chain + 2 * bit f.cw + 4 * bit f.st + 8 * bit f.mman) (by decide) (by decide) (by omega) (octCode_lt _) (octCode_lt _) (scope_code_lt _) (by have := bit_lt f.chain; have := bit_lt f.cw; have := bit_lt f.st; have := bit_lt f.mman; omega)
  refine read_back_wide (w := wE 0x33 0 f.q.val (octCode f.c) (octCode f.c2) f.scope.code (bit f.chain + 2 * bit f.cw + 4 * bit f.st + 8 * bit f.mman)) F.1 F.2.1 ?_ h rest
  simp [decode32, decEng, decCopy, F, G]
  rcases f with ⟨q, c, c2, sc, x, y, z, u⟩
  cases x <;> cases y <;> cases z <;> cases u <;> simp [bit, need]

theorem Encoding.cpyt (f : CopyOp) : Encoding.Statement (.cpyt f) := fun h rest => by
  have F := fields_E 0x33 1 f.q.val (octCode f.c) (octCode f.c2) f.scope.code (bit f.chain + 2 * bit f.cw + 4 * bit f.st + 8 * bit f.mman) (by decide) (by decide) (by omega) (octCode_lt _) (octCode_lt _) (scope_code_lt _) (by have := bit_lt f.chain; have := bit_lt f.cw; have := bit_lt f.st; have := bit_lt f.mman; omega)
  have G := flags_E 0x33 1 f.q.val (octCode f.c) (octCode f.c2) f.scope.code (bit f.chain + 2 * bit f.cw + 4 * bit f.st + 8 * bit f.mman) (by decide) (by decide) (by omega) (octCode_lt _) (octCode_lt _) (scope_code_lt _) (by have := bit_lt f.chain; have := bit_lt f.cw; have := bit_lt f.st; have := bit_lt f.mman; omega)
  refine read_back_wide (w := wE 0x33 1 f.q.val (octCode f.c) (octCode f.c2) f.scope.code (bit f.chain + 2 * bit f.cw + 4 * bit f.st + 8 * bit f.mman)) F.1 F.2.1 ?_ h rest
  simp [decode32, decEng, decCopy, F, G]
  rcases f with ⟨q, c, c2, sc, x, y, z, u⟩
  cases x <;> cases y <;> cases z <;> cases u <;> simp [bit, need]

theorem Encoding.cpyp (f : CopyOp) : Encoding.Statement (.cpyp f) := fun h rest => by
  have F := fields_E 0x33 2 f.q.val (octCode f.c) (octCode f.c2) f.scope.code (bit f.chain + 2 * bit f.cw + 4 * bit f.st + 8 * bit f.mman) (by decide) (by decide) (by omega) (octCode_lt _) (octCode_lt _) (scope_code_lt _) (by have := bit_lt f.chain; have := bit_lt f.cw; have := bit_lt f.st; have := bit_lt f.mman; omega)
  have G := flags_E 0x33 2 f.q.val (octCode f.c) (octCode f.c2) f.scope.code (bit f.chain + 2 * bit f.cw + 4 * bit f.st + 8 * bit f.mman) (by decide) (by decide) (by omega) (octCode_lt _) (octCode_lt _) (scope_code_lt _) (by have := bit_lt f.chain; have := bit_lt f.cw; have := bit_lt f.st; have := bit_lt f.mman; omega)
  refine read_back_wide (w := wE 0x33 2 f.q.val (octCode f.c) (octCode f.c2) f.scope.code (bit f.chain + 2 * bit f.cw + 4 * bit f.st + 8 * bit f.mman)) F.1 F.2.1 ?_ h rest
  simp [decode32, decEng, decCopy, F, G]
  rcases f with ⟨q, c, c2, sc, x, y, z, u⟩
  cases x <;> cases y <;> cases z <;> cases u <;> simp [bit, need]

theorem Encoding.cpyg (f : CopyOp) : Encoding.Statement (.cpyg f) := fun h rest => by
  have F := fields_E 0x33 3 f.q.val (octCode f.c) (octCode f.c2) f.scope.code (bit f.chain + 2 * bit f.cw + 4 * bit f.st + 8 * bit f.mman) (by decide) (by decide) (by omega) (octCode_lt _) (octCode_lt _) (scope_code_lt _) (by have := bit_lt f.chain; have := bit_lt f.cw; have := bit_lt f.st; have := bit_lt f.mman; omega)
  have G := flags_E 0x33 3 f.q.val (octCode f.c) (octCode f.c2) f.scope.code (bit f.chain + 2 * bit f.cw + 4 * bit f.st + 8 * bit f.mman) (by decide) (by decide) (by omega) (octCode_lt _) (octCode_lt _) (scope_code_lt _) (by have := bit_lt f.chain; have := bit_lt f.cw; have := bit_lt f.st; have := bit_lt f.mman; omega)
  refine read_back_wide (w := wE 0x33 3 f.q.val (octCode f.c) (octCode f.c2) f.scope.code (bit f.chain + 2 * bit f.cw + 4 * bit f.st + 8 * bit f.mman)) F.1 F.2.1 ?_ h rest
  simp [decode32, decEng, decCopy, F, G]
  rcases f with ⟨q, c, c2, sc, x, y, z, u⟩
  cases x <;> cases y <;> cases z <;> cases u <;> simp [bit, need]

theorem Encoding.cpyr (f : CopyOp) : Encoding.Statement (.cpyr f) := fun h rest => by
  have F := fields_E 0x34 0 f.q.val (octCode f.c) (octCode f.c2) f.scope.code (bit f.chain + 2 * bit f.cw + 4 * bit f.st + 8 * bit f.mman) (by decide) (by decide) (by omega) (octCode_lt _) (octCode_lt _) (scope_code_lt _) (by have := bit_lt f.chain; have := bit_lt f.cw; have := bit_lt f.st; have := bit_lt f.mman; omega)
  have G := flags_E 0x34 0 f.q.val (octCode f.c) (octCode f.c2) f.scope.code (bit f.chain + 2 * bit f.cw + 4 * bit f.st + 8 * bit f.mman) (by decide) (by decide) (by omega) (octCode_lt _) (octCode_lt _) (scope_code_lt _) (by have := bit_lt f.chain; have := bit_lt f.cw; have := bit_lt f.st; have := bit_lt f.mman; omega)
  refine read_back_wide (w := wE 0x34 0 f.q.val (octCode f.c) (octCode f.c2) f.scope.code (bit f.chain + 2 * bit f.cw + 4 * bit f.st + 8 * bit f.mman)) F.1 F.2.1 ?_ h rest
  simp [decode32, decEng, decCopy, F, G]
  rcases f with ⟨q, c, c2, sc, x, y, z, u⟩
  cases x <;> cases y <;> cases z <;> cases u <;> simp [bit, need]

theorem Encoding.cpye (f : CopyOp) : Encoding.Statement (.cpye f) := fun h rest => by
  have F := fields_E 0x34 1 f.q.val (octCode f.c) (octCode f.c2) f.scope.code (bit f.chain + 2 * bit f.cw + 4 * bit f.st + 8 * bit f.mman) (by decide) (by decide) (by omega) (octCode_lt _) (octCode_lt _) (scope_code_lt _) (by have := bit_lt f.chain; have := bit_lt f.cw; have := bit_lt f.st; have := bit_lt f.mman; omega)
  have G := flags_E 0x34 1 f.q.val (octCode f.c) (octCode f.c2) f.scope.code (bit f.chain + 2 * bit f.cw + 4 * bit f.st + 8 * bit f.mman) (by decide) (by decide) (by omega) (octCode_lt _) (octCode_lt _) (scope_code_lt _) (by have := bit_lt f.chain; have := bit_lt f.cw; have := bit_lt f.st; have := bit_lt f.mman; omega)
  refine read_back_wide (w := wE 0x34 1 f.q.val (octCode f.c) (octCode f.c2) f.scope.code (bit f.chain + 2 * bit f.cw + 4 * bit f.st + 8 * bit f.mman)) F.1 F.2.1 ?_ h rest
  simp [decode32, decEng, decCopy, F, G]
  rcases f with ⟨q, c, c2, sc, x, y, z, u⟩
  cases x <;> cases y <;> cases z <;> cases u <;> simp [bit, need]

theorem Encoding.pfch (q : Fin 4) (c : Fin 4) (scope : Scope) (cw : Bool) : Encoding.Statement (.pfch q c scope cw) := fun h rest => by
  have F := fields_E 0x34 2 q.val (octCode c) 0 scope.code (2 * bit cw) (by decide) (by decide) (by omega) (octCode_lt _) (by decide) (scope_code_lt _) (by have := bit_lt cw; omega)
  have G := flags_E 0x34 2 q.val (octCode c) 0 scope.code (2 * bit cw) (by decide) (by decide) (by omega) (octCode_lt _) (by decide) (scope_code_lt _) (by have := bit_lt cw; omega)
  refine read_back_wide (w := wE 0x34 2 q.val (octCode c) 0 scope.code (2 * bit cw)) F.1 F.2.1 ?_ h rest
  simp [decode32, decEng, decPfch, F, G]
  cases cw <;> rfl

theorem Encoding.recld (c : Fin 4) : Encoding.Statement (.recld c) := fun h rest => by
  have F := fields_E 0x35 0 0 (octCode c) 0 0 0 (by decide) (by decide) (by decide) (octCode_lt _) (by decide) (by decide) (by decide)
  have G := flags_E 0x35 0 0 (octCode c) 0 0 0 (by decide) (by decide) (by decide) (octCode_lt _) (by decide) (by decide) (by decide)
  refine read_back_wide (w := wE 0x35 0 0 (octCode c) 0 0 0) F.1 F.2.1 ?_ h rest
  simp [decode32, decEng, decBlk, F, G]

theorem Encoding.recinv (c : Fin 4) : Encoding.Statement (.recinv c) := fun h rest => by
  have F := fields_E 0x35 1 0 (octCode c) 0 0 0 (by decide) (by decide) (by decide) (octCode_lt _) (by decide) (by decide) (by decide)
  have G := flags_E 0x35 1 0 (octCode c) 0 0 0 (by decide) (by decide) (by decide) (octCode_lt _) (by decide) (by decide) (by decide)
  refine read_back_wide (w := wE 0x35 1 0 (octCode c) 0 0 0) F.1 F.2.1 ?_ h rest
  simp [decode32, decEng, decBlk, F, G]

theorem Encoding.recq (d : Dst) (c : Fin 4) : Encoding.Statement (.recq d c) := fun h rest => by
  have F := fields_E 0x35 2 0 (octCode c) d.code 0 0 (by decide) (by decide) (by decide) (octCode_lt _) (dst_code_lt _) (by decide) (by decide)
  have G := flags_E 0x35 2 0 (octCode c) d.code 0 0 (by decide) (by decide) (by decide) (octCode_lt _) (dst_code_lt _) (by decide) (by decide)
  refine read_back_wide (w := wE 0x35 2 0 (octCode c) d.code 0 0) F.1 F.2.1 ?_ h rest
  simp [decode32, decEng, decBlkD, F, G]

theorem Encoding.mma (c : Fin 4) : Encoding.Statement (.mma c) := fun h rest => by
  have F := fields_E 0x36 0 0 (octCode c) 0 0 0 (by decide) (by decide) (by decide) (octCode_lt _) (by decide) (by decide) (by decide)
  have G := flags_E 0x36 0 0 (octCode c) 0 0 0 (by decide) (by decide) (by decide) (octCode_lt _) (by decide) (by decide) (by decide)
  refine read_back_wide (w := wE 0x36 0 0 (octCode c) 0 0 0) F.1 F.2.1 ?_ h rest
  simp [decode32, decEng, decBlk, F, G]

theorem Encoding.mman (c : Fin 4) : Encoding.Statement (.mman c) := fun h rest => by
  have F := fields_E 0x36 1 0 (octCode c) 0 0 0 (by decide) (by decide) (by decide) (octCode_lt _) (by decide) (by decide) (by decide)
  have G := flags_E 0x36 1 0 (octCode c) 0 0 0 (by decide) (by decide) (by decide) (octCode_lt _) (by decide) (by decide) (by decide)
  refine read_back_wide (w := wE 0x36 1 0 (octCode c) 0 0 0) F.1 F.2.1 ?_ h rest
  simp [decode32, decEng, decBlk, F, G]

theorem Encoding.accz (c : Fin 4) : Encoding.Statement (.accz c) := fun h rest => by
  have F := fields_E 0x36 2 0 (octCode c) 0 0 0 (by decide) (by decide) (by decide) (octCode_lt _) (by decide) (by decide) (by decide)
  have G := flags_E 0x36 2 0 (octCode c) 0 0 0 (by decide) (by decide) (by decide) (octCode_lt _) (by decide) (by decide) (by decide)
  refine read_back_wide (w := wE 0x36 2 0 (octCode c) 0 0 0) F.1 F.2.1 ?_ h rest
  simp [decode32, decEng, decBlk, F, G]

theorem Encoding.accrd (d : Dst) (c : Fin 4) (sat : Bool) : Encoding.Statement (.accrd d c sat) := fun h rest => by
  have F := fields_E 0x37 0 0 (octCode c) d.code 0 (4 * bit sat) (by decide) (by decide) (by decide) (octCode_lt _) (dst_code_lt _) (by decide) (by have := bit_lt sat; omega)
  have G := flags_E 0x37 0 0 (octCode c) d.code 0 (4 * bit sat) (by decide) (by decide) (by decide) (octCode_lt _) (dst_code_lt _) (by decide) (by have := bit_lt sat; omega)
  refine read_back_wide (w := wE 0x37 0 0 (octCode c) d.code 0 (4 * bit sat)) F.1 F.2.1 ?_ h rest
  simp [decode32, decEng, F, G]
  cases sat <;> rfl

theorem Encoding.accwr (c : Fin 4) : Encoding.Statement (.accwr c) := fun h rest => by
  have F := fields_E 0x37 1 0 (octCode c) 0 0 0 (by decide) (by decide) (by decide) (octCode_lt _) (by decide) (by decide) (by decide)
  have G := flags_E 0x37 1 0 (octCode c) 0 0 0 (by decide) (by decide) (by decide) (octCode_lt _) (by decide) (by decide) (by decide)
  refine read_back_wide (w := wE 0x37 1 0 (octCode c) 0 0 0) F.1 F.2.1 ?_ h rest
  simp [decode32, decEng, decBlk, F, G]

theorem Encoding.wbld (c : Fin 4) : Encoding.Statement (.wbld c) := fun h rest => by
  have F := fields_E 0x37 2 0 (octCode c) 0 0 0 (by decide) (by decide) (by decide) (octCode_lt _) (by decide) (by decide) (by decide)
  have G := flags_E 0x37 2 0 (octCode c) 0 0 0 (by decide) (by decide) (by decide) (octCode_lt _) (by decide) (by decide) (by decide)
  refine read_back_wide (w := wE 0x37 2 0 (octCode c) 0 0 0) F.1 F.2.1 ?_ h rest
  simp [decode32, decEng, decBlk, F, G]

theorem Encoding.wbq (d : Dst) (c : Fin 4) : Encoding.Statement (.wbq d c) := fun h rest => by
  have F := fields_E 0x37 3 0 (octCode c) d.code 0 0 (by decide) (by decide) (by decide) (octCode_lt _) (dst_code_lt _) (by decide) (by decide)
  have G := flags_E 0x37 3 0 (octCode c) d.code 0 0 (by decide) (by decide) (by decide) (octCode_lt _) (dst_code_lt _) (by decide) (by decide)
  refine read_back_wide (w := wE 0x37 3 0 (octCode c) d.code 0 0) F.1 F.2.1 ?_ h rest
  simp [decode32, decEng, decBlkD, F, G]

theorem Encoding.tbuild (c : Fin 4) : Encoding.Statement (.tbuild c) := fun h rest => by
  have F := fields_E 0x38 0 0 (octCode c) 0 0 0 (by decide) (by decide) (by decide) (octCode_lt _) (by decide) (by decide) (by decide)
  have G := flags_E 0x38 0 0 (octCode c) 0 0 0 (by decide) (by decide) (by decide) (octCode_lt _) (by decide) (by decide) (by decide)
  refine read_back_wide (w := wE 0x38 0 0 (octCode c) 0 0 0) F.1 F.2.1 ?_ h rest
  simp [decode32, decEng, decBlk, F, G]

theorem Encoding.tlook (c : Fin 4) : Encoding.Statement (.tlook c) := fun h rest => by
  have F := fields_E 0x38 1 0 (octCode c) 0 0 0 (by decide) (by decide) (by decide) (octCode_lt _) (by decide) (by decide) (by decide)
  have G := flags_E 0x38 1 0 (octCode c) 0 0 0 (by decide) (by decide) (by decide) (octCode_lt _) (by decide) (by decide) (by decide)
  refine read_back_wide (w := wE 0x38 1 0 (octCode c) 0 0 0) F.1 F.2.1 ?_ h rest
  simp [decode32, decEng, decBlk, F, G]

theorem Encoding.tfin (c : Fin 4) (acc : Bool) : Encoding.Statement (.tfin c acc) := fun h rest => by
  have F := fields_E 0x38 2 0 (octCode c) 0 0 (4 * bit acc) (by decide) (by decide) (by decide) (octCode_lt _) (by decide) (by decide) (by have := bit_lt acc; omega)
  have G := flags_E 0x38 2 0 (octCode c) 0 0 (4 * bit acc) (by decide) (by decide) (by decide) (octCode_lt _) (by decide) (by decide) (by have := bit_lt acc; omega)
  refine read_back_wide (w := wE 0x38 2 0 (octCode c) 0 0 (4 * bit acc)) F.1 F.2.1 ?_ h rest
  simp [decode32, decEng, F, G]
  cases acc <;> rfl

theorem Encoding.tchk (d : Dst) (c : Fin 4) : Encoding.Statement (.tchk d c) := fun h rest => by
  have F := fields_E 0x38 3 0 (octCode c) d.code 0 0 (by decide) (by decide) (by decide) (octCode_lt _) (dst_code_lt _) (by decide) (by decide)
  have G := flags_E 0x38 3 0 (octCode c) d.code 0 0 (by decide) (by decide) (by decide) (octCode_lt _) (dst_code_lt _) (by decide) (by decide)
  refine read_back_wide (w := wE 0x38 3 0 (octCode c) d.code 0 0) F.1 F.2.1 ?_ h rest
  simp [decode32, decEng, decBlkD, F, G]

theorem Encoding.tspill (c : Fin 4) : Encoding.Statement (.tspill c) := fun h rest => by
  have F := fields_E 0x39 0 0 (octCode c) 0 0 0 (by decide) (by decide) (by decide) (octCode_lt _) (by decide) (by decide) (by decide)
  have G := flags_E 0x39 0 0 (octCode c) 0 0 0 (by decide) (by decide) (by decide) (octCode_lt _) (by decide) (by decide) (by decide)
  refine read_back_wide (w := wE 0x39 0 0 (octCode c) 0 0 0) F.1 F.2.1 ?_ h rest
  simp [decode32, decEng, decBlk, F, G]

theorem Encoding.tfill (c : Fin 4) : Encoding.Statement (.tfill c) := fun h rest => by
  have F := fields_E 0x39 1 0 (octCode c) 0 0 0 (by decide) (by decide) (by decide) (octCode_lt _) (by decide) (by decide) (by decide)
  have G := flags_E 0x39 1 0 (octCode c) 0 0 0 (by decide) (by decide) (by decide) (octCode_lt _) (by decide) (by decide) (by decide)
  refine read_back_wide (w := wE 0x39 1 0 (octCode c) 0 0 0) F.1 F.2.1 ?_ h rest
  simp [decode32, decEng, decBlk, F, G]

theorem Encoding.tinv (c : Fin 4) : Encoding.Statement (.tinv c) := fun h rest => by
  have F := fields_E 0x39 2 0 (octCode c) 0 0 0 (by decide) (by decide) (by decide) (octCode_lt _) (by decide) (by decide) (by decide)
  have G := flags_E 0x39 2 0 (octCode c) 0 0 0 (by decide) (by decide) (by decide) (octCode_lt _) (by decide) (by decide) (by decide)
  refine read_back_wide (w := wE 0x39 2 0 (octCode c) 0 0 0) F.1 F.2.1 ?_ h rest
  simp [decode32, decEng, decBlk, F, G]

theorem Encoding.tfence : Encoding.Statement (.tfence) := fun h rest => by
  have F := fields_T 0x3A 0 0 0 0 0 0 (by decide) (by decide) (by decide) (by decide) (by decide) (by decide) (by decide)
  have G := wide_T 0x3A 0 0 0 0 0 0 (by decide) (by decide) (by decide) (by decide) (by decide) (by decide)
  refine read_back_wide (w := wT 0x3A 0 0 0 0 0 0) F.1 F.2.1 ?_ h rest
  simp [decode32, decSys, plainT, F, G]

theorem Encoding.flgrd (d : Dst) (b : Opnd) : Encoding.Statement (.flgrd d b) := fun h rest => by
  have F := fields_T 0x3A 1 0 0 d.code 0 b.code (by decide) (by decide) (by decide) (by decide) (dst_code_lt _) (by decide) (opnd_code_lt _)
  refine read_back_wide (w := wT 0x3A 1 0 0 d.code 0 b.code) F.1 F.2.1 ?_ h rest
  simp [decode32, decSys, plainT, F]

theorem Encoding.flgwr (a : Opnd) (b : Opnd) : Encoding.Statement (.flgwr a b) := fun h rest => by
  have F := fields_T 0x3A 2 0 0 0 a.code b.code (by decide) (by decide) (by decide) (by decide) (by decide) (opnd_code_lt _) (opnd_code_lt _)
  refine read_back_wide (w := wT 0x3A 2 0 0 0 a.code b.code) F.1 F.2.1 ?_ h rest
  simp [decode32, decSys, plainT, F]

theorem Encoding.prio (a : Opnd) : Encoding.Statement (.prio a) := fun h rest => by
  have F := fields_T 0x3B 0 0 0 0 a.code 0 (by decide) (by decide) (by decide) (by decide) (by decide) (opnd_code_lt _) (by decide)
  refine read_back_wide (w := wT 0x3B 0 0 0 0 a.code 0) F.1 F.2.1 ?_ h rest
  simp [decode32, decSys, plainT, F]

theorem Encoding.regrs (d : Dst) (a : Opnd) : Encoding.Statement (.regrs d a) := fun h rest => by
  have F := fields_T 0x3B 1 0 0 d.code a.code 0 (by decide) (by decide) (by decide) (by decide) (dst_code_lt _) (opnd_code_lt _) (by decide)
  refine read_back_wide (w := wT 0x3B 1 0 0 d.code a.code 0) F.1 F.2.1 ?_ h rest
  simp [decode32, decSys, plainT, F]

theorem Encoding.yield : Encoding.Statement (.yield) := fun h rest => by
  have F := fields_T 0x3B 2 0 0 0 0 0 (by decide) (by decide) (by decide) (by decide) (by decide) (by decide) (by decide)
  have G := wide_T 0x3B 2 0 0 0 0 0 (by decide) (by decide) (by decide) (by decide) (by decide) (by decide)
  refine read_back_wide (w := wT 0x3B 2 0 0 0 0 0) F.1 F.2.1 ?_ h rest
  simp [decode32, decSys, plainT, F, G]

theorem Encoding.sleep (a : Opnd) : Encoding.Statement (.sleep a) := fun h rest => by
  have F := fields_T 0x3B 3 0 0 0 a.code 0 (by decide) (by decide) (by decide) (by decide) (by decide) (opnd_code_lt _) (by decide)
  refine read_back_wide (w := wT 0x3B 3 0 0 0 a.code 0) F.1 F.2.1 ?_ h rest
  simp [decode32, decSys, plainT, F]

theorem Encoding.csrr (d : Dst) (r : Csr) : Encoding.Statement (.csrr d r) := fun h rest => by
  have F := fields_S 0x3C 0 d.code r.code (by decide) (by decide) (dst_code_lt _) (csr_code_lt _)
  refine read_back_wide (w := wS 0x3C 0 d.code r.code) F.1 F.2.1 ?_ h rest
  simp [decode32, decSys, F]

theorem Encoding.csrw (r : Csr) (a : Opnd) : Encoding.Statement (.csrw r a) := fun h rest => by
  have F := fields_S 0x3C 1 a.code r.code (by decide) (by decide) (opnd_code_lt _) (csr_code_lt _)
  refine read_back_wide (w := wS 0x3C 1 a.code r.code) F.1 F.2.1 ?_ h rest
  simp [decode32, decSys, F]

theorem Encoding.nop : Encoding.Statement (.nop) := fun h rest => by
  have F := fields_T 0x3D 0 0 0 0 0 0 (by decide) (by decide) (by decide) (by decide) (by decide) (by decide) (by decide)
  have G := wide_T 0x3D 0 0 0 0 0 0 (by decide) (by decide) (by decide) (by decide) (by decide) (by decide)
  refine read_back_wide (w := wT 0x3D 0 0 0 0 0 0) F.1 F.2.1 ?_ h rest
  simp [decode32, decSys, plainT, F, G]

theorem Encoding.trap (code : BitVec 6) : Encoding.Statement (.trap code) := fun h rest => by
  have F := fields_T 0x3D 1 0 0 0 0 code.toNat (by decide) (by decide) (by decide) (by decide) (by decide) (by decide) (BitVec.isLt _)
  have G := wide_T 0x3D 1 0 0 0 0 code.toNat (by decide) (by decide) (by decide) (by decide) (by decide) (by decide)
  refine read_back_wide (w := wT 0x3D 1 0 0 0 0 code.toNat) F.1 F.2.1 ?_ h rest
  simp [decode32, decSys, plainT, F, G]

theorem Encoding.bkpt : Encoding.Statement (.bkpt) := fun h rest => by
  have F := fields_T 0x3D 2 0 0 0 0 0 (by decide) (by decide) (by decide) (by decide) (by decide) (by decide) (by decide)
  have G := wide_T 0x3D 2 0 0 0 0 0 (by decide) (by decide) (by decide) (by decide) (by decide) (by decide)
  refine read_back_wide (w := wT 0x3D 2 0 0 0 0 0) F.1 F.2.1 ?_ h rest
  simp [decode32, decSys, plainT, F, G]

theorem Encoding.phase : Encoding.Statement (.phase) := fun h rest => by
  have F := fields_T 0x3D 3 0 0 0 0 0 (by decide) (by decide) (by decide) (by decide) (by decide) (by decide) (by decide)
  have G := wide_T 0x3D 3 0 0 0 0 0 (by decide) (by decide) (by decide) (by decide) (by decide) (by decide)
  refine read_back_wide (w := wT 0x3D 3 0 0 0 0 0) F.1 F.2.1 ?_ h rest
  simp [decode32, decSys, plainT, F, G]

theorem Encoding.limm (imm : BitVec 25) : Encoding.Statement (.limm imm) := fun h rest => by
  have F := fields_K 0x3E imm.toNat (by decide) (BitVec.isLt _)
  refine read_back_wide (w := wK 0x3E imm.toNat) F.1 F.2.1 ?_ h rest
  simp [decode32, decSys, F]

theorem Encoding.trl (mask : BitVec 6) (s : Bool) (y : Bool) : Encoding.Statement (.trl mask s y) := fun h rest => by
  have F := fields_trl mask.toNat (bit s) (bit y) (BitVec.isLt _) (Nat.lt_of_lt_of_le (bit_lt _) (by decide)) (Nat.lt_of_lt_of_le (bit_lt _) (by decide))
  refine read_back_wide (w := wTrl mask.toNat (bit s) (bit y)) F.1 F.2.1 ?_ h rest
  simp [decode32, decSys, F]

theorem Encoding.runStart (x0 : Nat) (x1 : Nat) : Encoding.Statement (.runStart x0 x1) := fun h => nomatch h

theorem Encoding.blockedRunResume (x0 : Nat) : Encoding.Statement (.blockedRunResume x0) := fun h => nomatch h

theorem Encoding.slotReturn (x0 : Nat) (x1 : Nat) : Encoding.Statement (.slotReturn x0 x1) := fun h => nomatch h

theorem Encoding.trapDeliver (x0 : Nat) : Encoding.Statement (.trapDeliver x0) := fun h => nomatch h

theorem Encoding.faultRecordWrite (x0 : Nat) : Encoding.Statement (.faultRecordWrite x0) := fun h => nomatch h

theorem Encoding.faultRingHeadWrite (x0 : Agent) (x1 : Nat) (x2 : Word) : Encoding.Statement (.faultRingHeadWrite x0 x1 x2) := fun h => nomatch h

theorem Encoding.priorityPromote (x0 : Nat) : Encoding.Statement (.priorityPromote x0) := fun h => nomatch h

theorem Encoding.warpEnd (x0 : Nat) : Encoding.Statement (.warpEnd x0) := fun h => nomatch h

theorem Encoding.sleepExpire (x0 : Nat) : Encoding.Statement (.sleepExpire x0) := fun h => nomatch h

theorem Encoding.recordFetch (x0 : Nat) (x1 : Nat) (x2 : Nat) : Encoding.Statement (.recordFetch x0 x1 x2) := fun h => nomatch h

theorem Encoding.pageWalk (x0 : Nat) (x1 : Nat) (x2 : Nat) : Encoding.Statement (.pageWalk x0 x1 x2) := fun h => nomatch h

theorem Encoding.copyRetire (x0 : Nat) (x1 : Nat) : Encoding.Statement (.copyRetire x0 x1) := fun h => nomatch h

theorem Encoding.chainStart (x0 : Nat) (x1 : Nat) : Encoding.Statement (.chainStart x0 x1) := fun h => nomatch h

theorem Encoding.engineFaultPending (x0 : Nat) (x1 : Nat) : Encoding.Statement (.engineFaultPending x0 x1) := fun h => nomatch h

theorem Encoding.mxRetire (x0 : Nat) : Encoding.Statement (.mxRetire x0) := fun h => nomatch h

theorem Encoding.lkRetire (x0 : Nat) : Encoding.Statement (.lkRetire x0) := fun h => nomatch h

theorem Encoding.messageArrive (x0 : Nat) : Encoding.Statement (.messageArrive x0) := fun h => nomatch h

theorem Encoding.creditReturn (x0 : Nat) : Encoding.Statement (.creditReturn x0) := fun h => nomatch h

theorem Encoding.remoteHalfAccess (x0 : Nat) (x1 : Nat) (x2 : Nat) : Encoding.Statement (.remoteHalfAccess x0 x1 x2) := fun h => nomatch h

theorem Encoding.farArrival (x0 : Nat) : Encoding.Statement (.farArrival x0) := fun h => nomatch h

theorem Encoding.queueItemDeliver (x0 : Nat) (x1 : Nat) : Encoding.Statement (.queueItemDeliver x0 x1) := fun h => nomatch h

theorem Encoding.queueOrphan (x0 : Nat) (x1 : Nat) : Encoding.Statement (.queueOrphan x0 x1) := fun h => nomatch h

theorem Encoding.sliceAccess (x0 : SliceReq) : Encoding.Statement (.sliceAccess x0) := fun h => nomatch h

theorem Encoding.replicaInvalidate (x0 : Nat) (x1 : Nat) : Encoding.Statement (.replicaInvalidate x0 x1) := fun h => nomatch h

theorem Encoding.collapseComplete (x0 : Nat) : Encoding.Statement (.collapseComplete x0) := fun h => nomatch h

theorem Encoding.sliceWriteApply (x0 : Nat) (x1 : Nat) : Encoding.Statement (.sliceWriteApply x0 x1) := fun h => nomatch h

theorem Encoding.channelAccess (x0 : Nat) (x1 : ChanAct) : Encoding.Statement (.channelAccess x0 x1) := fun h => nomatch h

theorem Encoding.torusHop (x0 : HopReq) : Encoding.Statement (.torusHop x0) := fun h => nomatch h

theorem Encoding.holdingBufferRelease (x0 : Nat) (x1 : Nat) : Encoding.Statement (.holdingBufferRelease x0 x1) := fun h => nomatch h

theorem Encoding.fabricAccess (x0 : Nat) : Encoding.Statement (.fabricAccess x0) := fun h => nomatch h

theorem Encoding.opticalFlitReceive (x0 : Nat) (x1 : FlitRx) : Encoding.Statement (.opticalFlitReceive x0 x1) := fun h => nomatch h

theorem Encoding.wavelengthRetire (x0 : Nat) (x1 : Nat) (x2 : Nat) (x3 : Nat) : Encoding.Statement (.wavelengthRetire x0 x1 x2 x3) := fun h => nomatch h

theorem Encoding.wavelengthTrainDone (x0 : Nat) (x1 : Nat) (x2 : Nat) (x3 : Bool) : Encoding.Statement (.wavelengthTrainDone x0 x1 x2 x3) := fun h => nomatch h

theorem Encoding.wavelengthEnableWrite (x0 : Agent) (x1 : Nat) (x2 : Nat) (x3 : Nat) (x4 : Word) : Encoding.Statement (.wavelengthEnableWrite x0 x1 x2 x3 x4) := fun h => nomatch h

theorem Encoding.routePortWrite (x0 : Agent) (x1 : Nat) (x2 : Word) : Encoding.Statement (.routePortWrite x0 x1 x2) := fun h => nomatch h

theorem Encoding.dieMapWrite (x0 : Agent) (x1 : Word) : Encoding.Statement (.dieMapWrite x0 x1) := fun h => nomatch h

theorem Encoding.dieMapApply : Encoding.Statement (.dieMapApply) := fun h => nomatch h

theorem Encoding.setEvacuate (x0 : Agent) (x1 : Nat) (x2 : Nat) : Encoding.Statement (.setEvacuate x0 x1 x2) := fun h => nomatch h

theorem Encoding.setFail (x0 : Agent) (x1 : Nat) (x2 : Nat) : Encoding.Statement (.setFail x0 x1 x2) := fun h => nomatch h

theorem Encoding.moraineGranuleBegin (x0 : Nat) : Encoding.Statement (.moraineGranuleBegin x0) := fun h => nomatch h

theorem Encoding.moraineGranuleComplete (x0 : Nat) : Encoding.Statement (.moraineGranuleComplete x0) := fun h => nomatch h

theorem Encoding.sliceEvacuate (x0 : Agent) (x1 : Nat) : Encoding.Statement (.sliceEvacuate x0 x1) := fun h => nomatch h

theorem Encoding.sliceEntryMove : Encoding.Statement (.sliceEntryMove) := fun h => nomatch h

theorem Encoding.bankRetire (x0 : Nat) (x1 : Nat) : Encoding.Statement (.bankRetire x0 x1) := fun h => nomatch h

theorem Encoding.columnSteerRewrite (x0 : Nat) : Encoding.Statement (.columnSteerRewrite x0) := fun h => nomatch h

theorem Encoding.shootdown (x0 : Agent) (x1 : Nat) (x2 : Word) : Encoding.Statement (.shootdown x0 x1 x2) := fun h => nomatch h

theorem Encoding.shootdownComplete (x0 : Nat) : Encoding.Statement (.shootdownComplete x0) := fun h => nomatch h

theorem Encoding.launchWrite (x0 : Agent) (x1 : Nat) (x2 : Word) : Encoding.Statement (.launchWrite x0 x1 x2) := fun h => nomatch h

theorem Encoding.launchRecordRead (x0 : Nat) : Encoding.Statement (.launchRecordRead x0) := fun h => nomatch h

theorem Encoding.placementEntryApply (x0 : Nat) : Encoding.Statement (.placementEntryApply x0) := fun h => nomatch h

theorem Encoding.calveCommand (x0 : Agent) (x1 : Nat) (x2 : Nat) : Encoding.Statement (.calveCommand x0 x1 x2) := fun h => nomatch h

theorem Encoding.returnCommand (x0 : Agent) (x1 : CalvingWrite) : Encoding.Statement (.returnCommand x0 x1) := fun h => nomatch h

theorem Encoding.graceExpire (x0 : Nat) : Encoding.Statement (.graceExpire x0) := fun h => nomatch h

theorem Encoding.calveSaveDone (x0 : Nat) : Encoding.Statement (.calveSaveDone x0) := fun h => nomatch h

theorem Encoding.groupResume (x0 : Nat) (x1 : Nat) : Encoding.Statement (.groupResume x0 x1) := fun h => nomatch h

theorem Encoding.qlaneWrite (x0 : Agent) (x1 : Nat) (x2 : Nat) (x3 : Word) : Encoding.Statement (.qlaneWrite x0 x1 x2 x3) := fun h => nomatch h

theorem Encoding.qrowsWrite (x0 : Agent) (x1 : Nat) (x2 : Nat) (x3 : Word) : Encoding.Statement (.qrowsWrite x0 x1 x2 x3) := fun h => nomatch h

theorem Encoding.steeringRewriteDone (x0 : Nat) (x1 : Nat) : Encoding.Statement (.steeringRewriteDone x0 x1) := fun h => nomatch h

theorem Encoding.laneSelfCheckFail (x0 : Nat) (x1 : FailUnit) : Encoding.Statement (.laneSelfCheckFail x0 x1) := fun h => nomatch h

theorem Encoding.coreOutOfService (x0 : Nat) : Encoding.Statement (.coreOutOfService x0) := fun h => nomatch h

theorem Encoding.regrsGrant (x0 : Nat) (x1 : Nat) : Encoding.Statement (.regrsGrant x0 x1) := fun h => nomatch h

theorem Encoding.regrsDeny (x0 : Nat) (x1 : Nat) : Encoding.Statement (.regrsDeny x0 x1) := fun h => nomatch h

theorem Encoding.clusterQuiesce (x0 : Nat) : Encoding.Statement (.clusterQuiesce x0) := fun h => nomatch h

theorem Encoding.slewAdmit : Encoding.Statement (.slewAdmit) := fun h => nomatch h

theorem Encoding.grantBoundary : Encoding.Statement (.grantBoundary) := fun h => nomatch h

theorem Encoding.powerMonitorSample (x0 : Nat) : Encoding.Statement (.powerMonitorSample x0) := fun h => nomatch h

theorem Encoding.tokenPass (x0 : Nat) : Encoding.Statement (.tokenPass x0) := fun h => nomatch h

theorem Encoding.tokenTimeout (x0 : Nat) : Encoding.Statement (.tokenTimeout x0) := fun h => nomatch h

theorem Encoding.paceWrite (x0 : Agent) (x1 : Nat) (x2 : Word) : Encoding.Statement (.paceWrite x0 x1 x2) := fun h => nomatch h

theorem Encoding.paceApply (x0 : Nat) : Encoding.Statement (.paceApply x0) := fun h => nomatch h

theorem Encoding.budgetTokenSend (x0 : Nat) (x1 : Nat) : Encoding.Statement (.budgetTokenSend x0 x1) := fun h => nomatch h

theorem Encoding.budgetTokenReceive (x0 : Nat) (x1 : Nat) : Encoding.Statement (.budgetTokenReceive x0 x1) := fun h => nomatch h

theorem Encoding.supplyDroop (x0 : Nat) (x1 : Nat) : Encoding.Statement (.supplyDroop x0 x1) := fun h => nomatch h

theorem Encoding.phaseAdvance (x0 : Nat) : Encoding.Statement (.phaseAdvance x0) := fun h => nomatch h

theorem Encoding.digestCompare (x0 : Nat) (x1 : Nat) : Encoding.Statement (.digestCompare x0 x1) := fun h => nomatch h

theorem Encoding.ceTailWrite (x0 : Agent) (x1 : Nat) (x2 : Nat) (x3 : Word) : Encoding.Statement (.ceTailWrite x0 x1 x2 x3) := fun h => nomatch h

theorem Encoding.ceCommand (x0 : Nat) (x1 : Nat) : Encoding.Statement (.ceCommand x0 x1) := fun h => nomatch h

theorem Encoding.ceFault (x0 : Nat) (x1 : Nat) : Encoding.Statement (.ceFault x0 x1) := fun h => nomatch h

theorem Encoding.doorbell (x0 : Agent) (x1 : Nat) (x2 : Word) : Encoding.Statement (.doorbell x0 x1 x2) := fun h => nomatch h

theorem Encoding.resolveRetryWarp (x0 : Agent) (x1 : Nat) (x2 : Word) : Encoding.Statement (.resolveRetryWarp x0 x1 x2) := fun h => nomatch h

theorem Encoding.resolveEndCrew (x0 : Agent) (x1 : Nat) (x2 : Word) : Encoding.Statement (.resolveEndCrew x0 x1 x2) := fun h => nomatch h

theorem Encoding.resolveRetryEngine (x0 : Agent) (x1 : Nat) (x2 : Word) : Encoding.Statement (.resolveRetryEngine x0 x1 x2) := fun h => nomatch h

theorem Encoding.resolveAbandon (x0 : Agent) (x1 : Nat) (x2 : Word) : Encoding.Statement (.resolveAbandon x0 x1 x2) := fun h => nomatch h

theorem Encoding.resolveClearP (x0 : Agent) (x1 : Nat) (x2 : Word) : Encoding.Statement (.resolveClearP x0 x1 x2) := fun h => nomatch h

theorem Encoding.hostBar2Access (x0 : Nat) (x1 : Bar2Req) : Encoding.Statement (.hostBar2Access x0 x1) := fun h => nomatch h

theorem Encoding.ownerClaim (x0 : Agent) : Encoding.Statement (.ownerClaim x0) := fun h => nomatch h

theorem Encoding.ownerNameSuccessor (x0 : Agent) (x1 : Agent) : Encoding.Statement (.ownerNameSuccessor x0 x1) := fun h => nomatch h

theorem Encoding.ownerRelease (x0 : Agent) : Encoding.Statement (.ownerRelease x0) := fun h => nomatch h

theorem Encoding.handoverExpire : Encoding.Statement (.handoverExpire) := fun h => nomatch h

theorem Encoding.boot (x0 : BootIn) : Encoding.Statement (.boot x0) := fun h => nomatch h

theorem Encoding.spdmGetVersion : Encoding.Statement (.spdmGetVersion) := fun h => nomatch h

theorem Encoding.spdmGetCapabilities : Encoding.Statement (.spdmGetCapabilities) := fun h => nomatch h

theorem Encoding.spdmNegotiateAlgorithms (x0 : Nat) (x1 : Nat) : Encoding.Statement (.spdmNegotiateAlgorithms x0 x1) := fun h => nomatch h

theorem Encoding.spdmGetDigests : Encoding.Statement (.spdmGetDigests) := fun h => nomatch h

theorem Encoding.spdmGetCertificate (x0 : Nat) : Encoding.Statement (.spdmGetCertificate x0) := fun h => nomatch h

theorem Encoding.spdmChallenge (x0 : List Byte) : Encoding.Statement (.spdmChallenge x0) := fun h => nomatch h

theorem Encoding.spdmGetMeasurements (x0 : Nat) : Encoding.Statement (.spdmGetMeasurements x0) := fun h => nomatch h

theorem Encoding.memoryScrub (x0 : Nat) (x1 : Nat) (x2 : Bool) : Encoding.Statement (.memoryScrub x0 x1 x2) := fun h => nomatch h

theorem Encoding.registerWrite (x0 : Agent) (x1 : Reg) (x2 : Word) : Encoding.Statement (.registerWrite x0 x1 x2) := fun h => nomatch h

theorem Encoding.hostDmaTransfer (x0 : Nat) (x1 : Nat) (x2 : DmaReq) : Encoding.Statement (.hostDmaTransfer x0 x1 x2) := fun h => nomatch h

theorem Encoding.opticalPartnerAttach (x0 : Nat) (x1 : Bool) : Encoding.Statement (.opticalPartnerAttach x0 x1) := fun h => nomatch h

theorem Encoding.hostLinkTraining (x0 : Bool) : Encoding.Statement (.hostLinkTraining x0) := fun h => nomatch h

end Sys2Proof.Laws
end

