-- ==== Sys2Proof/Laws/State.lean ====
section
/-! SUPPORT. One lemma per field per update of the state, each by rfl, and what a part reads as after it was replaced. -/

set_option Elab.async false

namespace Sys2Proof.Laws

open Sys2Proof Sys2Proof.Machine

/-! ### setWarp -/

@[simp] theorem setWarp_turns (s : State) (k : Nat) (w : Warp) : (setWarp s k w).turns = s.turns := rfl
@[simp] theorem setWarp_cur (s : State) (k : Nat) (w : Warp) : (setWarp s k w).cur = s.cur := rfl
@[simp] theorem setWarp_time (s : State) (k : Nat) (w : Warp) : (setWarp s k w).time = s.time := rfl
@[simp] theorem setWarp_serial (s : State) (k : Nat) (w : Warp) : (setWarp s k w).serial = s.serial := rfl
@[simp] theorem setWarp_free (s : State) (k : Nat) (w : Warp) : (setWarp s k w).free = s.free := rfl
@[simp] theorem setWarp_glob (s : State) (k : Nat) (w : Warp) : (setWarp s k w).glob = s.glob := rfl
@[simp] theorem setWarp_mem (s : State) (k : Nat) (w : Warp) : (setWarp s k w).mem = s.mem := rfl
@[simp] theorem setWarp_links (s : State) (k : Nat) (w : Warp) : (setWarp s k w).links = s.links := rfl
@[simp] theorem setWarp_power (s : State) (k : Nat) (w : Warp) : (setWarp s k w).power = s.power := rfl
@[simp] theorem setWarp_cores (s : State) (k : Nat) (w : Warp) : (setWarp s k w).cores = s.cores := rfl
@[simp] theorem setWarp_scr (s : State) (k : Nat) (w : Warp) : (setWarp s k w).scr = s.scr := rfl
@[simp] theorem setWarp_scrPois (s : State) (k : Nat) (w : Warp) : (setWarp s k w).scrPois = s.scrPois := rfl
@[simp] theorem setWarp_gens (s : State) (k : Nat) (w : Warp) : (setWarp s k w).gens = s.gens := rfl
@[simp] theorem setWarp_queues (s : State) (k : Nat) (w : Warp) : (setWarp s k w).queues = s.queues := rfl
@[simp] theorem setWarp_tls (s : State) (k : Nat) (w : Warp) : (setWarp s k w).tls = s.tls := rfl
@[simp] theorem setWarp_recs (s : State) (k : Nat) (w : Warp) : (setWarp s k w).recs = s.recs := rfl
@[simp] theorem setWarp_fetches (s : State) (k : Nat) (w : Warp) : (setWarp s k w).fetches = s.fetches := rfl
@[simp] theorem setWarp_ctxs (s : State) (k : Nat) (w : Warp) : (setWarp s k w).ctxs = s.ctxs := rfl
@[simp] theorem setWarp_crews (s : State) (k : Nat) (w : Warp) : (setWarp s k w).crews = s.crews := rfl
@[simp] theorem setWarp_warps (s : State) (k : Nat) (w : Warp) : (setWarp s k w).warps = put s.warps k w := rfl
@[simp] theorem setWarp_stream (s : State) (k : Nat) (w : Warp) : (setWarp s k w).stream = s.stream := rfl
@[simp] theorem setWarp_versions (s : State) (k : Nat) (w : Warp) : (setWarp s k w).versions = s.versions := rfl

/-! ### setCrew -/

@[simp] theorem setCrew_turns (s : State) (k : Nat) (c : Crew) : (setCrew s k c).turns = s.turns := rfl
@[simp] theorem setCrew_cur (s : State) (k : Nat) (c : Crew) : (setCrew s k c).cur = s.cur := rfl
@[simp] theorem setCrew_time (s : State) (k : Nat) (c : Crew) : (setCrew s k c).time = s.time := rfl
@[simp] theorem setCrew_serial (s : State) (k : Nat) (c : Crew) : (setCrew s k c).serial = s.serial := rfl
@[simp] theorem setCrew_free (s : State) (k : Nat) (c : Crew) : (setCrew s k c).free = s.free := rfl
@[simp] theorem setCrew_glob (s : State) (k : Nat) (c : Crew) : (setCrew s k c).glob = s.glob := rfl
@[simp] theorem setCrew_mem (s : State) (k : Nat) (c : Crew) : (setCrew s k c).mem = s.mem := rfl
@[simp] theorem setCrew_links (s : State) (k : Nat) (c : Crew) : (setCrew s k c).links = s.links := rfl
@[simp] theorem setCrew_power (s : State) (k : Nat) (c : Crew) : (setCrew s k c).power = s.power := rfl
@[simp] theorem setCrew_cores (s : State) (k : Nat) (c : Crew) : (setCrew s k c).cores = s.cores := rfl
@[simp] theorem setCrew_scr (s : State) (k : Nat) (c : Crew) : (setCrew s k c).scr = s.scr := rfl
@[simp] theorem setCrew_scrPois (s : State) (k : Nat) (c : Crew) : (setCrew s k c).scrPois = s.scrPois := rfl
@[simp] theorem setCrew_gens (s : State) (k : Nat) (c : Crew) : (setCrew s k c).gens = s.gens := rfl
@[simp] theorem setCrew_queues (s : State) (k : Nat) (c : Crew) : (setCrew s k c).queues = s.queues := rfl
@[simp] theorem setCrew_tls (s : State) (k : Nat) (c : Crew) : (setCrew s k c).tls = s.tls := rfl
@[simp] theorem setCrew_recs (s : State) (k : Nat) (c : Crew) : (setCrew s k c).recs = s.recs := rfl
@[simp] theorem setCrew_fetches (s : State) (k : Nat) (c : Crew) : (setCrew s k c).fetches = s.fetches := rfl
@[simp] theorem setCrew_ctxs (s : State) (k : Nat) (c : Crew) : (setCrew s k c).ctxs = s.ctxs := rfl
@[simp] theorem setCrew_crews (s : State) (k : Nat) (c : Crew) : (setCrew s k c).crews = put s.crews k c := rfl
@[simp] theorem setCrew_warps (s : State) (k : Nat) (c : Crew) : (setCrew s k c).warps = s.warps := rfl
@[simp] theorem setCrew_stream (s : State) (k : Nat) (c : Crew) : (setCrew s k c).stream = s.stream := rfl
@[simp] theorem setCrew_versions (s : State) (k : Nat) (c : Crew) : (setCrew s k c).versions = s.versions := rfl

/-! ### setCtx -/

@[simp] theorem setCtx_turns (s : State) (c : Nat) (x : Ctx) : (setCtx s c x).turns = s.turns := rfl
@[simp] theorem setCtx_cur (s : State) (c : Nat) (x : Ctx) : (setCtx s c x).cur = s.cur := rfl
@[simp] theorem setCtx_time (s : State) (c : Nat) (x : Ctx) : (setCtx s c x).time = s.time := rfl
@[simp] theorem setCtx_serial (s : State) (c : Nat) (x : Ctx) : (setCtx s c x).serial = s.serial := rfl
@[simp] theorem setCtx_free (s : State) (c : Nat) (x : Ctx) : (setCtx s c x).free = s.free := rfl
@[simp] theorem setCtx_glob (s : State) (c : Nat) (x : Ctx) : (setCtx s c x).glob = s.glob := rfl
@[simp] theorem setCtx_mem (s : State) (c : Nat) (x : Ctx) : (setCtx s c x).mem = s.mem := rfl
@[simp] theorem setCtx_links (s : State) (c : Nat) (x : Ctx) : (setCtx s c x).links = s.links := rfl
@[simp] theorem setCtx_power (s : State) (c : Nat) (x : Ctx) : (setCtx s c x).power = s.power := rfl
@[simp] theorem setCtx_cores (s : State) (c : Nat) (x : Ctx) : (setCtx s c x).cores = s.cores := rfl
@[simp] theorem setCtx_scr (s : State) (c : Nat) (x : Ctx) : (setCtx s c x).scr = s.scr := rfl
@[simp] theorem setCtx_scrPois (s : State) (c : Nat) (x : Ctx) : (setCtx s c x).scrPois = s.scrPois := rfl
@[simp] theorem setCtx_gens (s : State) (c : Nat) (x : Ctx) : (setCtx s c x).gens = s.gens := rfl
@[simp] theorem setCtx_queues (s : State) (c : Nat) (x : Ctx) : (setCtx s c x).queues = s.queues := rfl
@[simp] theorem setCtx_tls (s : State) (c : Nat) (x : Ctx) : (setCtx s c x).tls = s.tls := rfl
@[simp] theorem setCtx_recs (s : State) (c : Nat) (x : Ctx) : (setCtx s c x).recs = s.recs := rfl
@[simp] theorem setCtx_fetches (s : State) (c : Nat) (x : Ctx) : (setCtx s c x).fetches = s.fetches := rfl
@[simp] theorem setCtx_ctxs (s : State) (c : Nat) (x : Ctx) : (setCtx s c x).ctxs = putD s.ctxs c Ctx.init x := rfl
@[simp] theorem setCtx_crews (s : State) (c : Nat) (x : Ctx) : (setCtx s c x).crews = s.crews := rfl
@[simp] theorem setCtx_warps (s : State) (c : Nat) (x : Ctx) : (setCtx s c x).warps = s.warps := rfl
@[simp] theorem setCtx_stream (s : State) (c : Nat) (x : Ctx) : (setCtx s c x).stream = s.stream := rfl
@[simp] theorem setCtx_versions (s : State) (c : Nat) (x : Ctx) : (setCtx s c x).versions = s.versions := rfl

/-! ### modCtx -/

@[simp] theorem modCtx_turns (s : State) (c : Nat) (f : Ctx → Ctx) : (modCtx s c f).turns = s.turns := rfl
@[simp] theorem modCtx_cur (s : State) (c : Nat) (f : Ctx → Ctx) : (modCtx s c f).cur = s.cur := rfl
@[simp] theorem modCtx_time (s : State) (c : Nat) (f : Ctx → Ctx) : (modCtx s c f).time = s.time := rfl
@[simp] theorem modCtx_serial (s : State) (c : Nat) (f : Ctx → Ctx) : (modCtx s c f).serial = s.serial := rfl
@[simp] theorem modCtx_free (s : State) (c : Nat) (f : Ctx → Ctx) : (modCtx s c f).free = s.free := rfl
@[simp] theorem modCtx_glob (s : State) (c : Nat) (f : Ctx → Ctx) : (modCtx s c f).glob = s.glob := rfl
@[simp] theorem modCtx_mem (s : State) (c : Nat) (f : Ctx → Ctx) : (modCtx s c f).mem = s.mem := rfl
@[simp] theorem modCtx_links (s : State) (c : Nat) (f : Ctx → Ctx) : (modCtx s c f).links = s.links := rfl
@[simp] theorem modCtx_power (s : State) (c : Nat) (f : Ctx → Ctx) : (modCtx s c f).power = s.power := rfl
@[simp] theorem modCtx_cores (s : State) (c : Nat) (f : Ctx → Ctx) : (modCtx s c f).cores = s.cores := rfl
@[simp] theorem modCtx_scr (s : State) (c : Nat) (f : Ctx → Ctx) : (modCtx s c f).scr = s.scr := rfl
@[simp] theorem modCtx_scrPois (s : State) (c : Nat) (f : Ctx → Ctx) : (modCtx s c f).scrPois = s.scrPois := rfl
@[simp] theorem modCtx_gens (s : State) (c : Nat) (f : Ctx → Ctx) : (modCtx s c f).gens = s.gens := rfl
@[simp] theorem modCtx_queues (s : State) (c : Nat) (f : Ctx → Ctx) : (modCtx s c f).queues = s.queues := rfl
@[simp] theorem modCtx_tls (s : State) (c : Nat) (f : Ctx → Ctx) : (modCtx s c f).tls = s.tls := rfl
@[simp] theorem modCtx_recs (s : State) (c : Nat) (f : Ctx → Ctx) : (modCtx s c f).recs = s.recs := rfl
@[simp] theorem modCtx_fetches (s : State) (c : Nat) (f : Ctx → Ctx) : (modCtx s c f).fetches = s.fetches := rfl
@[simp] theorem modCtx_ctxs (s : State) (c : Nat) (f : Ctx → Ctx) : (modCtx s c f).ctxs = putD s.ctxs c Ctx.init (f (ctxAt s c)) := rfl
@[simp] theorem modCtx_crews (s : State) (c : Nat) (f : Ctx → Ctx) : (modCtx s c f).crews = s.crews := rfl
@[simp] theorem modCtx_warps (s : State) (c : Nat) (f : Ctx → Ctx) : (modCtx s c f).warps = s.warps := rfl
@[simp] theorem modCtx_stream (s : State) (c : Nat) (f : Ctx → Ctx) : (modCtx s c f).stream = s.stream := rfl
@[simp] theorem modCtx_versions (s : State) (c : Nat) (f : Ctx → Ctx) : (modCtx s c f).versions = s.versions := rfl

/-! ### setCore -/

@[simp] theorem setCore_turns (s : State) (n : Nat) (c : Core) : (setCore s n c).turns = s.turns := rfl
@[simp] theorem setCore_cur (s : State) (n : Nat) (c : Core) : (setCore s n c).cur = s.cur := rfl
@[simp] theorem setCore_time (s : State) (n : Nat) (c : Core) : (setCore s n c).time = s.time := rfl
@[simp] theorem setCore_serial (s : State) (n : Nat) (c : Core) : (setCore s n c).serial = s.serial := rfl
@[simp] theorem setCore_free (s : State) (n : Nat) (c : Core) : (setCore s n c).free = s.free := rfl
@[simp] theorem setCore_glob (s : State) (n : Nat) (c : Core) : (setCore s n c).glob = s.glob := rfl
@[simp] theorem setCore_mem (s : State) (n : Nat) (c : Core) : (setCore s n c).mem = s.mem := rfl
@[simp] theorem setCore_links (s : State) (n : Nat) (c : Core) : (setCore s n c).links = s.links := rfl
@[simp] theorem setCore_power (s : State) (n : Nat) (c : Core) : (setCore s n c).power = s.power := rfl
@[simp] theorem setCore_cores (s : State) (n : Nat) (c : Core) : (setCore s n c).cores = putD s.cores n Core.init c := rfl
@[simp] theorem setCore_scr (s : State) (n : Nat) (c : Core) : (setCore s n c).scr = s.scr := rfl
@[simp] theorem setCore_scrPois (s : State) (n : Nat) (c : Core) : (setCore s n c).scrPois = s.scrPois := rfl
@[simp] theorem setCore_gens (s : State) (n : Nat) (c : Core) : (setCore s n c).gens = s.gens := rfl
@[simp] theorem setCore_queues (s : State) (n : Nat) (c : Core) : (setCore s n c).queues = s.queues := rfl
@[simp] theorem setCore_tls (s : State) (n : Nat) (c : Core) : (setCore s n c).tls = s.tls := rfl
@[simp] theorem setCore_recs (s : State) (n : Nat) (c : Core) : (setCore s n c).recs = s.recs := rfl
@[simp] theorem setCore_fetches (s : State) (n : Nat) (c : Core) : (setCore s n c).fetches = s.fetches := rfl
@[simp] theorem setCore_ctxs (s : State) (n : Nat) (c : Core) : (setCore s n c).ctxs = s.ctxs := rfl
@[simp] theorem setCore_crews (s : State) (n : Nat) (c : Core) : (setCore s n c).crews = s.crews := rfl
@[simp] theorem setCore_warps (s : State) (n : Nat) (c : Core) : (setCore s n c).warps = s.warps := rfl
@[simp] theorem setCore_stream (s : State) (n : Nat) (c : Core) : (setCore s n c).stream = s.stream := rfl
@[simp] theorem setCore_versions (s : State) (n : Nat) (c : Core) : (setCore s n c).versions = s.versions := rfl

/-! ### modCore -/

@[simp] theorem modCore_turns (s : State) (n : Nat) (f : Core → Core) : (modCore s n f).turns = s.turns := rfl
@[simp] theorem modCore_cur (s : State) (n : Nat) (f : Core → Core) : (modCore s n f).cur = s.cur := rfl
@[simp] theorem modCore_time (s : State) (n : Nat) (f : Core → Core) : (modCore s n f).time = s.time := rfl
@[simp] theorem modCore_serial (s : State) (n : Nat) (f : Core → Core) : (modCore s n f).serial = s.serial := rfl
@[simp] theorem modCore_free (s : State) (n : Nat) (f : Core → Core) : (modCore s n f).free = s.free := rfl
@[simp] theorem modCore_glob (s : State) (n : Nat) (f : Core → Core) : (modCore s n f).glob = s.glob := rfl
@[simp] theorem modCore_mem (s : State) (n : Nat) (f : Core → Core) : (modCore s n f).mem = s.mem := rfl
@[simp] theorem modCore_links (s : State) (n : Nat) (f : Core → Core) : (modCore s n f).links = s.links := rfl
@[simp] theorem modCore_power (s : State) (n : Nat) (f : Core → Core) : (modCore s n f).power = s.power := rfl
@[simp] theorem modCore_cores (s : State) (n : Nat) (f : Core → Core) : (modCore s n f).cores = putD s.cores n Core.init (f (coreAt s n)) := rfl
@[simp] theorem modCore_scr (s : State) (n : Nat) (f : Core → Core) : (modCore s n f).scr = s.scr := rfl
@[simp] theorem modCore_scrPois (s : State) (n : Nat) (f : Core → Core) : (modCore s n f).scrPois = s.scrPois := rfl
@[simp] theorem modCore_gens (s : State) (n : Nat) (f : Core → Core) : (modCore s n f).gens = s.gens := rfl
@[simp] theorem modCore_queues (s : State) (n : Nat) (f : Core → Core) : (modCore s n f).queues = s.queues := rfl
@[simp] theorem modCore_tls (s : State) (n : Nat) (f : Core → Core) : (modCore s n f).tls = s.tls := rfl
@[simp] theorem modCore_recs (s : State) (n : Nat) (f : Core → Core) : (modCore s n f).recs = s.recs := rfl
@[simp] theorem modCore_fetches (s : State) (n : Nat) (f : Core → Core) : (modCore s n f).fetches = s.fetches := rfl
@[simp] theorem modCore_ctxs (s : State) (n : Nat) (f : Core → Core) : (modCore s n f).ctxs = s.ctxs := rfl
@[simp] theorem modCore_crews (s : State) (n : Nat) (f : Core → Core) : (modCore s n f).crews = s.crews := rfl
@[simp] theorem modCore_warps (s : State) (n : Nat) (f : Core → Core) : (modCore s n f).warps = s.warps := rfl
@[simp] theorem modCore_stream (s : State) (n : Nat) (f : Core → Core) : (modCore s n f).stream = s.stream := rfl
@[simp] theorem modCore_versions (s : State) (n : Nat) (f : Core → Core) : (modCore s n f).versions = s.versions := rfl

/-! ### modCluster -/

@[simp] theorem modCluster_turns (s : State) (c : Nat) (f : Cluster → Cluster) : (modCluster s c f).turns = s.turns := rfl
@[simp] theorem modCluster_cur (s : State) (c : Nat) (f : Cluster → Cluster) : (modCluster s c f).cur = s.cur := rfl
@[simp] theorem modCluster_time (s : State) (c : Nat) (f : Cluster → Cluster) : (modCluster s c f).time = s.time := rfl
@[simp] theorem modCluster_serial (s : State) (c : Nat) (f : Cluster → Cluster) : (modCluster s c f).serial = s.serial := rfl
@[simp] theorem modCluster_free (s : State) (c : Nat) (f : Cluster → Cluster) : (modCluster s c f).free = s.free := rfl
@[simp] theorem modCluster_glob (s : State) (c : Nat) (f : Cluster → Cluster) : (modCluster s c f).glob = s.glob := rfl
@[simp] theorem modCluster_mem (s : State) (c : Nat) (f : Cluster → Cluster) : (modCluster s c f).mem = s.mem := rfl
@[simp] theorem modCluster_links (s : State) (c : Nat) (f : Cluster → Cluster) : (modCluster s c f).links = s.links := rfl
@[simp] theorem modCluster_power (s : State) (c : Nat) (f : Cluster → Cluster) : (modCluster s c f).power = { s.power with clusters := modAt s.power.clusters c f } := rfl
@[simp] theorem modCluster_cores (s : State) (c : Nat) (f : Cluster → Cluster) : (modCluster s c f).cores = s.cores := rfl
@[simp] theorem modCluster_scr (s : State) (c : Nat) (f : Cluster → Cluster) : (modCluster s c f).scr = s.scr := rfl
@[simp] theorem modCluster_scrPois (s : State) (c : Nat) (f : Cluster → Cluster) : (modCluster s c f).scrPois = s.scrPois := rfl
@[simp] theorem modCluster_gens (s : State) (c : Nat) (f : Cluster → Cluster) : (modCluster s c f).gens = s.gens := rfl
@[simp] theorem modCluster_queues (s : State) (c : Nat) (f : Cluster → Cluster) : (modCluster s c f).queues = s.queues := rfl
@[simp] theorem modCluster_tls (s : State) (c : Nat) (f : Cluster → Cluster) : (modCluster s c f).tls = s.tls := rfl
@[simp] theorem modCluster_recs (s : State) (c : Nat) (f : Cluster → Cluster) : (modCluster s c f).recs = s.recs := rfl
@[simp] theorem modCluster_fetches (s : State) (c : Nat) (f : Cluster → Cluster) : (modCluster s c f).fetches = s.fetches := rfl
@[simp] theorem modCluster_ctxs (s : State) (c : Nat) (f : Cluster → Cluster) : (modCluster s c f).ctxs = s.ctxs := rfl
@[simp] theorem modCluster_crews (s : State) (c : Nat) (f : Cluster → Cluster) : (modCluster s c f).crews = s.crews := rfl
@[simp] theorem modCluster_warps (s : State) (c : Nat) (f : Cluster → Cluster) : (modCluster s c f).warps = s.warps := rfl
@[simp] theorem modCluster_stream (s : State) (c : Nat) (f : Cluster → Cluster) : (modCluster s c f).stream = s.stream := rfl
@[simp] theorem modCluster_versions (s : State) (c : Nat) (f : Cluster → Cluster) : (modCluster s c f).versions = s.versions := rfl

/-! ### setTimeline -/

@[simp] theorem setTimeline_turns (s : State) (k : Nat) (t : Timeline) : (setTimeline s k t).turns = s.turns := rfl
@[simp] theorem setTimeline_cur (s : State) (k : Nat) (t : Timeline) : (setTimeline s k t).cur = s.cur := rfl
@[simp] theorem setTimeline_time (s : State) (k : Nat) (t : Timeline) : (setTimeline s k t).time = s.time := rfl
@[simp] theorem setTimeline_serial (s : State) (k : Nat) (t : Timeline) : (setTimeline s k t).serial = s.serial := rfl
@[simp] theorem setTimeline_free (s : State) (k : Nat) (t : Timeline) : (setTimeline s k t).free = s.free := rfl
@[simp] theorem setTimeline_glob (s : State) (k : Nat) (t : Timeline) : (setTimeline s k t).glob = s.glob := rfl
@[simp] theorem setTimeline_mem (s : State) (k : Nat) (t : Timeline) : (setTimeline s k t).mem = s.mem := rfl
@[simp] theorem setTimeline_links (s : State) (k : Nat) (t : Timeline) : (setTimeline s k t).links = s.links := rfl
@[simp] theorem setTimeline_power (s : State) (k : Nat) (t : Timeline) : (setTimeline s k t).power = s.power := rfl
@[simp] theorem setTimeline_cores (s : State) (k : Nat) (t : Timeline) : (setTimeline s k t).cores = s.cores := rfl
@[simp] theorem setTimeline_scr (s : State) (k : Nat) (t : Timeline) : (setTimeline s k t).scr = s.scr := rfl
@[simp] theorem setTimeline_scrPois (s : State) (k : Nat) (t : Timeline) : (setTimeline s k t).scrPois = s.scrPois := rfl
@[simp] theorem setTimeline_gens (s : State) (k : Nat) (t : Timeline) : (setTimeline s k t).gens = s.gens := rfl
@[simp] theorem setTimeline_queues (s : State) (k : Nat) (t : Timeline) : (setTimeline s k t).queues = s.queues := rfl
@[simp] theorem setTimeline_tls (s : State) (k : Nat) (t : Timeline) : (setTimeline s k t).tls = putD s.tls k Timeline.init t := rfl
@[simp] theorem setTimeline_recs (s : State) (k : Nat) (t : Timeline) : (setTimeline s k t).recs = s.recs := rfl
@[simp] theorem setTimeline_fetches (s : State) (k : Nat) (t : Timeline) : (setTimeline s k t).fetches = s.fetches := rfl
@[simp] theorem setTimeline_ctxs (s : State) (k : Nat) (t : Timeline) : (setTimeline s k t).ctxs = s.ctxs := rfl
@[simp] theorem setTimeline_crews (s : State) (k : Nat) (t : Timeline) : (setTimeline s k t).crews = s.crews := rfl
@[simp] theorem setTimeline_warps (s : State) (k : Nat) (t : Timeline) : (setTimeline s k t).warps = s.warps := rfl
@[simp] theorem setTimeline_stream (s : State) (k : Nat) (t : Timeline) : (setTimeline s k t).stream = s.stream := rfl
@[simp] theorem setTimeline_versions (s : State) (k : Nat) (t : Timeline) : (setTimeline s k t).versions = s.versions := rfl

/-! ### setQueue -/

@[simp] theorem setQueue_turns (s : State) (k : Nat) (q : List Cmd) : (setQueue s k q).turns = s.turns := rfl
@[simp] theorem setQueue_cur (s : State) (k : Nat) (q : List Cmd) : (setQueue s k q).cur = s.cur := rfl
@[simp] theorem setQueue_time (s : State) (k : Nat) (q : List Cmd) : (setQueue s k q).time = s.time := rfl
@[simp] theorem setQueue_serial (s : State) (k : Nat) (q : List Cmd) : (setQueue s k q).serial = s.serial := rfl
@[simp] theorem setQueue_free (s : State) (k : Nat) (q : List Cmd) : (setQueue s k q).free = s.free := rfl
@[simp] theorem setQueue_glob (s : State) (k : Nat) (q : List Cmd) : (setQueue s k q).glob = s.glob := rfl
@[simp] theorem setQueue_mem (s : State) (k : Nat) (q : List Cmd) : (setQueue s k q).mem = s.mem := rfl
@[simp] theorem setQueue_links (s : State) (k : Nat) (q : List Cmd) : (setQueue s k q).links = s.links := rfl
@[simp] theorem setQueue_power (s : State) (k : Nat) (q : List Cmd) : (setQueue s k q).power = s.power := rfl
@[simp] theorem setQueue_cores (s : State) (k : Nat) (q : List Cmd) : (setQueue s k q).cores = s.cores := rfl
@[simp] theorem setQueue_scr (s : State) (k : Nat) (q : List Cmd) : (setQueue s k q).scr = s.scr := rfl
@[simp] theorem setQueue_scrPois (s : State) (k : Nat) (q : List Cmd) : (setQueue s k q).scrPois = s.scrPois := rfl
@[simp] theorem setQueue_gens (s : State) (k : Nat) (q : List Cmd) : (setQueue s k q).gens = s.gens := rfl
@[simp] theorem setQueue_queues (s : State) (k : Nat) (q : List Cmd) : (setQueue s k q).queues = putD s.queues k [] q := rfl
@[simp] theorem setQueue_tls (s : State) (k : Nat) (q : List Cmd) : (setQueue s k q).tls = s.tls := rfl
@[simp] theorem setQueue_recs (s : State) (k : Nat) (q : List Cmd) : (setQueue s k q).recs = s.recs := rfl
@[simp] theorem setQueue_fetches (s : State) (k : Nat) (q : List Cmd) : (setQueue s k q).fetches = s.fetches := rfl
@[simp] theorem setQueue_ctxs (s : State) (k : Nat) (q : List Cmd) : (setQueue s k q).ctxs = s.ctxs := rfl
@[simp] theorem setQueue_crews (s : State) (k : Nat) (q : List Cmd) : (setQueue s k q).crews = s.crews := rfl
@[simp] theorem setQueue_warps (s : State) (k : Nat) (q : List Cmd) : (setQueue s k q).warps = s.warps := rfl
@[simp] theorem setQueue_stream (s : State) (k : Nat) (q : List Cmd) : (setQueue s k q).stream = s.stream := rfl
@[simp] theorem setQueue_versions (s : State) (k : Nat) (q : List Cmd) : (setQueue s k q).versions = s.versions := rfl

/-! ### modGlob -/

@[simp] theorem modGlob_turns (s : State) (f : Glob → Glob) : (modGlob s f).turns = s.turns := rfl
@[simp] theorem modGlob_cur (s : State) (f : Glob → Glob) : (modGlob s f).cur = s.cur := rfl
@[simp] theorem modGlob_time (s : State) (f : Glob → Glob) : (modGlob s f).time = s.time := rfl
@[simp] theorem modGlob_serial (s : State) (f : Glob → Glob) : (modGlob s f).serial = s.serial := rfl
@[simp] theorem modGlob_free (s : State) (f : Glob → Glob) : (modGlob s f).free = s.free := rfl
@[simp] theorem modGlob_glob (s : State) (f : Glob → Glob) : (modGlob s f).glob = f s.glob := rfl
@[simp] theorem modGlob_mem (s : State) (f : Glob → Glob) : (modGlob s f).mem = s.mem := rfl
@[simp] theorem modGlob_links (s : State) (f : Glob → Glob) : (modGlob s f).links = s.links := rfl
@[simp] theorem modGlob_power (s : State) (f : Glob → Glob) : (modGlob s f).power = s.power := rfl
@[simp] theorem modGlob_cores (s : State) (f : Glob → Glob) : (modGlob s f).cores = s.cores := rfl
@[simp] theorem modGlob_scr (s : State) (f : Glob → Glob) : (modGlob s f).scr = s.scr := rfl
@[simp] theorem modGlob_scrPois (s : State) (f : Glob → Glob) : (modGlob s f).scrPois = s.scrPois := rfl
@[simp] theorem modGlob_gens (s : State) (f : Glob → Glob) : (modGlob s f).gens = s.gens := rfl
@[simp] theorem modGlob_queues (s : State) (f : Glob → Glob) : (modGlob s f).queues = s.queues := rfl
@[simp] theorem modGlob_tls (s : State) (f : Glob → Glob) : (modGlob s f).tls = s.tls := rfl
@[simp] theorem modGlob_recs (s : State) (f : Glob → Glob) : (modGlob s f).recs = s.recs := rfl
@[simp] theorem modGlob_fetches (s : State) (f : Glob → Glob) : (modGlob s f).fetches = s.fetches := rfl
@[simp] theorem modGlob_ctxs (s : State) (f : Glob → Glob) : (modGlob s f).ctxs = s.ctxs := rfl
@[simp] theorem modGlob_crews (s : State) (f : Glob → Glob) : (modGlob s f).crews = s.crews := rfl
@[simp] theorem modGlob_warps (s : State) (f : Glob → Glob) : (modGlob s f).warps = s.warps := rfl
@[simp] theorem modGlob_stream (s : State) (f : Glob → Glob) : (modGlob s f).stream = s.stream := rfl
@[simp] theorem modGlob_versions (s : State) (f : Glob → Glob) : (modGlob s f).versions = s.versions := rfl

/-! ### modMem -/

@[simp] theorem modMem_turns (s : State) (f : Mem → Mem) : (modMem s f).turns = s.turns := rfl
@[simp] theorem modMem_cur (s : State) (f : Mem → Mem) : (modMem s f).cur = s.cur := rfl
@[simp] theorem modMem_time (s : State) (f : Mem → Mem) : (modMem s f).time = s.time := rfl
@[simp] theorem modMem_serial (s : State) (f : Mem → Mem) : (modMem s f).serial = s.serial := rfl
@[simp] theorem modMem_free (s : State) (f : Mem → Mem) : (modMem s f).free = s.free := rfl
@[simp] theorem modMem_glob (s : State) (f : Mem → Mem) : (modMem s f).glob = s.glob := rfl
@[simp] theorem modMem_mem (s : State) (f : Mem → Mem) : (modMem s f).mem = f s.mem := rfl
@[simp] theorem modMem_links (s : State) (f : Mem → Mem) : (modMem s f).links = s.links := rfl
@[simp] theorem modMem_power (s : State) (f : Mem → Mem) : (modMem s f).power = s.power := rfl
@[simp] theorem modMem_cores (s : State) (f : Mem → Mem) : (modMem s f).cores = s.cores := rfl
@[simp] theorem modMem_scr (s : State) (f : Mem → Mem) : (modMem s f).scr = s.scr := rfl
@[simp] theorem modMem_scrPois (s : State) (f : Mem → Mem) : (modMem s f).scrPois = s.scrPois := rfl
@[simp] theorem modMem_gens (s : State) (f : Mem → Mem) : (modMem s f).gens = s.gens := rfl
@[simp] theorem modMem_queues (s : State) (f : Mem → Mem) : (modMem s f).queues = s.queues := rfl
@[simp] theorem modMem_tls (s : State) (f : Mem → Mem) : (modMem s f).tls = s.tls := rfl
@[simp] theorem modMem_recs (s : State) (f : Mem → Mem) : (modMem s f).recs = s.recs := rfl
@[simp] theorem modMem_fetches (s : State) (f : Mem → Mem) : (modMem s f).fetches = s.fetches := rfl
@[simp] theorem modMem_ctxs (s : State) (f : Mem → Mem) : (modMem s f).ctxs = s.ctxs := rfl
@[simp] theorem modMem_crews (s : State) (f : Mem → Mem) : (modMem s f).crews = s.crews := rfl
@[simp] theorem modMem_warps (s : State) (f : Mem → Mem) : (modMem s f).warps = s.warps := rfl
@[simp] theorem modMem_stream (s : State) (f : Mem → Mem) : (modMem s f).stream = s.stream := rfl
@[simp] theorem modMem_versions (s : State) (f : Mem → Mem) : (modMem s f).versions = s.versions := rfl

/-! ### modLinks -/

@[simp] theorem modLinks_turns (s : State) (f : Links → Links) : (modLinks s f).turns = s.turns := rfl
@[simp] theorem modLinks_cur (s : State) (f : Links → Links) : (modLinks s f).cur = s.cur := rfl
@[simp] theorem modLinks_time (s : State) (f : Links → Links) : (modLinks s f).time = s.time := rfl
@[simp] theorem modLinks_serial (s : State) (f : Links → Links) : (modLinks s f).serial = s.serial := rfl
@[simp] theorem modLinks_free (s : State) (f : Links → Links) : (modLinks s f).free = s.free := rfl
@[simp] theorem modLinks_glob (s : State) (f : Links → Links) : (modLinks s f).glob = s.glob := rfl
@[simp] theorem modLinks_mem (s : State) (f : Links → Links) : (modLinks s f).mem = s.mem := rfl
@[simp] theorem modLinks_links (s : State) (f : Links → Links) : (modLinks s f).links = f s.links := rfl
@[simp] theorem modLinks_power (s : State) (f : Links → Links) : (modLinks s f).power = s.power := rfl
@[simp] theorem modLinks_cores (s : State) (f : Links → Links) : (modLinks s f).cores = s.cores := rfl
@[simp] theorem modLinks_scr (s : State) (f : Links → Links) : (modLinks s f).scr = s.scr := rfl
@[simp] theorem modLinks_scrPois (s : State) (f : Links → Links) : (modLinks s f).scrPois = s.scrPois := rfl
@[simp] theorem modLinks_gens (s : State) (f : Links → Links) : (modLinks s f).gens = s.gens := rfl
@[simp] theorem modLinks_queues (s : State) (f : Links → Links) : (modLinks s f).queues = s.queues := rfl
@[simp] theorem modLinks_tls (s : State) (f : Links → Links) : (modLinks s f).tls = s.tls := rfl
@[simp] theorem modLinks_recs (s : State) (f : Links → Links) : (modLinks s f).recs = s.recs := rfl
@[simp] theorem modLinks_fetches (s : State) (f : Links → Links) : (modLinks s f).fetches = s.fetches := rfl
@[simp] theorem modLinks_ctxs (s : State) (f : Links → Links) : (modLinks s f).ctxs = s.ctxs := rfl
@[simp] theorem modLinks_crews (s : State) (f : Links → Links) : (modLinks s f).crews = s.crews := rfl
@[simp] theorem modLinks_warps (s : State) (f : Links → Links) : (modLinks s f).warps = s.warps := rfl
@[simp] theorem modLinks_stream (s : State) (f : Links → Links) : (modLinks s f).stream = s.stream := rfl
@[simp] theorem modLinks_versions (s : State) (f : Links → Links) : (modLinks s f).versions = s.versions := rfl

/-! ### modPower -/

@[simp] theorem modPower_turns (s : State) (f : Power → Power) : (modPower s f).turns = s.turns := rfl
@[simp] theorem modPower_cur (s : State) (f : Power → Power) : (modPower s f).cur = s.cur := rfl
@[simp] theorem modPower_time (s : State) (f : Power → Power) : (modPower s f).time = s.time := rfl
@[simp] theorem modPower_serial (s : State) (f : Power → Power) : (modPower s f).serial = s.serial := rfl
@[simp] theorem modPower_free (s : State) (f : Power → Power) : (modPower s f).free = s.free := rfl
@[simp] theorem modPower_glob (s : State) (f : Power → Power) : (modPower s f).glob = s.glob := rfl
@[simp] theorem modPower_mem (s : State) (f : Power → Power) : (modPower s f).mem = s.mem := rfl
@[simp] theorem modPower_links (s : State) (f : Power → Power) : (modPower s f).links = s.links := rfl
@[simp] theorem modPower_power (s : State) (f : Power → Power) : (modPower s f).power = f s.power := rfl
@[simp] theorem modPower_cores (s : State) (f : Power → Power) : (modPower s f).cores = s.cores := rfl
@[simp] theorem modPower_scr (s : State) (f : Power → Power) : (modPower s f).scr = s.scr := rfl
@[simp] theorem modPower_scrPois (s : State) (f : Power → Power) : (modPower s f).scrPois = s.scrPois := rfl
@[simp] theorem modPower_gens (s : State) (f : Power → Power) : (modPower s f).gens = s.gens := rfl
@[simp] theorem modPower_queues (s : State) (f : Power → Power) : (modPower s f).queues = s.queues := rfl
@[simp] theorem modPower_tls (s : State) (f : Power → Power) : (modPower s f).tls = s.tls := rfl
@[simp] theorem modPower_recs (s : State) (f : Power → Power) : (modPower s f).recs = s.recs := rfl
@[simp] theorem modPower_fetches (s : State) (f : Power → Power) : (modPower s f).fetches = s.fetches := rfl
@[simp] theorem modPower_ctxs (s : State) (f : Power → Power) : (modPower s f).ctxs = s.ctxs := rfl
@[simp] theorem modPower_crews (s : State) (f : Power → Power) : (modPower s f).crews = s.crews := rfl
@[simp] theorem modPower_warps (s : State) (f : Power → Power) : (modPower s f).warps = s.warps := rfl
@[simp] theorem modPower_stream (s : State) (f : Power → Power) : (modPower s f).stream = s.stream := rfl
@[simp] theorem modPower_versions (s : State) (f : Power → Power) : (modPower s f).versions = s.versions := rfl

/-! ### setPort -/

@[simp] theorem setPort_turns (s : State) (p : Nat) (x : Port) : (setPort s p x).turns = s.turns := rfl
@[simp] theorem setPort_cur (s : State) (p : Nat) (x : Port) : (setPort s p x).cur = s.cur := rfl
@[simp] theorem setPort_time (s : State) (p : Nat) (x : Port) : (setPort s p x).time = s.time := rfl
@[simp] theorem setPort_serial (s : State) (p : Nat) (x : Port) : (setPort s p x).serial = s.serial := rfl
@[simp] theorem setPort_free (s : State) (p : Nat) (x : Port) : (setPort s p x).free = s.free := rfl
@[simp] theorem setPort_glob (s : State) (p : Nat) (x : Port) : (setPort s p x).glob = s.glob := rfl
@[simp] theorem setPort_mem (s : State) (p : Nat) (x : Port) : (setPort s p x).mem = s.mem := rfl
@[simp] theorem setPort_links (s : State) (p : Nat) (x : Port) : (setPort s p x).links = { s.links with ports := putD s.links.ports p Port.init x } := rfl
@[simp] theorem setPort_power (s : State) (p : Nat) (x : Port) : (setPort s p x).power = s.power := rfl
@[simp] theorem setPort_cores (s : State) (p : Nat) (x : Port) : (setPort s p x).cores = s.cores := rfl
@[simp] theorem setPort_scr (s : State) (p : Nat) (x : Port) : (setPort s p x).scr = s.scr := rfl
@[simp] theorem setPort_scrPois (s : State) (p : Nat) (x : Port) : (setPort s p x).scrPois = s.scrPois := rfl
@[simp] theorem setPort_gens (s : State) (p : Nat) (x : Port) : (setPort s p x).gens = s.gens := rfl
@[simp] theorem setPort_queues (s : State) (p : Nat) (x : Port) : (setPort s p x).queues = s.queues := rfl
@[simp] theorem setPort_tls (s : State) (p : Nat) (x : Port) : (setPort s p x).tls = s.tls := rfl
@[simp] theorem setPort_recs (s : State) (p : Nat) (x : Port) : (setPort s p x).recs = s.recs := rfl
@[simp] theorem setPort_fetches (s : State) (p : Nat) (x : Port) : (setPort s p x).fetches = s.fetches := rfl
@[simp] theorem setPort_ctxs (s : State) (p : Nat) (x : Port) : (setPort s p x).ctxs = s.ctxs := rfl
@[simp] theorem setPort_crews (s : State) (p : Nat) (x : Port) : (setPort s p x).crews = s.crews := rfl
@[simp] theorem setPort_warps (s : State) (p : Nat) (x : Port) : (setPort s p x).warps = s.warps := rfl
@[simp] theorem setPort_stream (s : State) (p : Nat) (x : Port) : (setPort s p x).stream = s.stream := rfl
@[simp] theorem setPort_versions (s : State) (p : Nat) (x : Port) : (setPort s p x).versions = s.versions := rfl

/-! ### setClock -/

@[simp] theorem setClock_turns (s : State) (d : Nat) (v : VClock) : (setClock s d v).turns = s.turns := rfl
@[simp] theorem setClock_cur (s : State) (d : Nat) (v : VClock) : (setClock s d v).cur = s.cur := rfl
@[simp] theorem setClock_time (s : State) (d : Nat) (v : VClock) : (setClock s d v).time = s.time := rfl
@[simp] theorem setClock_serial (s : State) (d : Nat) (v : VClock) : (setClock s d v).serial = s.serial := rfl
@[simp] theorem setClock_free (s : State) (d : Nat) (v : VClock) : (setClock s d v).free = s.free := rfl
@[simp] theorem setClock_glob (s : State) (d : Nat) (v : VClock) : (setClock s d v).glob = s.glob := rfl
@[simp] theorem setClock_mem (s : State) (d : Nat) (v : VClock) : (setClock s d v).mem = { s.mem with clocks := putD s.mem.clocks d [] v } := rfl
@[simp] theorem setClock_links (s : State) (d : Nat) (v : VClock) : (setClock s d v).links = s.links := rfl
@[simp] theorem setClock_power (s : State) (d : Nat) (v : VClock) : (setClock s d v).power = s.power := rfl
@[simp] theorem setClock_cores (s : State) (d : Nat) (v : VClock) : (setClock s d v).cores = s.cores := rfl
@[simp] theorem setClock_scr (s : State) (d : Nat) (v : VClock) : (setClock s d v).scr = s.scr := rfl
@[simp] theorem setClock_scrPois (s : State) (d : Nat) (v : VClock) : (setClock s d v).scrPois = s.scrPois := rfl
@[simp] theorem setClock_gens (s : State) (d : Nat) (v : VClock) : (setClock s d v).gens = s.gens := rfl
@[simp] theorem setClock_queues (s : State) (d : Nat) (v : VClock) : (setClock s d v).queues = s.queues := rfl
@[simp] theorem setClock_tls (s : State) (d : Nat) (v : VClock) : (setClock s d v).tls = s.tls := rfl
@[simp] theorem setClock_recs (s : State) (d : Nat) (v : VClock) : (setClock s d v).recs = s.recs := rfl
@[simp] theorem setClock_fetches (s : State) (d : Nat) (v : VClock) : (setClock s d v).fetches = s.fetches := rfl
@[simp] theorem setClock_ctxs (s : State) (d : Nat) (v : VClock) : (setClock s d v).ctxs = s.ctxs := rfl
@[simp] theorem setClock_crews (s : State) (d : Nat) (v : VClock) : (setClock s d v).crews = s.crews := rfl
@[simp] theorem setClock_warps (s : State) (d : Nat) (v : VClock) : (setClock s d v).warps = s.warps := rfl
@[simp] theorem setClock_stream (s : State) (d : Nat) (v : VClock) : (setClock s d v).stream = s.stream := rfl
@[simp] theorem setClock_versions (s : State) (d : Nat) (v : VClock) : (setClock s d v).versions = s.versions := rfl

/-! ### mergeClock -/

@[simp] theorem mergeClock_turns (s : State) (d : Nat) (v : VClock) : (mergeClock s d v).turns = s.turns := rfl
@[simp] theorem mergeClock_cur (s : State) (d : Nat) (v : VClock) : (mergeClock s d v).cur = s.cur := rfl
@[simp] theorem mergeClock_time (s : State) (d : Nat) (v : VClock) : (mergeClock s d v).time = s.time := rfl
@[simp] theorem mergeClock_serial (s : State) (d : Nat) (v : VClock) : (mergeClock s d v).serial = s.serial := rfl
@[simp] theorem mergeClock_free (s : State) (d : Nat) (v : VClock) : (mergeClock s d v).free = s.free := rfl
@[simp] theorem mergeClock_glob (s : State) (d : Nat) (v : VClock) : (mergeClock s d v).glob = s.glob := rfl
@[simp] theorem mergeClock_mem (s : State) (d : Nat) (v : VClock) : (mergeClock s d v).mem = { s.mem with clocks := putD s.mem.clocks d [] (vcMax (clockOf s d) v) } := rfl
@[simp] theorem mergeClock_links (s : State) (d : Nat) (v : VClock) : (mergeClock s d v).links = s.links := rfl
@[simp] theorem mergeClock_power (s : State) (d : Nat) (v : VClock) : (mergeClock s d v).power = s.power := rfl
@[simp] theorem mergeClock_cores (s : State) (d : Nat) (v : VClock) : (mergeClock s d v).cores = s.cores := rfl
@[simp] theorem mergeClock_scr (s : State) (d : Nat) (v : VClock) : (mergeClock s d v).scr = s.scr := rfl
@[simp] theorem mergeClock_scrPois (s : State) (d : Nat) (v : VClock) : (mergeClock s d v).scrPois = s.scrPois := rfl
@[simp] theorem mergeClock_gens (s : State) (d : Nat) (v : VClock) : (mergeClock s d v).gens = s.gens := rfl
@[simp] theorem mergeClock_queues (s : State) (d : Nat) (v : VClock) : (mergeClock s d v).queues = s.queues := rfl
@[simp] theorem mergeClock_tls (s : State) (d : Nat) (v : VClock) : (mergeClock s d v).tls = s.tls := rfl
@[simp] theorem mergeClock_recs (s : State) (d : Nat) (v : VClock) : (mergeClock s d v).recs = s.recs := rfl
@[simp] theorem mergeClock_fetches (s : State) (d : Nat) (v : VClock) : (mergeClock s d v).fetches = s.fetches := rfl
@[simp] theorem mergeClock_ctxs (s : State) (d : Nat) (v : VClock) : (mergeClock s d v).ctxs = s.ctxs := rfl
@[simp] theorem mergeClock_crews (s : State) (d : Nat) (v : VClock) : (mergeClock s d v).crews = s.crews := rfl
@[simp] theorem mergeClock_warps (s : State) (d : Nat) (v : VClock) : (mergeClock s d v).warps = s.warps := rfl
@[simp] theorem mergeClock_stream (s : State) (d : Nat) (v : VClock) : (mergeClock s d v).stream = s.stream := rfl
@[simp] theorem mergeClock_versions (s : State) (d : Nat) (v : VClock) : (mergeClock s d v).versions = s.versions := rfl

/-! ### Parts after their replacement -/

@[simp] theorem warpAt_setWarp_same (s : State) (k : Nat) (w : Warp) : warpAt (setWarp s k w) k = some w := by
  simp [warpAt]

theorem warpAt_setWarp_other (s : State) (j k : Nat) (w : Warp) (h : j ≠ k) :
    warpAt (setWarp s k w) j = warpAt s j := by
  simp [warpAt, look?_put_other _ _ _ _ h]

@[simp] theorem crewAt_setCrew_same (s : State) (k : Nat) (c : Crew) : crewAt (setCrew s k c) k = some c := by
  simp [crewAt]

theorem crewAt_setCrew_other (s : State) (j k : Nat) (c : Crew) (h : j ≠ k) :
    crewAt (setCrew s k c) j = crewAt s j := by
  simp [crewAt, look?_put_other _ _ _ _ h]

@[simp] theorem ctxAt_setCtx_same (s : State) (c : Nat) (x : Ctx) : ctxAt (setCtx s c x) c = x := by
  simp [ctxAt]

theorem ctxAt_setCtx_other (s : State) (j c : Nat) (x : Ctx) (h : j ≠ c) : ctxAt (setCtx s c x) j = ctxAt s j := by
  simp [ctxAt, look_putD_other _ _ _ _ _ h]

@[simp] theorem ctxAt_modCtx_same (s : State) (c : Nat) (f : Ctx → Ctx) : ctxAt (modCtx s c f) c = f (ctxAt s c) := by
  simp [modCtx]

theorem ctxAt_modCtx_other (s : State) (j c : Nat) (f : Ctx → Ctx) (h : j ≠ c) : ctxAt (modCtx s c f) j = ctxAt s j := by
  simp [modCtx, ctxAt_setCtx_other _ _ _ _ h]

@[simp] theorem coreAt_setCore_same (s : State) (n : Nat) (c : Core) : coreAt (setCore s n c) n = c := by
  simp [coreAt]

theorem coreAt_setCore_other (s : State) (j n : Nat) (c : Core) (h : j ≠ n) : coreAt (setCore s n c) j = coreAt s j := by
  simp [coreAt, look_putD_other _ _ _ _ _ h]

@[simp] theorem coreAt_modCore_same (s : State) (n : Nat) (f : Core → Core) : coreAt (modCore s n f) n = f (coreAt s n) := by
  simp [modCore]

@[simp] theorem queueAt_setQueue_same (s : State) (k : Nat) (q : List Cmd) : queueAt (setQueue s k q) k = q := by
  simp [queueAt]

@[simp] theorem timelineAt_setTimeline_same (s : State) (k : Nat) (t : Timeline) :
    timelineAt (setTimeline s k t) k = t := by
  simp [timelineAt]

@[simp] theorem clockOf_setClock_same (s : State) (d : Nat) (v : VClock) : clockOf (setClock s d v) d = v := by
  simp [clockOf]

/-! ### The parts of the state that another part's update leaves -/

@[simp] theorem crewAt_setWarp (s : State) (j : Nat) (k : Nat) (w : Warp) : crewAt (setWarp s k w) j = crewAt s j := rfl
@[simp] theorem ctxAt_setWarp (s : State) (j : Nat) (k : Nat) (w : Warp) : ctxAt (setWarp s k w) j = ctxAt s j := rfl
@[simp] theorem coreAt_setWarp (s : State) (j : Nat) (k : Nat) (w : Warp) : coreAt (setWarp s k w) j = coreAt s j := rfl
@[simp] theorem clusterAt_setWarp (s : State) (j : Nat) (k : Nat) (w : Warp) : clusterAt (setWarp s k w) j = clusterAt s j := rfl
@[simp] theorem timelineAt_setWarp (s : State) (j : Nat) (k : Nat) (w : Warp) : timelineAt (setWarp s k w) j = timelineAt s j := rfl
@[simp] theorem queueAt_setWarp (s : State) (j : Nat) (k : Nat) (w : Warp) : queueAt (setWarp s k w) j = queueAt s j := rfl
@[simp] theorem warpAt_setCrew (s : State) (j : Nat) (k : Nat) (c : Crew) : warpAt (setCrew s k c) j = warpAt s j := rfl
@[simp] theorem ctxAt_setCrew (s : State) (j : Nat) (k : Nat) (c : Crew) : ctxAt (setCrew s k c) j = ctxAt s j := rfl
@[simp] theorem coreAt_setCrew (s : State) (j : Nat) (k : Nat) (c : Crew) : coreAt (setCrew s k c) j = coreAt s j := rfl
@[simp] theorem clusterAt_setCrew (s : State) (j : Nat) (k : Nat) (c : Crew) : clusterAt (setCrew s k c) j = clusterAt s j := rfl
@[simp] theorem timelineAt_setCrew (s : State) (j : Nat) (k : Nat) (c : Crew) : timelineAt (setCrew s k c) j = timelineAt s j := rfl
@[simp] theorem queueAt_setCrew (s : State) (j : Nat) (k : Nat) (c : Crew) : queueAt (setCrew s k c) j = queueAt s j := rfl
@[simp] theorem warpAt_setCtx (s : State) (j : Nat) (c : Nat) (x : Ctx) : warpAt (setCtx s c x) j = warpAt s j := rfl
@[simp] theorem crewAt_setCtx (s : State) (j : Nat) (c : Nat) (x : Ctx) : crewAt (setCtx s c x) j = crewAt s j := rfl
@[simp] theorem coreAt_setCtx (s : State) (j : Nat) (c : Nat) (x : Ctx) : coreAt (setCtx s c x) j = coreAt s j := rfl
@[simp] theorem clusterAt_setCtx (s : State) (j : Nat) (c : Nat) (x : Ctx) : clusterAt (setCtx s c x) j = clusterAt s j := rfl
@[simp] theorem timelineAt_setCtx (s : State) (j : Nat) (c : Nat) (x : Ctx) : timelineAt (setCtx s c x) j = timelineAt s j := rfl
@[simp] theorem queueAt_setCtx (s : State) (j : Nat) (c : Nat) (x : Ctx) : queueAt (setCtx s c x) j = queueAt s j := rfl
@[simp] theorem warpAt_modCtx (s : State) (j : Nat) (c : Nat) (f : Ctx → Ctx) : warpAt (modCtx s c f) j = warpAt s j := rfl
@[simp] theorem crewAt_modCtx (s : State) (j : Nat) (c : Nat) (f : Ctx → Ctx) : crewAt (modCtx s c f) j = crewAt s j := rfl
@[simp] theorem coreAt_modCtx (s : State) (j : Nat) (c : Nat) (f : Ctx → Ctx) : coreAt (modCtx s c f) j = coreAt s j := rfl
@[simp] theorem clusterAt_modCtx (s : State) (j : Nat) (c : Nat) (f : Ctx → Ctx) : clusterAt (modCtx s c f) j = clusterAt s j := rfl
@[simp] theorem timelineAt_modCtx (s : State) (j : Nat) (c : Nat) (f : Ctx → Ctx) : timelineAt (modCtx s c f) j = timelineAt s j := rfl
@[simp] theorem queueAt_modCtx (s : State) (j : Nat) (c : Nat) (f : Ctx → Ctx) : queueAt (modCtx s c f) j = queueAt s j := rfl
@[simp] theorem warpAt_setCore (s : State) (j : Nat) (n : Nat) (c : Core) : warpAt (setCore s n c) j = warpAt s j := rfl
@[simp] theorem crewAt_setCore (s : State) (j : Nat) (n : Nat) (c : Core) : crewAt (setCore s n c) j = crewAt s j := rfl
@[simp] theorem ctxAt_setCore (s : State) (j : Nat) (n : Nat) (c : Core) : ctxAt (setCore s n c) j = ctxAt s j := rfl
@[simp] theorem clusterAt_setCore (s : State) (j : Nat) (n : Nat) (c : Core) : clusterAt (setCore s n c) j = clusterAt s j := rfl
@[simp] theorem timelineAt_setCore (s : State) (j : Nat) (n : Nat) (c : Core) : timelineAt (setCore s n c) j = timelineAt s j := rfl
@[simp] theorem queueAt_setCore (s : State) (j : Nat) (n : Nat) (c : Core) : queueAt (setCore s n c) j = queueAt s j := rfl
@[simp] theorem warpAt_modCore (s : State) (j : Nat) (n : Nat) (f : Core → Core) : warpAt (modCore s n f) j = warpAt s j := rfl
@[simp] theorem crewAt_modCore (s : State) (j : Nat) (n : Nat) (f : Core → Core) : crewAt (modCore s n f) j = crewAt s j := rfl
@[simp] theorem ctxAt_modCore (s : State) (j : Nat) (n : Nat) (f : Core → Core) : ctxAt (modCore s n f) j = ctxAt s j := rfl
@[simp] theorem clusterAt_modCore (s : State) (j : Nat) (n : Nat) (f : Core → Core) : clusterAt (modCore s n f) j = clusterAt s j := rfl
@[simp] theorem timelineAt_modCore (s : State) (j : Nat) (n : Nat) (f : Core → Core) : timelineAt (modCore s n f) j = timelineAt s j := rfl
@[simp] theorem queueAt_modCore (s : State) (j : Nat) (n : Nat) (f : Core → Core) : queueAt (modCore s n f) j = queueAt s j := rfl
@[simp] theorem warpAt_modCluster (s : State) (j : Nat) (c : Nat) (f : Cluster → Cluster) : warpAt (modCluster s c f) j = warpAt s j := rfl
@[simp] theorem crewAt_modCluster (s : State) (j : Nat) (c : Nat) (f : Cluster → Cluster) : crewAt (modCluster s c f) j = crewAt s j := rfl
@[simp] theorem ctxAt_modCluster (s : State) (j : Nat) (c : Nat) (f : Cluster → Cluster) : ctxAt (modCluster s c f) j = ctxAt s j := rfl
@[simp] theorem coreAt_modCluster (s : State) (j : Nat) (c : Nat) (f : Cluster → Cluster) : coreAt (modCluster s c f) j = coreAt s j := rfl
@[simp] theorem timelineAt_modCluster (s : State) (j : Nat) (c : Nat) (f : Cluster → Cluster) : timelineAt (modCluster s c f) j = timelineAt s j := rfl
@[simp] theorem queueAt_modCluster (s : State) (j : Nat) (c : Nat) (f : Cluster → Cluster) : queueAt (modCluster s c f) j = queueAt s j := rfl
@[simp] theorem warpAt_setTimeline (s : State) (j : Nat) (k : Nat) (t : Timeline) : warpAt (setTimeline s k t) j = warpAt s j := rfl
@[simp] theorem crewAt_setTimeline (s : State) (j : Nat) (k : Nat) (t : Timeline) : crewAt (setTimeline s k t) j = crewAt s j := rfl
@[simp] theorem ctxAt_setTimeline (s : State) (j : Nat) (k : Nat) (t : Timeline) : ctxAt (setTimeline s k t) j = ctxAt s j := rfl
@[simp] theorem coreAt_setTimeline (s : State) (j : Nat) (k : Nat) (t : Timeline) : coreAt (setTimeline s k t) j = coreAt s j := rfl
@[simp] theorem clusterAt_setTimeline (s : State) (j : Nat) (k : Nat) (t : Timeline) : clusterAt (setTimeline s k t) j = clusterAt s j := rfl
@[simp] theorem queueAt_setTimeline (s : State) (j : Nat) (k : Nat) (t : Timeline) : queueAt (setTimeline s k t) j = queueAt s j := rfl
@[simp] theorem warpAt_setQueue (s : State) (j : Nat) (k : Nat) (q : List Cmd) : warpAt (setQueue s k q) j = warpAt s j := rfl
@[simp] theorem crewAt_setQueue (s : State) (j : Nat) (k : Nat) (q : List Cmd) : crewAt (setQueue s k q) j = crewAt s j := rfl
@[simp] theorem ctxAt_setQueue (s : State) (j : Nat) (k : Nat) (q : List Cmd) : ctxAt (setQueue s k q) j = ctxAt s j := rfl
@[simp] theorem coreAt_setQueue (s : State) (j : Nat) (k : Nat) (q : List Cmd) : coreAt (setQueue s k q) j = coreAt s j := rfl
@[simp] theorem clusterAt_setQueue (s : State) (j : Nat) (k : Nat) (q : List Cmd) : clusterAt (setQueue s k q) j = clusterAt s j := rfl
@[simp] theorem timelineAt_setQueue (s : State) (j : Nat) (k : Nat) (q : List Cmd) : timelineAt (setQueue s k q) j = timelineAt s j := rfl
@[simp] theorem warpAt_modGlob (s : State) (j : Nat) (f : Glob → Glob) : warpAt (modGlob s f) j = warpAt s j := rfl
@[simp] theorem crewAt_modGlob (s : State) (j : Nat) (f : Glob → Glob) : crewAt (modGlob s f) j = crewAt s j := rfl
@[simp] theorem ctxAt_modGlob (s : State) (j : Nat) (f : Glob → Glob) : ctxAt (modGlob s f) j = ctxAt s j := rfl
@[simp] theorem coreAt_modGlob (s : State) (j : Nat) (f : Glob → Glob) : coreAt (modGlob s f) j = coreAt s j := rfl
@[simp] theorem clusterAt_modGlob (s : State) (j : Nat) (f : Glob → Glob) : clusterAt (modGlob s f) j = clusterAt s j := rfl
@[simp] theorem timelineAt_modGlob (s : State) (j : Nat) (f : Glob → Glob) : timelineAt (modGlob s f) j = timelineAt s j := rfl
@[simp] theorem queueAt_modGlob (s : State) (j : Nat) (f : Glob → Glob) : queueAt (modGlob s f) j = queueAt s j := rfl
@[simp] theorem warpAt_modMem (s : State) (j : Nat) (f : Mem → Mem) : warpAt (modMem s f) j = warpAt s j := rfl
@[simp] theorem crewAt_modMem (s : State) (j : Nat) (f : Mem → Mem) : crewAt (modMem s f) j = crewAt s j := rfl
@[simp] theorem ctxAt_modMem (s : State) (j : Nat) (f : Mem → Mem) : ctxAt (modMem s f) j = ctxAt s j := rfl
@[simp] theorem coreAt_modMem (s : State) (j : Nat) (f : Mem → Mem) : coreAt (modMem s f) j = coreAt s j := rfl
@[simp] theorem clusterAt_modMem (s : State) (j : Nat) (f : Mem → Mem) : clusterAt (modMem s f) j = clusterAt s j := rfl
@[simp] theorem timelineAt_modMem (s : State) (j : Nat) (f : Mem → Mem) : timelineAt (modMem s f) j = timelineAt s j := rfl
@[simp] theorem queueAt_modMem (s : State) (j : Nat) (f : Mem → Mem) : queueAt (modMem s f) j = queueAt s j := rfl
@[simp] theorem warpAt_modLinks (s : State) (j : Nat) (f : Links → Links) : warpAt (modLinks s f) j = warpAt s j := rfl
@[simp] theorem crewAt_modLinks (s : State) (j : Nat) (f : Links → Links) : crewAt (modLinks s f) j = crewAt s j := rfl
@[simp] theorem ctxAt_modLinks (s : State) (j : Nat) (f : Links → Links) : ctxAt (modLinks s f) j = ctxAt s j := rfl
@[simp] theorem coreAt_modLinks (s : State) (j : Nat) (f : Links → Links) : coreAt (modLinks s f) j = coreAt s j := rfl
@[simp] theorem clusterAt_modLinks (s : State) (j : Nat) (f : Links → Links) : clusterAt (modLinks s f) j = clusterAt s j := rfl
@[simp] theorem timelineAt_modLinks (s : State) (j : Nat) (f : Links → Links) : timelineAt (modLinks s f) j = timelineAt s j := rfl
@[simp] theorem queueAt_modLinks (s : State) (j : Nat) (f : Links → Links) : queueAt (modLinks s f) j = queueAt s j := rfl
@[simp] theorem warpAt_modPower (s : State) (j : Nat) (f : Power → Power) : warpAt (modPower s f) j = warpAt s j := rfl
@[simp] theorem crewAt_modPower (s : State) (j : Nat) (f : Power → Power) : crewAt (modPower s f) j = crewAt s j := rfl
@[simp] theorem ctxAt_modPower (s : State) (j : Nat) (f : Power → Power) : ctxAt (modPower s f) j = ctxAt s j := rfl
@[simp] theorem coreAt_modPower (s : State) (j : Nat) (f : Power → Power) : coreAt (modPower s f) j = coreAt s j := rfl
@[simp] theorem timelineAt_modPower (s : State) (j : Nat) (f : Power → Power) : timelineAt (modPower s f) j = timelineAt s j := rfl
@[simp] theorem queueAt_modPower (s : State) (j : Nat) (f : Power → Power) : queueAt (modPower s f) j = queueAt s j := rfl
@[simp] theorem warpAt_setPort (s : State) (j : Nat) (p : Nat) (x : Port) : warpAt (setPort s p x) j = warpAt s j := rfl
@[simp] theorem crewAt_setPort (s : State) (j : Nat) (p : Nat) (x : Port) : crewAt (setPort s p x) j = crewAt s j := rfl
@[simp] theorem ctxAt_setPort (s : State) (j : Nat) (p : Nat) (x : Port) : ctxAt (setPort s p x) j = ctxAt s j := rfl
@[simp] theorem coreAt_setPort (s : State) (j : Nat) (p : Nat) (x : Port) : coreAt (setPort s p x) j = coreAt s j := rfl
@[simp] theorem clusterAt_setPort (s : State) (j : Nat) (p : Nat) (x : Port) : clusterAt (setPort s p x) j = clusterAt s j := rfl
@[simp] theorem timelineAt_setPort (s : State) (j : Nat) (p : Nat) (x : Port) : timelineAt (setPort s p x) j = timelineAt s j := rfl
@[simp] theorem queueAt_setPort (s : State) (j : Nat) (p : Nat) (x : Port) : queueAt (setPort s p x) j = queueAt s j := rfl
@[simp] theorem warpAt_setClock (s : State) (j : Nat) (d : Nat) (v : VClock) : warpAt (setClock s d v) j = warpAt s j := rfl
@[simp] theorem crewAt_setClock (s : State) (j : Nat) (d : Nat) (v : VClock) : crewAt (setClock s d v) j = crewAt s j := rfl
@[simp] theorem ctxAt_setClock (s : State) (j : Nat) (d : Nat) (v : VClock) : ctxAt (setClock s d v) j = ctxAt s j := rfl
@[simp] theorem coreAt_setClock (s : State) (j : Nat) (d : Nat) (v : VClock) : coreAt (setClock s d v) j = coreAt s j := rfl
@[simp] theorem clusterAt_setClock (s : State) (j : Nat) (d : Nat) (v : VClock) : clusterAt (setClock s d v) j = clusterAt s j := rfl
@[simp] theorem timelineAt_setClock (s : State) (j : Nat) (d : Nat) (v : VClock) : timelineAt (setClock s d v) j = timelineAt s j := rfl
@[simp] theorem queueAt_setClock (s : State) (j : Nat) (d : Nat) (v : VClock) : queueAt (setClock s d v) j = queueAt s j := rfl
@[simp] theorem warpAt_mergeClock (s : State) (j : Nat) (d : Nat) (v : VClock) : warpAt (mergeClock s d v) j = warpAt s j := rfl
@[simp] theorem crewAt_mergeClock (s : State) (j : Nat) (d : Nat) (v : VClock) : crewAt (mergeClock s d v) j = crewAt s j := rfl
@[simp] theorem ctxAt_mergeClock (s : State) (j : Nat) (d : Nat) (v : VClock) : ctxAt (mergeClock s d v) j = ctxAt s j := rfl
@[simp] theorem coreAt_mergeClock (s : State) (j : Nat) (d : Nat) (v : VClock) : coreAt (mergeClock s d v) j = coreAt s j := rfl
@[simp] theorem clusterAt_mergeClock (s : State) (j : Nat) (d : Nat) (v : VClock) : clusterAt (mergeClock s d v) j = clusterAt s j := rfl
@[simp] theorem timelineAt_mergeClock (s : State) (j : Nat) (d : Nat) (v : VClock) : timelineAt (mergeClock s d v) j = timelineAt s j := rfl
@[simp] theorem queueAt_mergeClock (s : State) (j : Nat) (d : Nat) (v : VClock) : queueAt (mergeClock s d v) j = queueAt s j := rfl

end Sys2Proof.Laws
end

