-- ==== Sys2Proof/Laws/WfBase.lean ====
section
/-! SUPPORT. What it means that an operation keeps every memory of the package in canonical form, and the updates of
the state that leave or keep the memories. -/

set_option Elab.async false

namespace Sys2Proof.Laws

open Sys2Proof Sys2Proof.Machine

theorem memWf_iff (s : State) : s.memWf = true ↔
    Memory.wf s.mem.chan = true ∧ Memory.wf s.mem.fabric = true ∧ Memory.wf s.mem.hostMem = true ∧
      Memory.wf s.scr = true := by
  simp [State.memWf, and_assoc]

@[simp] theorem chan_wf (s : State) (h : s.memWf = true) : Memory.wf s.mem.chan = true := ((memWf_iff s).1 h).1
@[simp] theorem fabric_wf (s : State) (h : s.memWf = true) : Memory.wf s.mem.fabric = true := ((memWf_iff s).1 h).2.1
@[simp] theorem hostMem_wf (s : State) (h : s.memWf = true) : Memory.wf s.mem.hostMem = true :=
  ((memWf_iff s).1 h).2.2.1
@[simp] theorem scr_wf (s : State) (h : s.memWf = true) : Memory.wf s.scr = true := ((memWf_iff s).1 h).2.2.2

/-- A state given by its fields. -/
@[simp] theorem memWf_mk (turns : List Turn) (cur time serial free : Nat) (glob : Glob) (mem : Mem) (links : Links)
    (power : Power) (cores : SMap Core) (scr : Memory) (scrPois : SMap Bool) (gens : SMap (BitVec 16))
    (queues : SMap (List Cmd)) (tls : SMap Timeline) (recs : List CachedRec) (fetches : List (Nat × Nat × Nat))
    (ctxs : SMap Ctx) (crews : SMap Crew) (warps : SMap Warp) (stream : List PlaceEntry) (versions : SMap Nat) :
    (State.mk turns cur time serial free glob mem links power cores scr scrPois gens queues tls recs fetches ctxs crews
      warps stream versions).memWf =
      (Memory.wf mem.chan && Memory.wf mem.fabric && Memory.wf mem.hostMem && Memory.wf scr) := rfl

theorem memWf_lit {turns : List Turn} {cur time serial free : Nat} {glob : Glob} {mem : Mem} {links : Links}
    {power : Power} {cores : SMap Core} {scr : Memory} {scrPois : SMap Bool} {gens : SMap (BitVec 16)}
    {queues : SMap (List Cmd)} {tls : SMap Timeline} {recs : List CachedRec} {fetches : List (Nat × Nat × Nat)}
    {ctxs : SMap Ctx} {crews : SMap Crew} {warps : SMap Warp} {stream : List PlaceEntry} {versions : SMap Nat}
    (h1 : Memory.wf mem.chan = true) (h2 : Memory.wf mem.fabric = true) (h3 : Memory.wf mem.hostMem = true)
    (h4 : Memory.wf scr = true) :
    (State.mk turns cur time serial free glob mem links power cores scr scrPois gens queues tls recs fetches ctxs crews
      warps stream versions).memWf = true := by simp [h1, h2, h3, h4]

section

variable (s : State) (h : s.memWf = true)

@[simp] theorem setWarp_wf (k : Nat) (w : Warp) (h : s.memWf = true) : (setWarp s k w).memWf = true := h
@[simp] theorem setCrew_wf (k : Nat) (c : Crew) (h : s.memWf = true) : (setCrew s k c).memWf = true := h
@[simp] theorem setCtx_wf (c : Nat) (x : Ctx) (h : s.memWf = true) : (setCtx s c x).memWf = true := h
@[simp] theorem modCtx_wf (c : Nat) (f : Ctx → Ctx) (h : s.memWf = true) : (modCtx s c f).memWf = true := h
@[simp] theorem setCore_wf (n : Nat) (c : Core) (h : s.memWf = true) : (setCore s n c).memWf = true := h
@[simp] theorem modCore_wf (n : Nat) (f : Core → Core) (h : s.memWf = true) : (modCore s n f).memWf = true := h
@[simp] theorem modCluster_wf (c : Nat) (f : Cluster → Cluster) (h : s.memWf = true) :
    (modCluster s c f).memWf = true := h
@[simp] theorem setTimeline_wf (k : Nat) (t : Timeline) (h : s.memWf = true) : (setTimeline s k t).memWf = true := h
@[simp] theorem setQueue_wf (k : Nat) (q : List Cmd) (h : s.memWf = true) : (setQueue s k q).memWf = true := h
@[simp] theorem modGlob_wf (f : Glob → Glob) (h : s.memWf = true) : (modGlob s f).memWf = true := h
@[simp] theorem modLinks_wf (f : Links → Links) (h : s.memWf = true) : (modLinks s f).memWf = true := h
@[simp] theorem modPower_wf (f : Power → Power) (h : s.memWf = true) : (modPower s f).memWf = true := h
@[simp] theorem setPort_wf (p : Nat) (x : Port) (h : s.memWf = true) : (setPort s p x).memWf = true := h
@[simp] theorem setClock_wf (d : Nat) (v : VClock) (h : s.memWf = true) : (setClock s d v).memWf = true := h
@[simp] theorem mergeClock_wf (d : Nat) (v : VClock) (h : s.memWf = true) : (mergeClock s d v).memWf = true := h
@[simp] theorem modMem_wf (f : Mem → Mem) (h : s.memWf = true) (h1 : Memory.wf (f s.mem).chan = true)
    (h2 : Memory.wf (f s.mem).fabric = true) (h3 : Memory.wf (f s.mem).hostMem = true) :
    (modMem s f).memWf = true :=
  (memWf_iff _).2 ⟨h1, h2, h3, scr_wf s h⟩

@[simp] theorem modWarp_wf (k : Nat) (f : Warp → Warp) (h : s.memWf = true) : (modWarp s k f).memWf = true := by
  unfold modWarp; split <;> simp [h]

@[simp] theorem modCrew_wf (k : Nat) (f : Crew → Crew) (h : s.memWf = true) : (modCrew s k f).memWf = true := by
  unfold modCrew; split <;> simp [h]

end

/-- A fold of steps that keep the memories keeps them. -/
theorem foldl_wf {β : Type} (f : State → β → State) (l : List β) (s : State) (h : s.memWf = true)
    (hf : ∀ t x, t.memWf = true → (f t x).memWf = true) : (l.foldl f s).memWf = true := by
  induction l generalizing s with
  | nil => exact h
  | cons x l ih => exact ih _ (hf s x h)

/-- The same of a fold that carries something beside the state. -/
theorem foldl_fst_wf {β γ : Type} (f : State × γ → β → State × γ) (l : List β) (s : State × γ) (h : s.1.memWf = true)
    (hf : ∀ t x, t.1.memWf = true → (f t x).1.memWf = true) : (l.foldl f s).1.memWf = true := by
  induction l generalizing s with
  | nil => exact h
  | cons x l ih => exact ih _ (hf s x h)

/-- A stack operation whose state keeps the memories in canonical form. -/
def StackWf (r : StackRes) : Prop := ∀ t w e, r = .ok t w e → t.memWf = true

@[simp] theorem stackWf_bad (t : TrapReq) : StackWf (.bad t) := fun _ _ _ e => by cases e

@[simp] theorem stackWf_wait : StackWf .wait := fun _ _ _ e => by cases e

@[simp] theorem stackWf_ok (t : State) (w : Warp) (e : Option StackEntry) : StackWf (.ok t w e) ↔ t.memWf = true :=
  ⟨fun h => h t w e rfl, fun h _ _ _ x => by cases x; exact h⟩

/-- A possible state that keeps the memories in canonical form. -/
def OptWf (r : Option State) : Prop := ∀ t, r = some t → t.memWf = true

@[simp] theorem optWf_none : OptWf none := fun _ e => by cases e

@[simp] theorem optWf_some (t : State) : OptWf (some t) ↔ t.memWf = true :=
  ⟨fun h => h t rfl, fun h _ x => by cases x; exact h⟩

/-- A possible state with something beside it. -/
def OptPairWf {γ : Type} (r : Option (State × γ)) : Prop := ∀ t, r = some t → t.1.memWf = true

@[simp] theorem optPairWf_none {γ : Type} : OptPairWf (none : Option (State × γ)) := fun _ e => by cases e

@[simp] theorem optPairWf_some {γ : Type} (t : State × γ) : OptPairWf (some t) ↔ t.1.memWf = true :=
  ⟨fun h => h t rfl, fun h _ x => by cases x; exact h⟩

/-- An answer whose next state keeps the memories in canonical form. -/
def ResWf (r : Res) : Prop := ∀ t, r = .next t → t.memWf = true

@[simp] theorem resWf_next (t : State) : ResWf (.next t) ↔ t.memWf = true :=
  ⟨fun h => h t rfl, fun h _ e => by cases e; exact h⟩

/-- An effect whose states keep the memories in canonical form. -/
def EffWf (e : Eff) : Prop :=
  match e with
  | .trap _ => True
  | .part s _ => s.memWf = true
  | .stall => True
  | .hold s => s.memWf = true
  | .wait _ => True
  | .waitIn s _ => s.memWf = true
  | .done s => s.memWf = true
  | .doneTrap s _ => s.memWf = true

@[simp] theorem effWf_trap (t : TrapReq) : EffWf (.trap t) := trivial
@[simp] theorem effWf_stall : EffWf .stall := trivial
@[simp] theorem effWf_wait (b : Block) : EffWf (.wait b) := trivial
@[simp] theorem effWf_part (s : State) (t : TrapReq) : EffWf (.part s t) ↔ s.memWf = true := Iff.rfl
@[simp] theorem effWf_hold (s : State) : EffWf (.hold s) ↔ s.memWf = true := Iff.rfl
@[simp] theorem effWf_waitIn (s : State) (b : Block) : EffWf (.waitIn s b) ↔ s.memWf = true := Iff.rfl
@[simp] theorem effWf_done (s : State) : EffWf (.done s) ↔ s.memWf = true := Iff.rfl
@[simp] theorem effWf_doneTrap (s : State) (t : TrapReq) : EffWf (.doneTrap s t) ↔ s.memWf = true := Iff.rfl


end Sys2Proof.Laws
end

