-- ==== Sys2Proof/Laws/WfPhys.lean ====
section
/-! SUPPORT. The operations of Machine/Phys.lean keep every memory in canonical form. -/

set_option Elab.async false

namespace Sys2Proof.Laws

open Sys2Proof Sys2Proof.Machine

@[simp] theorem modSet_wf (s : State) (i : Nat) (f : ISet → ISet) (h : s.memWf = true) :
    State.memWf (modSet s i f) = true := by
  unfold modSet
  repeat' (first | assumption)

@[simp] theorem memWriteByte_wf (s : State) (pa : Nat) (b : Byte) (h : s.memWf = true) :
    State.memWf (memWriteByte s pa b) = true := by
  unfold memWriteByte
  repeat' (first | (solve | simp (maxDischargeDepth := 12) [*]) | split)

@[simp] theorem memSetPois_wf (s : State) (pa : Nat) (p : Bool) (h : s.memWf = true) :
    State.memWf (memSetPois s pa p) = true := by
  unfold memSetPois
  repeat' (first | assumption | split)

@[simp] theorem setLine_wf (s : State) (l : Nat) (x : Line) (h : s.memWf = true) :
    State.memWf (setLine s l x) = true := by
  unfold setLine
  repeat' (first | assumption)

@[simp] theorem dropLine_wf (s : State) (l : Nat) (h : s.memWf = true) :
    State.memWf (dropLine s l) = true := by
  unfold dropLine
  repeat' (first | assumption)

@[simp] theorem markFlits_wf (s : State) (l : Nat) (bad : BitVec 4) (h : s.memWf = true) :
    State.memWf (markFlits s l bad) = true := by
  unfold markFlits
  repeat' (first
    | with_reducible assumption | with_reducible apply memSetPois_wf | with_reducible apply foldl_wf
    | with_reducible intro _ | split)

@[simp] theorem storeLine_wf (s : State) (l : Nat) (data : BitVec 1024) (mask : BitVec 128) (pois : BitVec 4) (h : s.memWf = true) :
    State.memWf (storeLine s l data mask pois) = true := by
  unfold storeLine
  repeat' (first
    | (solve | simp (maxDischargeDepth := 12) [*]) | with_reducible apply foldl_wf | with_reducible intro _ | split)

@[simp] theorem writeBackLine_wf (s : State) (l : Nat) (x : Line) (h : s.memWf = true) :
    State.memWf (writeBackLine s l x) = true := by
  unfold writeBackLine
  repeat' (first | (solve | simp (maxDischargeDepth := 12) [*]) | split)

@[simp] theorem homeWrite_wf (s : State) (pa : Nat) (bs : List Byte) (pois thru : Bool) (ctx : Option Nat) (h : s.memWf = true) :
    State.memWf (homeWrite s pa bs pois thru ctx) = true := by
  unfold homeWrite
  repeat' (first
    | (solve | simp (maxDischargeDepth := 12) [*]) | with_reducible apply foldl_wf | with_reducible intro _ | split)

@[simp] theorem homeAlloc_wf (s : State) (pa : Nat) (thru : Bool) (h : s.memWf = true) :
    State.memWf (homeAlloc s pa thru) = true := by
  unfold homeAlloc
  repeat' (first | assumption | split)

@[simp] theorem stampFlits_wf (s : State) (pa n : Nat) (keep : Bool) (v : VClock) (h : s.memWf = true) :
    State.memWf (stampFlits s pa n keep v) = true := by
  unfold stampFlits
  repeat' (first
    | with_reducible assumption | with_reducible apply modMem_wf | with_reducible apply chan_wf
    | with_reducible apply fabric_wf | with_reducible apply hostMem_wf | with_reducible apply foldl_wf
    | with_reducible intro _ | dsimp only | split)

@[simp] theorem fabricWrite_wf (s : State) (pa : Nat) (bs : List Byte) (pois : Bool) (h : s.memWf = true) :
    State.memWf (fabricWrite s pa bs pois) = true := by
  unfold fabricWrite
  repeat' (first | (simp (maxDischargeDepth := 12) [*]; done))

end Sys2Proof.Laws
end

