-- ==== Sys2Proof/Laws/WfTrans.lean ====
section
/-! SUPPORT. The operations of Machine/Trans.lean keep every memory in canonical form. -/

set_option Elab.async false

namespace Sys2Proof.Laws

open Sys2Proof Sys2Proof.Machine

@[simp] theorem setStage_wf (s : State) (d : Nat) (x : List Staged) (h : s.memWf = true) :
    State.memWf (setStage s d x) = true := by
  unfold setStage
  repeat' (first | assumption)

@[simp] theorem dropReplicas_wf (s : State) (l : Nat) (h : s.memWf = true) :
    State.memWf (dropReplicas s l) = true := by
  unfold dropReplicas
  repeat' (first | assumption)

@[simp] theorem sysWriteNow_wf (s : State) (pa : Nat) (bs : List Byte) (pois thru : Bool) (ctx : Option Nat)
    (h : s.memWf = true) : State.memWf (sysWriteNow s pa bs pois thru ctx) = true := by
  unfold sysWriteNow
  repeat' (first
    | (simp (maxDischargeDepth := 12) [*]; done) | with_reducible apply foldl_fst_wf | with_reducible intro _
    | dsimp only | split)

@[simp] theorem sysWrite_wf (s : State) (pa : Nat) (bs : List Byte) (pois thru : Bool) (ctx : Option Nat)
    (h : s.memWf = true) : State.memWf (sysWrite s pa bs pois thru ctx) = true := by
  unfold sysWrite
  split
  · exact modMem_wf _ _ h (chan_wf _ h) (fabric_wf _ h) (hostMem_wf _ h)
  · exact sysWriteNow_wf _ _ _ _ _ _ h

end Sys2Proof.Laws
end

