-- ==== Sys2Proof/Laws/WfEnergy.lean ====
section
/-! SUPPORT. The operations of Machine/Energy.lean keep every memory in canonical form. -/

set_option Elab.async false

namespace Sys2Proof.Laws

open Sys2Proof Sys2Proof.Machine

@[simp] theorem addEnergy_wf (s : State) (ctx ctr pj : Nat) (h : s.memWf = true) :
    State.memWf (addEnergy s ctx ctr pj) = true := by
  unfold addEnergy
  repeat' (first | assumption)

@[simp] theorem chargeCtx_wf (s : State) (ctx pj : Nat) (h : s.memWf = true) :
    State.memWf (chargeCtx s ctx pj) = true := by
  unfold chargeCtx
  repeat' (first | assumption | split | dsimp only)

@[simp] theorem charge_wf (s : State) (core ctx pj : Nat) (h : s.memWf = true) :
    State.memWf (charge s core ctx pj) = true := by
  unfold charge
  repeat' (first | (solve | simp (maxDischargeDepth := 12) [*]) | split)

@[simp] theorem chargeBytes_wf (s : State) (ctx slice hbm ddr boundary port : Nat) (h : s.memWf = true) :
    State.memWf (chargeBytes s ctx slice hbm ddr boundary port) = true := by
  unfold chargeBytes
  repeat' (first | (simp (maxDischargeDepth := 12) [*]; done))

@[simp] theorem chargeCores_wf (s : State) (ctx a b n : Nat) (ring : Bool) (h : s.memWf = true) :
    State.memWf (chargeCores s ctx a b n ring) = true := by
  unfold chargeCores
  repeat' (first | (simp (maxDischargeDepth := 12) [*]; done) | split)

@[simp] theorem chargeHome_wf (s : State) (ctx : Nat) (d : Option Nat) (pa n : Nat) (thru copy : Bool) (h : s.memWf = true) :
    State.memWf (chargeHome s ctx d pa n thru copy) = true := by
  unfold chargeHome
  repeat' (first | (simp (maxDischargeDepth := 12) [*]; done) | split)

@[simp] theorem chargeOut_wf (s : State) (ctx pa n : Nat) (h : s.memWf = true) :
    State.memWf (chargeOut s ctx pa n) = true := by
  unfold chargeOut
  repeat' (first | (simp (maxDischargeDepth := 12) [*]; done) | split)

@[simp] theorem chargeMicro_wf (s : State) (ctx d va n : Nat) (k : AccKind) (h : s.memWf = true) :
    State.memWf (chargeMicro s ctx d va n k) = true := by
  unfold chargeMicro
  exact chargeCtx_wf _ _ _ h

@[simp] theorem chargeRange_wf (s : State) (ctx : Nat) (d : Option Nat) (pa n : Nat) (thru : Bool) (h : s.memWf = true) :
    State.memWf (chargeRange s ctx d pa n thru) = true := by
  unfold chargeRange
  repeat' (first
    | (simp (maxDischargeDepth := 12) [*]; done) | with_reducible apply foldl_wf | with_reducible intro _ | dsimp only | split)

@[simp] theorem chargeAt_wf (s : State) (ctx : Nat) (d : Option Nat) (pa n : Nat) (thru : Bool) (h : s.memWf = true) :
    State.memWf (chargeAt s ctx d pa n thru) = true := by
  unfold chargeAt
  split <;> simp [h]

@[simp] theorem homeServes_wf (s : State) (ctx d pa n : Nat) (thru copy : Bool) (h : s.memWf = true) :
    State.memWf (homeServes s ctx d pa n thru copy) = true := by
  unfold homeServes
  repeat' (first | (simp (maxDischargeDepth := 12) [*]; done) | split)

end Sys2Proof.Laws
end

