-- ==== Sys2Proof/Laws/WfFrame.lean ====
section
/-! SUPPORT. The operations of Machine/Frame.lean keep every memory in canonical form. -/

set_option Elab.async false

namespace Sys2Proof.Laws

open Sys2Proof Sys2Proof.Machine

@[simp] theorem sysWriteVa_wf (s : State) (ctx va : Nat) (bs : List Byte) (h : s.memWf = true) :
    State.memWf (sysWriteVa s ctx va bs) = true := by
  unfold sysWriteVa
  repeat' (first
    | (solve | simp (maxDischargeDepth := 12) [*]) | with_reducible apply foldl_fst_wf | with_reducible intro _
    | split | dsimp only)

@[simp] theorem writeFrame_wf (s : State) (w : Warp) (h : s.memWf = true) :
    State.memWf (writeFrame s w) = true := by
  unfold writeFrame
  repeat' (first | (solve | simp (maxDischargeDepth := 12) [*]) | split)

@[simp] theorem chargeFrame_wf (s : State) (w : Warp) (k : AccKind) (h : s.memWf = true) :
    State.memWf (chargeFrame s w k) = true := by
  unfold chargeFrame
  repeat' (first | (solve | simp (maxDischargeDepth := 12) [*]) | split)

end Sys2Proof.Laws
end

