-- ==== Sys2Proof/Laws/WfOps.lean ====
section
/-! SUPPORT. The operations of Machine/Ops.lean keep every memory in canonical form. -/

set_option Elab.async false

namespace Sys2Proof.Laws

open Sys2Proof Sys2Proof.Machine

@[simp] theorem pushEntry_wf (s : State) (w : Warp) (e : StackEntry) (h : s.memWf = true) :
    StackWf (pushEntry s w e) := by
  unfold pushEntry
  repeat' (first | (solve | simp (maxDischargeDepth := 12) [*]) | split)

@[simp] theorem popEntry_wf (s : State) (w : Warp) (h : s.memWf = true) :
    StackWf (popEntry s w) := by
  unfold popEntry
  repeat' (first | (solve | simp (maxDischargeDepth := 12) [*]) | split | dsimp only)

@[simp] theorem queueRecord_wf (s : State) (ctx : Nat) (r : FaultRec) (h : s.memWf = true) :
    State.memWf (queueRecord s ctx r) = true := by
  unfold queueRecord
  repeat' (first | assumption)

@[simp] theorem faultStop_wf (s : State) (k : Nat) (w : Warp) (t : TrapReq) (h : s.memWf = true) :
    State.memWf (faultStop s k w t) = true := by
  unfold faultStop
  repeat' (first | (solve | simp (maxDischargeDepth := 12) [*]))

@[simp] theorem startRun_wf (s : State) (k : Nat) (w : Warp) (h : s.memWf = true) :
    State.memWf (startRun s k w) = true := by
  unfold startRun
  repeat' (first | (simp (maxDischargeDepth := 12) [*]; done))

@[simp] theorem startHandler_wf (s : State) (k : Nat) (w : Warp) (tvec : Nat) (t : TrapReq) (h : s.memWf = true) :
    State.memWf (startHandler s k w tvec t) = true := by
  unfold startHandler
  repeat' (first | (simp (maxDischargeDepth := 12) [*]; done) | split)

@[simp] theorem deliver_wf (s : State) (k : Nat) (w : Warp) (t : TrapReq) (h : s.memWf = true) :
    State.memWf (deliver s k w t) = true := by
  unfold deliver
  repeat' (first | split | dsimp only)
  all_goals (try have hx := pushEntry_wf _ _ _ h _ _ _ ‹_›)
  all_goals (first | assumption | simp (maxDischargeDepth := 12) [*])

@[simp] theorem raise_wf (s : State) (k : Nat) (w : Warp) (t : TrapReq) (h : s.memWf = true) :
    State.memWf (raise s k w t) = true := by
  unfold raise
  repeat' (first | (solve | simp (maxDischargeDepth := 12) [*]) | split | dsimp only)

@[simp] theorem deliverHeld_wf (s : State) (k : Nat) (w : Warp) (h : s.memWf = true) :
    State.memWf (deliverHeld s k w) = true := by
  unfold deliverHeld
  repeat' (first | (solve | simp (maxDischargeDepth := 12) [*]) | split)

@[simp] theorem endTrap_wf (s : State) (k : Nat) (w : Warp) (t : TrapReq) (stop : Bool) (h : s.memWf = true) :
    State.memWf (endTrap s k w t stop) = true := by
  unfold endTrap
  repeat' (first | (simp (maxDischargeDepth := 12) [*]; done) | split)

@[simp] theorem endTrailer_wf (s : State) (k : Nat) (w : Warp) (keep : Bool) (h : s.memWf = true) :
    State.memWf (endTrailer s k w keep) = true := by
  unfold endTrailer
  repeat' (first | (solve | simp (maxDischargeDepth := 12) [*]) | split)

@[simp] theorem retire_wf (s : State) (k : Nat) (m : Shape) (h : s.memWf = true) :
    State.memWf (retire s k m) = true := by
  unfold retire
  repeat' (first | (solve | simp (maxDischargeDepth := 12) [*]) | split)

/-- Issue keeps the memories where the effect does. -/
@[simp] theorem issue_wf (i : Instr) (m : Shape) (eff : State → Warp → Eff) (s : State)
    (he : ∀ w, EffWf (eff s w)) (h : s.memWf = true) : State.memWf (issue i m eff s) = true := by
  unfold issue
  split
  · exact h
  rename_i w _
  split
  · exact h
  split
  · exact raise_wf _ _ _ _ h
  split
  · exact h
  have hw := he w
  split <;> rename_i e <;> rw [e] at hw <;> try simp only [effWf_part, effWf_hold, effWf_waitIn, effWf_done, effWf_doneTrap] at hw
  · simp [h]
  · split <;> simp [hw]
  · exact h
  · exact hw
  · simp [h]
  · simp [hw]
  · simp [hw]
  · dsimp only
    split <;> simp [hw]

@[simp] theorem warpEff_wf (f : Warp → Warp) (s : State) (w : Warp) (h : s.memWf = true) :
    EffWf (warpEff f s w) := by
  unfold warpEff
  repeat' (first | assumption)

@[simp] theorem slotEff_wf (d : Dst) (g : Nat) (res : State → Warp → List Nat × Flags) (s : State) (w : Warp) (h : s.memWf = true) :
    EffWf (slotEff d g res s w) := by
  unfold slotEff
  repeat' (first | assumption | split)

end Sys2Proof.Laws
end

