-- ==== Sys2Proof/Laws/WfLane.lean ====
section
/-! SUPPORT. The operations of Machine/Lane.lean keep every memory in canonical form. -/

set_option Elab.async false

namespace Sys2Proof.Laws

open Sys2Proof Sys2Proof.Machine

@[simp] theorem aluIssue_wf (i : Instr) (f : AluOp) (weight : Nat) (rdD : Bool) (op : ElemOp) (s : State) (h : s.memWf = true) :
    State.memWf (aluIssue i f weight rdD op s) = true := by
  unfold aluIssue
  repeat' (first | (solve | simp (maxDischargeDepth := 12) [*]))

@[simp] theorem unIssue_wf (i : Instr) (f : AluUn) (op : ElemOp) (s : State) (h : s.memWf = true) :
    State.memWf (unIssue i f op s) = true := by
  unfold unIssue
  repeat' (first | (solve | simp (maxDischargeDepth := 12) [*]))

@[simp] theorem immIssue_wf (i : Instr) (f : AluImm) (op : ElemOp) (s : State) (h : s.memWf = true) :
    State.memWf (immIssue i f op s) = true := by
  unfold immIssue
  repeat' (first | (solve | simp (maxDischargeDepth := 12) [*]))

@[simp] theorem shImmIssue_wf (i : Instr) (f : ShImm) (op : ElemOp) (s : State) (h : s.memWf = true) :
    State.memWf (shImmIssue i f op s) = true := by
  unfold shImmIssue
  repeat' (first | (solve | simp (maxDischargeDepth := 12) [*]))

@[simp] theorem shortIssue_wf (i : Instr) (f : Short) (weight : Nat) (t : NumTy) (op : ElemOp) (s : State) (h : s.memWf = true) :
    State.memWf (shortIssue i f weight t op s) = true := by
  unfold shortIssue
  repeat' (first | (solve | simp (maxDischargeDepth := 12) [*]))

@[simp] theorem execIadd_wf (f : AluOp) (s : State) (h : s.memWf = true) :
    ResWf (execIadd f s) := by
  unfold execIadd
  repeat' (first | (solve | simp (maxDischargeDepth := 12) [*]))

@[simp] theorem execIsub_wf (f : AluOp) (s : State) (h : s.memWf = true) :
    ResWf (execIsub f s) := by
  unfold execIsub
  repeat' (first | (solve | simp (maxDischargeDepth := 12) [*]))

@[simp] theorem execIadds_wf (f : AluOp) (s : State) (h : s.memWf = true) :
    ResWf (execIadds f s) := by
  unfold execIadds
  repeat' (first | (solve | simp (maxDischargeDepth := 12) [*]))

@[simp] theorem execIsubs_wf (f : AluOp) (s : State) (h : s.memWf = true) :
    ResWf (execIsubs f s) := by
  unfold execIsubs
  repeat' (first | (solve | simp (maxDischargeDepth := 12) [*]))

@[simp] theorem execIaddi_wf (f : AluImm) (s : State) (h : s.memWf = true) :
    ResWf (execIaddi f s) := by
  unfold execIaddi
  repeat' (first | (solve | simp (maxDischargeDepth := 12) [*]))

@[simp] theorem execImul_wf (f : AluOp) (s : State) (h : s.memWf = true) :
    ResWf (execImul f s) := by
  unfold execImul
  repeat' (first | (solve | simp (maxDischargeDepth := 12) [*]))

@[simp] theorem execImulh_wf (f : AluOp) (s : State) (h : s.memWf = true) :
    ResWf (execImulh f s) := by
  unfold execImulh
  repeat' (first | (solve | simp (maxDischargeDepth := 12) [*]))

@[simp] theorem execImad_wf (f : AluOp) (s : State) (h : s.memWf = true) :
    ResWf (execImad f s) := by
  unfold execImad
  repeat' (first | (solve | simp (maxDischargeDepth := 12) [*]))

@[simp] theorem execImin_wf (f : AluOp) (s : State) (h : s.memWf = true) :
    ResWf (execImin f s) := by
  unfold execImin
  repeat' (first | (solve | simp (maxDischargeDepth := 12) [*]))

@[simp] theorem execImax_wf (f : AluOp) (s : State) (h : s.memWf = true) :
    ResWf (execImax f s) := by
  unfold execImax
  repeat' (first | (solve | simp (maxDischargeDepth := 12) [*]))

@[simp] theorem execIabs_wf (f : AluUn) (s : State) (h : s.memWf = true) :
    ResWf (execIabs f s) := by
  unfold execIabs
  repeat' (first | (solve | simp (maxDischargeDepth := 12) [*]))

@[simp] theorem execIneg_wf (f : AluUn) (s : State) (h : s.memWf = true) :
    ResWf (execIneg f s) := by
  unfold execIneg
  repeat' (first | (solve | simp (maxDischargeDepth := 12) [*]))

@[simp] theorem execAnd_wf (f : AluOp) (s : State) (h : s.memWf = true) :
    ResWf (execAnd f s) := by
  unfold execAnd
  repeat' (first | (solve | simp (maxDischargeDepth := 12) [*]))

@[simp] theorem execOr_wf (f : AluOp) (s : State) (h : s.memWf = true) :
    ResWf (execOr f s) := by
  unfold execOr
  repeat' (first | (solve | simp (maxDischargeDepth := 12) [*]))

@[simp] theorem execXor_wf (f : AluOp) (s : State) (h : s.memWf = true) :
    ResWf (execXor f s) := by
  unfold execXor
  repeat' (first | (solve | simp (maxDischargeDepth := 12) [*]))

@[simp] theorem execAndn_wf (f : AluOp) (s : State) (h : s.memWf = true) :
    ResWf (execAndn f s) := by
  unfold execAndn
  repeat' (first | (solve | simp (maxDischargeDepth := 12) [*]))

@[simp] theorem execAndi_wf (f : AluImm) (s : State) (h : s.memWf = true) :
    ResWf (execAndi f s) := by
  unfold execAndi
  repeat' (first | (solve | simp (maxDischargeDepth := 12) [*]))

@[simp] theorem execOri_wf (f : AluImm) (s : State) (h : s.memWf = true) :
    ResWf (execOri f s) := by
  unfold execOri
  repeat' (first | (solve | simp (maxDischargeDepth := 12) [*]))

@[simp] theorem execXori_wf (f : AluImm) (s : State) (h : s.memWf = true) :
    ResWf (execXori f s) := by
  unfold execXori
  repeat' (first | (solve | simp (maxDischargeDepth := 12) [*]))

@[simp] theorem execSel_wf (f : AluOp) (s : State) (h : s.memWf = true) :
    ResWf (execSel f s) := by
  unfold execSel
  repeat' (first | (solve | simp (maxDischargeDepth := 12) [*]))

@[simp] theorem execMov_wf (f : AluUn) (s : State) (h : s.memWf = true) :
    ResWf (execMov f s) := by
  unfold execMov
  repeat' (first | (solve | simp (maxDischargeDepth := 12) [*]))

@[simp] theorem execMovi_wf (f : MovImm) (s : State) (h : s.memWf = true) :
    ResWf (execMovi f s) := by
  unfold execMovi
  repeat' (first | (solve | simp (maxDischargeDepth := 12) [*]))

@[simp] theorem execShl_wf (f : AluOp) (s : State) (h : s.memWf = true) :
    ResWf (execShl f s) := by
  unfold execShl
  repeat' (first | (solve | simp (maxDischargeDepth := 12) [*]))

@[simp] theorem execShr_wf (f : AluOp) (s : State) (h : s.memWf = true) :
    ResWf (execShr f s) := by
  unfold execShr
  repeat' (first | (solve | simp (maxDischargeDepth := 12) [*]))

@[simp] theorem execSra_wf (f : AluOp) (s : State) (h : s.memWf = true) :
    ResWf (execSra f s) := by
  unfold execSra
  repeat' (first | (solve | simp (maxDischargeDepth := 12) [*]))

@[simp] theorem execRot_wf (f : AluOp) (s : State) (h : s.memWf = true) :
    ResWf (execRot f s) := by
  unfold execRot
  repeat' (first | (solve | simp (maxDischargeDepth := 12) [*]))

@[simp] theorem execShli_wf (f : ShImm) (s : State) (h : s.memWf = true) :
    ResWf (execShli f s) := by
  unfold execShli
  repeat' (first | (solve | simp (maxDischargeDepth := 12) [*]))

@[simp] theorem execShri_wf (f : ShImm) (s : State) (h : s.memWf = true) :
    ResWf (execShri f s) := by
  unfold execShri
  repeat' (first | (solve | simp (maxDischargeDepth := 12) [*]))

@[simp] theorem execSrai_wf (f : ShImm) (s : State) (h : s.memWf = true) :
    ResWf (execSrai f s) := by
  unfold execSrai
  repeat' (first | (solve | simp (maxDischargeDepth := 12) [*]))

@[simp] theorem execRoti_wf (f : ShImm) (s : State) (h : s.memWf = true) :
    ResWf (execRoti f s) := by
  unfold execRoti
  repeat' (first | (solve | simp (maxDischargeDepth := 12) [*]))

@[simp] theorem execPopc_wf (f : AluUn) (s : State) (h : s.memWf = true) :
    ResWf (execPopc f s) := by
  unfold execPopc
  repeat' (first | (solve | simp (maxDischargeDepth := 12) [*]))

@[simp] theorem execClz_wf (f : AluUn) (s : State) (h : s.memWf = true) :
    ResWf (execClz f s) := by
  unfold execClz
  repeat' (first | (solve | simp (maxDischargeDepth := 12) [*]))

@[simp] theorem execCtz_wf (f : AluUn) (s : State) (h : s.memWf = true) :
    ResWf (execCtz f s) := by
  unfold execCtz
  repeat' (first | (solve | simp (maxDischargeDepth := 12) [*]))

@[simp] theorem execBrev_wf (f : AluUn) (s : State) (h : s.memWf = true) :
    ResWf (execBrev f s) := by
  unfold execBrev
  repeat' (first | (solve | simp (maxDischargeDepth := 12) [*]))

@[simp] theorem execBfx_wf (f : AluOp) (s : State) (h : s.memWf = true) :
    ResWf (execBfx f s) := by
  unfold execBfx
  repeat' (first | (solve | simp (maxDischargeDepth := 12) [*]))

@[simp] theorem execBfxs_wf (f : AluOp) (s : State) (h : s.memWf = true) :
    ResWf (execBfxs f s) := by
  unfold execBfxs
  repeat' (first | (solve | simp (maxDischargeDepth := 12) [*]))

@[simp] theorem execBfi_wf (f : AluOp) (s : State) (h : s.memWf = true) :
    ResWf (execBfi f s) := by
  unfold execBfi
  repeat' (first | (solve | simp (maxDischargeDepth := 12) [*]))

@[simp] theorem execLea_wf (f : AluOp) (s : State) (h : s.memWf = true) :
    ResWf (execLea f s) := by
  unfold execLea
  repeat' (first | (solve | simp (maxDischargeDepth := 12) [*]))

@[simp] theorem execIseteq_wf (f : AluOp) (s : State) (h : s.memWf = true) :
    ResWf (execIseteq f s) := by
  unfold execIseteq
  repeat' (first | (solve | simp (maxDischargeDepth := 12) [*]))

@[simp] theorem execIsetne_wf (f : AluOp) (s : State) (h : s.memWf = true) :
    ResWf (execIsetne f s) := by
  unfold execIsetne
  repeat' (first | (solve | simp (maxDischargeDepth := 12) [*]))

@[simp] theorem execIsetlt_wf (f : AluOp) (s : State) (h : s.memWf = true) :
    ResWf (execIsetlt f s) := by
  unfold execIsetlt
  repeat' (first | (solve | simp (maxDischargeDepth := 12) [*]))

@[simp] theorem execIsetle_wf (f : AluOp) (s : State) (h : s.memWf = true) :
    ResWf (execIsetle f s) := by
  unfold execIsetle
  repeat' (first | (solve | simp (maxDischargeDepth := 12) [*]))

@[simp] theorem execIsetgt_wf (f : AluOp) (s : State) (h : s.memWf = true) :
    ResWf (execIsetgt f s) := by
  unfold execIsetgt
  repeat' (first | (solve | simp (maxDischargeDepth := 12) [*]))

@[simp] theorem execIsetge_wf (f : AluOp) (s : State) (h : s.memWf = true) :
    ResWf (execIsetge f s) := by
  unfold execIsetge
  repeat' (first | (solve | simp (maxDischargeDepth := 12) [*]))

@[simp] theorem execItest_wf (f : AluOp) (s : State) (h : s.memWf = true) :
    ResWf (execItest f s) := by
  unfold execItest
  repeat' (first | (solve | simp (maxDischargeDepth := 12) [*]))

@[simp] theorem execMov16_wf (f : Short) (s : State) (h : s.memWf = true) :
    ResWf (execMov16 f s) := by
  unfold execMov16
  repeat' (first | (solve | simp (maxDischargeDepth := 12) [*]))

@[simp] theorem execZeroHalfword_wf (s : State) (h : s.memWf = true) :
    ResWf (execZeroHalfword s) := by
  unfold execZeroHalfword
  repeat' (first | (solve | simp (maxDischargeDepth := 12) [*]))

@[simp] theorem execIadd16_wf (f : Short) (s : State) (h : s.memWf = true) :
    ResWf (execIadd16 f s) := by
  unfold execIadd16
  repeat' (first | (solve | simp (maxDischargeDepth := 12) [*]))

@[simp] theorem execIsub16_wf (f : Short) (s : State) (h : s.memWf = true) :
    ResWf (execIsub16 f s) := by
  unfold execIsub16
  repeat' (first | (solve | simp (maxDischargeDepth := 12) [*]))

@[simp] theorem execAnd16_wf (f : Short) (s : State) (h : s.memWf = true) :
    ResWf (execAnd16 f s) := by
  unfold execAnd16
  repeat' (first | (solve | simp (maxDischargeDepth := 12) [*]))

@[simp] theorem execOr16_wf (f : Short) (s : State) (h : s.memWf = true) :
    ResWf (execOr16 f s) := by
  unfold execOr16
  repeat' (first | (solve | simp (maxDischargeDepth := 12) [*]))

@[simp] theorem execXor16_wf (f : Short) (s : State) (h : s.memWf = true) :
    ResWf (execXor16 f s) := by
  unfold execXor16
  repeat' (first | (solve | simp (maxDischargeDepth := 12) [*]))

@[simp] theorem execImul16_wf (f : Short) (s : State) (h : s.memWf = true) :
    ResWf (execImul16 f s) := by
  unfold execImul16
  repeat' (first | (solve | simp (maxDischargeDepth := 12) [*]))

@[simp] theorem shortImmIssue_wf (i : Instr) (f : Short) (rdD : Bool) (op : ElemOp) (s : State) (h : s.memWf = true) :
    State.memWf (shortImmIssue i f rdD op s) = true := by
  unfold shortImmIssue
  repeat' (first | (solve | simp (maxDischargeDepth := 12) [*]))

@[simp] theorem execShli16_wf (f : Short) (s : State) (h : s.memWf = true) :
    ResWf (execShli16 f s) := by
  unfold execShli16
  repeat' (first | (solve | simp (maxDischargeDepth := 12) [*]))

@[simp] theorem execShri16_wf (f : Short) (s : State) (h : s.memWf = true) :
    ResWf (execShri16 f s) := by
  unfold execShri16
  repeat' (first | (solve | simp (maxDischargeDepth := 12) [*]))

@[simp] theorem execMovi16_wf (f : Short) (s : State) (h : s.memWf = true) :
    ResWf (execMovi16 f s) := by
  unfold execMovi16
  repeat' (first | (solve | simp (maxDischargeDepth := 12) [*]))

@[simp] theorem execIaddi16_wf (f : Short) (s : State) (h : s.memWf = true) :
    ResWf (execIaddi16 f s) := by
  unfold execIaddi16
  repeat' (first | (solve | simp (maxDischargeDepth := 12) [*]))

end Sys2Proof.Laws
end

