-- ==== Sys2Proof/Laws/WfFlt.lean ====
section
/-! SUPPORT. The operations of Machine/Flt.lean keep every memory in canonical form. -/

set_option Elab.async false

namespace Sys2Proof.Laws

open Sys2Proof Sys2Proof.Machine

@[simp] theorem fltIssue_wf (i : Instr) (f : FltOp) (rdD : Bool) (op : NumMode → ElemOp) (s : State) (h : s.memWf = true) :
    State.memWf (fltIssue i f rdD op s) = true := by
  unfold fltIssue
  repeat' (first | (solve | simp (maxDischargeDepth := 12) [*]))

@[simp] theorem fltUnIssue_wf (i : Instr) (f : FltUn) (op : NumMode → ElemOp) (s : State) (h : s.memWf = true) :
    State.memWf (fltUnIssue i f op s) = true := by
  unfold fltUnIssue
  repeat' (first | (solve | simp (maxDischargeDepth := 12) [*]))

@[simp] theorem fnIssue_wf (i : Instr) (f : FltUn) (fn : Fn) (s : State) (h : s.memWf = true) :
    State.memWf (fnIssue i f fn s) = true := by
  unfold fnIssue
  repeat' (first | (solve | simp (maxDischargeDepth := 12) [*]))

@[simp] theorem execFadd_wf (f : FltOp) (s : State) (h : s.memWf = true) :
    ResWf (execFadd f s) := by
  unfold execFadd
  repeat' (first | (solve | simp (maxDischargeDepth := 12) [*]))

@[simp] theorem execFsub_wf (f : FltOp) (s : State) (h : s.memWf = true) :
    ResWf (execFsub f s) := by
  unfold execFsub
  repeat' (first | (solve | simp (maxDischargeDepth := 12) [*]))

@[simp] theorem execFmul_wf (f : FltOp) (s : State) (h : s.memWf = true) :
    ResWf (execFmul f s) := by
  unfold execFmul
  repeat' (first | (solve | simp (maxDischargeDepth := 12) [*]))

@[simp] theorem execFfma_wf (f : FltOp) (s : State) (h : s.memWf = true) :
    ResWf (execFfma f s) := by
  unfold execFfma
  repeat' (first | (solve | simp (maxDischargeDepth := 12) [*]))

@[simp] theorem execFmin_wf (f : FltOp) (s : State) (h : s.memWf = true) :
    ResWf (execFmin f s) := by
  unfold execFmin
  repeat' (first | (solve | simp (maxDischargeDepth := 12) [*]))

@[simp] theorem execFmax_wf (f : FltOp) (s : State) (h : s.memWf = true) :
    ResWf (execFmax f s) := by
  unfold execFmax
  repeat' (first | (solve | simp (maxDischargeDepth := 12) [*]))

@[simp] theorem execFabs_wf (f : FltUn) (s : State) (h : s.memWf = true) :
    ResWf (execFabs f s) := by
  unfold execFabs
  repeat' (first | (solve | simp (maxDischargeDepth := 12) [*]))

@[simp] theorem execFneg_wf (f : FltUn) (s : State) (h : s.memWf = true) :
    ResWf (execFneg f s) := by
  unfold execFneg
  repeat' (first | (solve | simp (maxDischargeDepth := 12) [*]))

@[simp] theorem execFrcp_wf (f : FltUn) (s : State) (h : s.memWf = true) :
    ResWf (execFrcp f s) := by
  unfold execFrcp
  repeat' (first | (solve | simp (maxDischargeDepth := 12) [*]))

@[simp] theorem execFrsq_wf (f : FltUn) (s : State) (h : s.memWf = true) :
    ResWf (execFrsq f s) := by
  unfold execFrsq
  repeat' (first | (solve | simp (maxDischargeDepth := 12) [*]))

@[simp] theorem execFsqrt_wf (f : FltUn) (s : State) (h : s.memWf = true) :
    ResWf (execFsqrt f s) := by
  unfold execFsqrt
  repeat' (first | (solve | simp (maxDischargeDepth := 12) [*]))

@[simp] theorem execFexp2_wf (f : FltUn) (s : State) (h : s.memWf = true) :
    ResWf (execFexp2 f s) := by
  unfold execFexp2
  repeat' (first | (solve | simp (maxDischargeDepth := 12) [*]))

@[simp] theorem execFlog2_wf (f : FltUn) (s : State) (h : s.memWf = true) :
    ResWf (execFlog2 f s) := by
  unfold execFlog2
  repeat' (first | (solve | simp (maxDischargeDepth := 12) [*]))

@[simp] theorem execFsin_wf (f : FltUn) (s : State) (h : s.memWf = true) :
    ResWf (execFsin f s) := by
  unfold execFsin
  repeat' (first | (solve | simp (maxDischargeDepth := 12) [*]))

@[simp] theorem execFcos_wf (f : FltUn) (s : State) (h : s.memWf = true) :
    ResWf (execFcos f s) := by
  unfold execFcos
  repeat' (first | (solve | simp (maxDischargeDepth := 12) [*]))

@[simp] theorem execFrnd_wf (f : FltUn) (s : State) (h : s.memWf = true) :
    ResWf (execFrnd f s) := by
  unfold execFrnd
  repeat' (first | (solve | simp (maxDischargeDepth := 12) [*]))

@[simp] theorem execFseteq_wf (f : FltOp) (s : State) (h : s.memWf = true) :
    ResWf (execFseteq f s) := by
  unfold execFseteq
  repeat' (first | (solve | simp (maxDischargeDepth := 12) [*]))

@[simp] theorem execFsetne_wf (f : FltOp) (s : State) (h : s.memWf = true) :
    ResWf (execFsetne f s) := by
  unfold execFsetne
  repeat' (first | (solve | simp (maxDischargeDepth := 12) [*]))

@[simp] theorem execFsetlt_wf (f : FltOp) (s : State) (h : s.memWf = true) :
    ResWf (execFsetlt f s) := by
  unfold execFsetlt
  repeat' (first | (solve | simp (maxDischargeDepth := 12) [*]))

@[simp] theorem execFsetle_wf (f : FltOp) (s : State) (h : s.memWf = true) :
    ResWf (execFsetle f s) := by
  unfold execFsetle
  repeat' (first | (solve | simp (maxDischargeDepth := 12) [*]))

@[simp] theorem execFsetgt_wf (f : FltOp) (s : State) (h : s.memWf = true) :
    ResWf (execFsetgt f s) := by
  unfold execFsetgt
  repeat' (first | (solve | simp (maxDischargeDepth := 12) [*]))

@[simp] theorem execFsetge_wf (f : FltOp) (s : State) (h : s.memWf = true) :
    ResWf (execFsetge f s) := by
  unfold execFsetge
  repeat' (first | (solve | simp (maxDischargeDepth := 12) [*]))

@[simp] theorem execFsetun_wf (f : FltOp) (s : State) (h : s.memWf = true) :
    ResWf (execFsetun f s) := by
  unfold execFsetun
  repeat' (first | (solve | simp (maxDischargeDepth := 12) [*]))

@[simp] theorem execFclass_wf (f : FltUn) (s : State) (h : s.memWf = true) :
    ResWf (execFclass f s) := by
  unfold execFclass
  repeat' (first | (solve | simp (maxDischargeDepth := 12) [*]))

@[simp] theorem execCvt_wf (f : CvtOp) (s : State) (h : s.memWf = true) :
    ResWf (execCvt f s) := by
  unfold execCvt
  repeat' (first | (solve | simp (maxDischargeDepth := 12) [*]))

@[simp] theorem execF8pk_wf (f : F8PkOp) (s : State) (h : s.memWf = true) :
    ResWf (execF8pk f s) := by
  unfold execF8pk
  repeat' (first | (solve | simp (maxDischargeDepth := 12) [*]))

@[simp] theorem execF8unpk_wf (f : F8UnpkOp) (s : State) (h : s.memWf = true) :
    ResWf (execF8unpk f s) := by
  unfold execF8unpk
  repeat' (first | (solve | simp (maxDischargeDepth := 12) [*]))

@[simp] theorem execSepk_wf (f : SeOp) (s : State) (h : s.memWf = true) :
    ResWf (execSepk f s) := by
  unfold execSepk
  repeat' (first
    | assumption | with_reducible apply (resWf_next _).2 | with_reducible apply issue_wf | with_reducible intro _
    | split)

@[simp] theorem execSeunpk_wf (f : SeOp) (s : State) (h : s.memWf = true) :
    ResWf (execSeunpk f s) := by
  unfold execSeunpk
  repeat' (first | (solve | simp (maxDischargeDepth := 12) [*]))

@[simp] theorem shortFltIssue_wf (i : Instr) (f : Short) (op : NumMode → ElemOp) (s : State) (h : s.memWf = true) :
    State.memWf (shortFltIssue i f op s) = true := by
  unfold shortFltIssue
  repeat' (first | (solve | simp (maxDischargeDepth := 12) [*]))

@[simp] theorem execFadd16_wf (f : Short) (s : State) (h : s.memWf = true) :
    ResWf (execFadd16 f s) := by
  unfold execFadd16
  repeat' (first | (solve | simp (maxDischargeDepth := 12) [*]))

@[simp] theorem execFmul16_wf (f : Short) (s : State) (h : s.memWf = true) :
    ResWf (execFmul16 f s) := by
  unfold execFmul16
  repeat' (first | (solve | simp (maxDischargeDepth := 12) [*]))

@[simp] theorem execFsub16_wf (f : Short) (s : State) (h : s.memWf = true) :
    ResWf (execFsub16 f s) := by
  unfold execFsub16
  repeat' (first | (solve | simp (maxDischargeDepth := 12) [*]))

end Sys2Proof.Laws
end

