-- ==== Sys2Proof/Laws/WfXl.lean ====
section
/-! SUPPORT. The operations of Machine/Xl.lean keep every memory in canonical form. -/

set_option Elab.async false

namespace Sys2Proof.Laws

open Sys2Proof Sys2Proof.Machine

@[simp] theorem xlIssue_wf (i : Instr) (d : Dst) (w : Width) (uses : List Use) (res : Warp → List Nat × Flags) (s : State) (h : s.memWf = true) :
    State.memWf (xlIssue i d w uses res s) = true := by
  unfold xlIssue
  repeat' (first | (solve | simp (maxDischargeDepth := 12) [*]))

@[simp] theorem execShfl_wf (f : AluOp) (s : State) (h : s.memWf = true) :
    ResWf (execShfl f s) := by
  unfold execShfl
  repeat' (first | (solve | simp (maxDischargeDepth := 12) [*]))

@[simp] theorem execShflx_wf (f : AluOp) (s : State) (h : s.memWf = true) :
    ResWf (execShflx f s) := by
  unfold execShflx
  repeat' (first | (solve | simp (maxDischargeDepth := 12) [*]))

@[simp] theorem execShflu_wf (f : AluOp) (s : State) (h : s.memWf = true) :
    ResWf (execShflu f s) := by
  unfold execShflu
  repeat' (first | (solve | simp (maxDischargeDepth := 12) [*]))

@[simp] theorem execShfld_wf (f : AluOp) (s : State) (h : s.memWf = true) :
    ResWf (execShfld f s) := by
  unfold execShfld
  repeat' (first | (solve | simp (maxDischargeDepth := 12) [*]))

@[simp] theorem execVany_wf (f : AluUn) (s : State) (h : s.memWf = true) :
    ResWf (execVany f s) := by
  unfold execVany
  repeat' (first | (solve | simp (maxDischargeDepth := 12) [*]))

@[simp] theorem execVall_wf (f : AluUn) (s : State) (h : s.memWf = true) :
    ResWf (execVall f s) := by
  unfold execVall
  repeat' (first | (solve | simp (maxDischargeDepth := 12) [*]))

@[simp] theorem execVuni_wf (f : AluUn) (s : State) (h : s.memWf = true) :
    ResWf (execVuni f s) := by
  unfold execVuni
  repeat' (first | (solve | simp (maxDischargeDepth := 12) [*]))

@[simp] theorem execBallot_wf (f : AluUn) (s : State) (h : s.memWf = true) :
    ResWf (execBallot f s) := by
  unfold execBallot
  repeat' (first | (solve | simp (maxDischargeDepth := 12) [*]))

@[simp] theorem execMatchv_wf (f : AluUn) (s : State) (h : s.memWf = true) :
    ResWf (execMatchv f s) := by
  unfold execMatchv
  repeat' (first | (solve | simp (maxDischargeDepth := 12) [*]))

@[simp] theorem execScan_wf (f : RedOp) (s : State) (h : s.memWf = true) :
    ResWf (execScan f s) := by
  unfold execScan
  repeat' (first | (solve | simp (maxDischargeDepth := 12) [*]))

@[simp] theorem execScanx_wf (f : RedOp) (s : State) (h : s.memWf = true) :
    ResWf (execScanx f s) := by
  unfold execScanx
  repeat' (first | (solve | simp (maxDischargeDepth := 12) [*]))

@[simp] theorem execRed_wf (f : RedOp) (s : State) (h : s.memWf = true) :
    ResWf (execRed f s) := by
  unfold execRed
  repeat' (first | (solve | simp (maxDischargeDepth := 12) [*]))

@[simp] theorem execSegred_wf (f : SegOp) (s : State) (h : s.memWf = true) :
    ResWf (execSegred f s) := by
  unfold execSegred
  repeat' (first | (solve | simp (maxDischargeDepth := 12) [*]))

@[simp] theorem execCmprs_wf (f : AluOp) (s : State) (h : s.memWf = true) :
    ResWf (execCmprs f s) := by
  unfold execCmprs
  repeat' (first | (solve | simp (maxDischargeDepth := 12) [*]))

@[simp] theorem execExpnd_wf (f : AluOp) (s : State) (h : s.memWf = true) :
    ResWf (execExpnd f s) := by
  unfold execExpnd
  repeat' (first | (solve | simp (maxDischargeDepth := 12) [*]))

end Sys2Proof.Laws
end

