-- ==== Sys2Proof/Laws/WfScratch.lean ====
section
/-! SUPPORT. The operations of Machine/Scratch.lean keep every memory in canonical form. -/

set_option Elab.async false

namespace Sys2Proof.Laws

open Sys2Proof Sys2Proof.Machine

@[simp] theorem setScrPoison_wf (s : State) (core a : Nat) (p : Bool) (h : s.memWf = true) :
    State.memWf (setScrPoison s core a p) = true := by
  unfold setScrPoison
  repeat' (first | assumption)

@[simp] theorem scrWrite_wf (s : State) (core a : Nat) (bs : List Byte) (h : s.memWf = true) :
    State.memWf (scrWrite s core a bs) = true := by
  unfold scrWrite
  repeat' (first
    | (solve | simp (maxDischargeDepth := 12) [*]) | with_reducible apply foldl_wf | with_reducible intro _ | split
    | dsimp only)

@[simp] theorem scrSetPoison_wf (s : State) (core a n : Nat) (h : s.memWf = true) :
    State.memWf (scrSetPoison s core a n) = true := by
  unfold scrSetPoison
  repeat' (first | assumption | with_reducible apply foldl_wf | with_reducible intro _ | split | dsimp only)

@[simp] theorem staleTables_wf (s : State) (core page : Nat) (h : s.memWf = true) :
    State.memWf (staleTables s core page) = true := by
  unfold staleTables
  repeat' (first | assumption)

@[simp] theorem bumpGen_wf (s : State) (core page : Nat) (h : s.memWf = true) :
    State.memWf (bumpGen s core page) = true := by
  unfold bumpGen
  repeat' (first | assumption | split | dsimp only)

@[simp] theorem bumpRange_wf (s : State) (core a n : Nat) (h : s.memWf = true) :
    State.memWf (bumpRange s core a n) = true := by
  unfold bumpRange
  repeat' (first
    | (solve | simp (maxDischargeDepth := 12) [*]) | with_reducible apply foldl_wf | with_reducible intro _ | split)

@[simp] theorem bumpPages_wf (s : State) (core : Nat) (pages : List Nat) (h : s.memWf = true) :
    State.memWf (bumpPages s core pages) = true := by
  unfold bumpPages
  repeat' (first
    | (solve | simp (maxDischargeDepth := 12) [*]) | with_reducible apply foldl_wf | with_reducible intro _)

end Sys2Proof.Laws
end

