-- ==== Sys2Proof/Laws/WfMemAcc.lean ====
section
/-! SUPPORT. The operations of Machine/MemAcc.lean keep every memory in canonical form. -/

set_option Elab.async false

namespace Sys2Proof.Laws

open Sys2Proof Sys2Proof.Machine

@[simp] theorem addAccess_wf (s : State) (w : Warp) (m : MemForm) (d : SlotDst) (as : List LaneAcc) (sext : Bool) (h : s.memWf = true) :
    State.memWf (addAccess s w m d as sext) = true := by
  unfold addAccess
  repeat' (first | assumption)

@[simp] theorem accessEff_wf (m : MemForm) (dst : Warp → SlotDst) (data data2 : Warp → List Nat) (sext : Bool) (s : State) (w : Warp) (h : s.memWf = true) :
    EffWf (accessEff m dst data data2 sext s w) := by
  unfold accessEff
  repeat' (first | (solve | simp (maxDischargeDepth := 12) [*]) | split | dsimp only)

@[simp] theorem loadIssue_wf (i : Instr) (f : LoadOp) (scratch : Bool) (s : State) (h : s.memWf = true) :
    State.memWf (loadIssue i f scratch s) = true := by
  unfold loadIssue
  repeat' (first | (solve | simp (maxDischargeDepth := 12) [*]))

@[simp] theorem storeIssue_wf (i : Instr) (f : StoreOp) (scratch : Bool) (s : State) (h : s.memWf = true) :
    State.memWf (storeIssue i f scratch s) = true := by
  unfold storeIssue
  repeat' (first | (solve | simp (maxDischargeDepth := 12) [*]))

@[simp] theorem execLdg_wf (f : LoadOp) (s : State) (h : s.memWf = true) :
    ResWf (execLdg f s) := by
  unfold execLdg
  repeat' (first | (solve | simp (maxDischargeDepth := 12) [*]))

@[simp] theorem execStg_wf (f : StoreOp) (s : State) (h : s.memWf = true) :
    ResWf (execStg f s) := by
  unfold execStg
  repeat' (first | (solve | simp (maxDischargeDepth := 12) [*]))

@[simp] theorem execLds_wf (f : LoadOp) (s : State) (h : s.memWf = true) :
    ResWf (execLds f s) := by
  unfold execLds
  repeat' (first | (solve | simp (maxDischargeDepth := 12) [*]))

@[simp] theorem execSts_wf (f : StoreOp) (s : State) (h : s.memWf = true) :
    ResWf (execSts f s) := by
  unfold execSts
  repeat' (first | (solve | simp (maxDischargeDepth := 12) [*]))

@[simp] theorem execLds16_wf (a d : Fin 32) (s : State) (h : s.memWf = true) :
    ResWf (execLds16 a d s) := by
  unfold execLds16
  repeat' (first | (solve | simp (maxDischargeDepth := 12) [*]))

@[simp] theorem execSts16_wf (a d : Fin 32) (s : State) (h : s.memWf = true) :
    ResWf (execSts16 a d s) := by
  unfold execSts16
  repeat' (first | (solve | simp (maxDischargeDepth := 12) [*]))

@[simp] theorem clearFrame_wf (s : State) (w : Warp) (h : s.memWf = true) : State.memWf (clearFrame s w) = true := by
  unfold clearFrame
  repeat' (first | (solve | simp (maxDischargeDepth := 12) [*]) | split)

@[simp] theorem compressEff_wf (m : MemForm) (data : Warp → List Nat) (s : State) (w : Warp) (h : s.memWf = true) :
    EffWf (compressEff m data s w) := by
  unfold compressEff
  repeat' (first | (solve | simp (maxDischargeDepth := 12) [*]) | split | dsimp only)

@[simp] theorem compressIssue_wf (i : Instr) (f : StoreOp) (scratch : Bool) (s : State) (h : s.memWf = true) :
    State.memWf (compressIssue i f scratch s) = true := by
  unfold compressIssue
  repeat' (first | (solve | simp (maxDischargeDepth := 12) [*]))

@[simp] theorem execCstg_wf (f : StoreOp) (s : State) (h : s.memWf = true) :
    ResWf (execCstg f s) := by
  unfold execCstg
  repeat' (first | (solve | simp (maxDischargeDepth := 12) [*]))

@[simp] theorem execCsts_wf (f : StoreOp) (s : State) (h : s.memWf = true) :
    ResWf (execCsts f s) := by
  unfold execCsts
  repeat' (first | (solve | simp (maxDischargeDepth := 12) [*]))

@[simp] theorem atomIssue_wf (i : Instr) (d : Dst) (a : Opnd) (imm size : Nat) (op : AccOp) (cas : Bool) (ord : Order) (scope : Scope) (scratch : Bool) (s : State) (h : s.memWf = true) :
    State.memWf (atomIssue i d a imm size op cas ord scope scratch s) = true := by
  unfold atomIssue
  repeat' (first | (solve | simp (maxDischargeDepth := 12) [*]))

@[simp] theorem execAtomg_wf (f : AtomGOp) (s : State) (h : s.memWf = true) :
    ResWf (execAtomg f s) := by
  unfold execAtomg
  repeat' (first | (solve | simp (maxDischargeDepth := 12) [*]))

@[simp] theorem execAtomx_wf (f : AtomXOp) (s : State) (h : s.memWf = true) :
    ResWf (execAtomx f s) := by
  unfold execAtomx
  repeat' (first | (solve | simp (maxDischargeDepth := 12) [*]))

@[simp] theorem execAtoms_wf (f : AtomSOp) (s : State) (h : s.memWf = true) :
    ResWf (execAtoms f s) := by
  unfold execAtoms
  repeat' (first | (solve | simp (maxDischargeDepth := 12) [*]) | split)

@[simp] theorem startCollapse_wf (s : State) (l : Nat) (vec : BitVec 8) (h : s.memWf = true) :
    State.memWf (startCollapse s l vec) = true := by
  unfold startCollapse
  repeat' (first | assumption)

@[simp] theorem allocReplica_wf (s : State) (d l : Nat) (h : s.memWf = true) :
    State.memWf (allocReplica s d l) = true := by
  unfold allocReplica
  repeat' (first | assumption | split)

@[simp] theorem dieLoad_wf (s : State) (ctx d pa n : Nat) (thru rm copy : Bool) (h : s.memWf = true) :
    OptPairWf (dieLoad s ctx d pa n thru rm copy) := by
  unfold dieLoad
  repeat' (first | (simp (maxDischargeDepth := 12) [*]; done) | dsimp only | split)

@[simp] theorem takeNumber_wf (s : State) (d pa : Nat) (h : s.memWf = true) :
    (takeNumber s d pa).1.memWf = true := by
  unfold takeNumber
  repeat' (first | assumption)

@[simp] theorem stageWrite_wf (s : State) (ctx d pa size data : Nat) (pois : Bool) (mt : BitVec 2) (warp slot : Nat) (atom : Option (LaneAcc × Bool)) (h : s.memWf = true) :
    State.memWf (stageWrite s ctx d pa size data pois mt warp slot atom) = true := by
  unfold stageWrite
  repeat' (first | (simp (maxDischargeDepth := 12) [*]; done))

@[simp] theorem doneLane_wf (s : State) (wk slot lane v : Nat) (p : Bool) (h : s.memWf = true) :
    State.memWf (doneLane s wk slot lane v p) = true := by
  unfold doneLane
  repeat' (first | (solve | simp (maxDischargeDepth := 12) [*]))

@[simp] theorem doneAtomic_wf (s : State) (wk slot : Nat) (a : LaneAcc) (old : Nat) (p : Bool) (h : s.memWf = true) :
    State.memWf (doneAtomic s wk slot a old p) = true := by
  unfold doneAtomic
  repeat' (first | (solve | simp (maxDischargeDepth := 12) [*]) | split)

@[simp] theorem enterLane_wf (s : State) (wk slot lane : Nat) (h : s.memWf = true) :
    State.memWf (enterLane s wk slot lane) = true := by
  unfold enterLane
  repeat' (first | (simp (maxDischargeDepth := 12) [*]; done))

@[simp] theorem freeBytes_wf (s : State) (n : Nat) (h : s.memWf = true) :
    (freeBytes s n).1.memWf = true := by
  unfold freeBytes
  repeat' (first | assumption)

@[simp] theorem programValue_wf (s : State) (ctx : Nat) (a : LaneAcc) (v : Nat) (h : s.memWf = true) :
    (programValue s ctx a v).1.memWf = true := by
  unfold programValue
  repeat' (first | assumption | split)

@[simp] theorem performDev_wf (s : State) (w : Warp) (slot : Nat) (a : LaneAcc) (pa : Nat) (mt : BitVec 2) (rm : Bool) (h : s.memWf = true) :
    State.memWf (performDev s w slot a pa mt rm) = true := by
  unfold performDev
  repeat' (first | dsimp only | split)
  all_goals (try have hx := dieLoad_wf _ _ _ _ _ _ _ _ h _ ‹_›)
  all_goals (try dsimp only at *)
  all_goals (first | with_reducible assumption | simp (maxDischargeDepth := 12) [*])

/-- An access on a plain byte store keeps its canonical form. -/
@[simp] theorem accessBytes_wf (m : Memory) (pois : SMap Bool) (k : Nat) (a : LaneAcc) (suppress : Bool)
    (h : Memory.wf m = true) : Memory.wf (accessBytes m pois k a suppress).1 = true := by
  unfold accessBytes
  dsimp only
  split
  · exact h
  · simp [h]
  · split <;> simp [h]

@[simp] theorem performHost_wf (s : State) (w : Warp) (slot : Nat) (a : LaneAcc) (pa : Nat) (h : s.memWf = true) :
    State.memWf (performHost s w slot a pa) = true := by
  unfold performHost
  repeat' (first | (simp (maxDischargeDepth := 12) [*]; done) | dsimp only | split)

@[simp] theorem performFabric_wf (s : State) (w : Warp) (slot : Nat) (a : LaneAcc) (pa : Nat) (h : s.memWf = true) :
    State.memWf (performFabric s w slot a pa) = true := by
  unfold performFabric
  repeat' (first | (solve | simp (maxDischargeDepth := 12) [*]) | split)

@[simp] theorem performScratch_wf (s : State) (w : Warp) (sl : Slot) (a : LaneAcc) (core p : Nat) (h : s.memWf = true) :
    State.memWf (performScratch s w sl a core p) = true := by
  unfold performScratch
  repeat' (first | (solve | simp (maxDischargeDepth := 12) [*]) | split | dsimp only)

@[simp] theorem modStaged_wf (s : State) (d num : Nat) (f : Staged → Staged) (h : s.memWf = true) :
    State.memWf (modStaged s d num f) = true := by
  unfold modStaged
  repeat' (first | assumption)

@[simp] theorem arriveStaged_wf (s : State) (d num : Nat) (h : s.memWf = true) :
    State.memWf (arriveStaged s d num) = true := by
  unfold arriveStaged
  repeat' (first | assumption | split | dsimp only)

@[simp] theorem performPosted_wf (s : State) (n : Nat) (h : s.memWf = true) : State.memWf (performPosted s n) = true := by
  unfold performPosted
  repeat' (first | (solve | simp (maxDischargeDepth := 12) [*]) | split)

@[simp] theorem execSliceAccess_wf (r : SliceReq) (s : State) (h : s.memWf = true) :
    ResWf (execSliceAccess r s) := by
  unfold execSliceAccess
  repeat' (first | (solve | simp (maxDischargeDepth := 12) [*]) | split)

@[simp] theorem execRemoteHalfAccess_wf (wk slot lane : Nat) (s : State) (h : s.memWf = true) :
    ResWf (execRemoteHalfAccess wk slot lane s) := by
  unfold execRemoteHalfAccess
  repeat' (first | (solve | simp (maxDischargeDepth := 12) [*]) | split)

@[simp] theorem drainRoutes_wf (s : State) (h : s.memWf = true) :
    State.memWf (drainRoutes s) = true := by
  unfold drainRoutes
  repeat' (first | assumption)

@[simp] theorem replyTo_wf (s : State) (port v : Nat) (p : Bool) (h : s.memWf = true) :
    State.memWf (replyTo s port v p) = true := modLinks_wf _ _ h

@[simp] theorem inboundAtomic_wf (s : State) (port o : Nat) (a : LaneAcc) (h : s.memWf = true) :
    State.memWf (inboundAtomic s port o a) = true := by
  unfold inboundAtomic
  repeat' (first | (solve | simp (maxDischargeDepth := 12) [*]) | dsimp only | split)

@[simp] theorem performInbound_wf (s : State) (port o : Nat) (r : InReq) (h : s.memWf = true) :
    State.memWf (performInbound s port o r) = true := by
  unfold performInbound
  repeat' (first | (solve | simp (maxDischargeDepth := 12) [*]) | dsimp only | split)

@[simp] theorem inboundTurn_wf (s : State) (port : Nat) (h : s.memWf = true) :
    State.memWf (inboundTurn s port) = true := by
  unfold inboundTurn
  repeat' (first | (solve | simp (maxDischargeDepth := 12) [*]) | split)

@[simp] theorem execFabricAccess_wf (port : Nat) (s : State) (h : s.memWf = true) :
    ResWf (execFabricAccess port s) := by
  unfold execFabricAccess
  repeat' (first | (solve | simp (maxDischargeDepth := 12) [*]) | split | dsimp only)

@[simp] theorem endCollapse_wf (s : State) (l : Nat) (h : s.memWf = true) :
    State.memWf (endCollapse s l) = true := by
  unfold endCollapse
  repeat' (first | assumption | split | dsimp only)

@[simp] theorem execReplicaInvalidate_wf (line die : Nat) (s : State) (h : s.memWf = true) :
    ResWf (execReplicaInvalidate line die s) := by
  unfold execReplicaInvalidate
  repeat' (first | (solve | simp (maxDischargeDepth := 12) [*]) | split)

@[simp] theorem execCollapseComplete_wf (line : Nat) (s : State) (h : s.memWf = true) :
    ResWf (execCollapseComplete line s) := by
  unfold execCollapseComplete
  repeat' (first | (solve | simp (maxDischargeDepth := 12) [*]) | split)

@[simp] theorem unstage_wf (s : State) (die num : Nat) (h : s.memWf = true) :
    State.memWf (unstage s die num) = true := by
  unfold unstage
  repeat' (first | (simp (maxDischargeDepth := 12) [*]; done))

@[simp] theorem applyAtomic_wf (s : State) (die : Nat) (x : Staged) (a : LaneAcc) (suppress : Bool) (h : s.memWf = true) :
    State.memWf (applyAtomic s die x a suppress) = true := by
  unfold applyAtomic
  repeat' (first | (simp (maxDischargeDepth := 12) [*]; done) | dsimp only | split)

@[simp] theorem execSliceWriteApply_wf (die num : Nat) (s : State) (h : s.memWf = true) :
    ResWf (execSliceWriteApply die num s) := by
  unfold execSliceWriteApply
  repeat' (first | (solve | simp (maxDischargeDepth := 12) [*]) | split)

end Sys2Proof.Laws
end

