-- ==== Sys2Proof/Laws/WfSpecial.lean ====
section
/-! SUPPORT. The operations of Machine/Special.lean keep every memory in canonical form. -/

set_option Elab.async false

namespace Sys2Proof.Laws

open Sys2Proof Sys2Proof.Machine

@[simp] theorem consume_wf (s : State) (w : Warp) (k : Nat) (m : Msg) (rest : List Msg) (h : s.memWf = true) :
    (consume s w k m rest).1.memWf = true := by
  unfold consume
  repeat' (first | assumption)

@[simp] theorem rdsRecv_wf (d : Dst) (k : Nat) (s : State) (w : Warp) (h : s.memWf = true) :
    EffWf (rdsRecv d k s w) := by
  unfold rdsRecv
  repeat' (first | (solve | simp (maxDischargeDepth := 12) [*]) | split)

@[simp] theorem execRds_wf (d : Dst) (sp : Fin 32) (s : State) (h : s.memWf = true) :
    ResWf (execRds d sp s) := by
  unfold execRds
  repeat' (first | (solve | simp (maxDischargeDepth := 12) [*]) | with_reducible apply (resWf_next _).2 | split)

@[simp] theorem inject_wf (s : State) (m : Msg) (core : Nat) (h : s.memWf = true) :
    State.memWf (inject s m core) = true := by
  unfold inject
  repeat' (first | (simp (maxDischargeDepth := 12) [*]; done) | split)

@[simp] theorem sendMsg_wf (k : Nat) (vals : List Nat) (s : State) (w : Warp) (h : s.memWf = true) :
    EffWf (sendMsg k vals s w) := by
  unfold sendMsg
  repeat' (first | (solve | simp (maxDischargeDepth := 12) [*]) | split | dsimp only)

@[simp] theorem execWrs_wf (a : Opnd) (sp : Fin 32) (s : State) (h : s.memWf = true) :
    ResWf (execWrs a sp s) := by
  unfold execWrs
  repeat' (first
    | (solve | simp (maxDischargeDepth := 12) [*]) | with_reducible apply (resWf_next _).2
    | with_reducible apply issue_wf | with_reducible intro _ | split)

@[simp] theorem execMessageArrive_wf (k : Nat) (s : State) (h : s.memWf = true) :
    ResWf (execMessageArrive k s) := by
  unfold execMessageArrive
  repeat' (first | (solve | simp (maxDischargeDepth := 12) [*]) | split | dsimp only)

@[simp] theorem execCreditReturn_wf (k : Nat) (s : State) (h : s.memWf = true) :
    ResWf (execCreditReturn k s) := by
  unfold execCreditReturn
  repeat' (first | (solve | simp (maxDischargeDepth := 12) [*]) | split | dsimp only)

end Sys2Proof.Laws
end

