-- ==== Sys2Proof/Laws/WfSched.lean ====
section
/-! SUPPORT. The operations of Machine/Sched.lean keep every memory in canonical form. -/

set_option Elab.async false

namespace Sys2Proof.Laws

open Sys2Proof Sys2Proof.Machine

@[simp] theorem execRunStart_wf (core quarter : Nat) (s : State) (h : s.memWf = true) :
    ResWf (execRunStart core quarter s) := by
  unfold execRunStart
  repeat' (first | (solve | simp (maxDischargeDepth := 12) [*]) | split)

@[simp] theorem execBlockedRunResume_wf (k : Nat) (s : State) (h : s.memWf = true) :
    ResWf (execBlockedRunResume k s) := by
  unfold execBlockedRunResume
  repeat' (first | (solve | simp (maxDischargeDepth := 12) [*]) | split)

@[simp] theorem execPriorityPromote_wf (k : Nat) (s : State) (h : s.memWf = true) :
    ResWf (execPriorityPromote k s) := by
  unfold execPriorityPromote
  repeat' (first | (solve | simp (maxDischargeDepth := 12) [*]) | split)

@[simp] theorem execTrapDeliver_wf (k : Nat) (s : State) (h : s.memWf = true) :
    ResWf (execTrapDeliver k s) := by
  unfold execTrapDeliver
  repeat' (first | (solve | simp (maxDischargeDepth := 12) [*]) | split | dsimp only)

end Sys2Proof.Laws
end

