-- ==== Sys2Proof/Laws/WfCtl.lean ====
section
/-! SUPPORT. The operations of Machine/Ctl.lean keep every memory in canonical form. -/

set_option Elab.async false

namespace Sys2Proof.Laws

open Sys2Proof Sys2Proof.Machine

@[simp] theorem ctIssue_wf (i : Instr) (uses : List Use) (acts : Bool) (lanes : Warp → Mask)
    (check : State → Warp → Option TrapReq) (eff : State → Warp → Eff) (s : State) (he : ∀ w, EffWf (eff s w))
    (h : s.memWf = true) : (ctIssue i uses acts lanes check eff s).memWf = true :=
  issue_wf _ _ _ _ he h

@[simp] theorem execBra_wf (off : BitVec 22) (s : State) (h : s.memWf = true) :
    ResWf (execBra off s) := by
  unfold execBra
  repeat' (first | (solve | simp (maxDischargeDepth := 12) [*]))

@[simp] theorem execBrc_wf (off : BitVec 16) (a : Opnd) (c : BrCond) (s : State) (h : s.memWf = true) :
    ResWf (execBrc off a c s) := by
  unfold execBrc
  repeat' (first | (solve | simp (maxDischargeDepth := 12) [*]))

@[simp] theorem pushEff_wf (e : Warp → StackEntry) (f : Warp → Warp) (s : State) (w : Warp) (h : s.memWf = true) :
    EffWf (pushEff e f s w) := by
  unfold pushEff
  repeat' (first | split)
  all_goals (try have hx := pushEntry_wf _ _ _ h _ _ _ ‹_›)
  all_goals (first | assumption | simp (maxDischargeDepth := 12) [*])

@[simp] theorem execBrx_wf (off : BitVec 16) (a : Opnd) (z : Bool) (s : State) (h : s.memWf = true) :
    ResWf (execBrx off a z s) := by
  unfold execBrx
  rw [resWf_next]
  apply ctIssue_wf _ _ _ _ _ _ _ _ h
  intro w
  dsimp only
  generalize predMask w a z = t
  split
  · exact warpEff_wf _ _ _ h
  · split
    · exact warpEff_wf _ _ _ h
    · exact pushEff_wf _ _ _ _ h

@[simp] theorem execPj_wf (off : BitVec 22) (s : State) (h : s.memWf = true) :
    ResWf (execPj off s) := by
  unfold execPj
  repeat' (first | (solve | simp (maxDischargeDepth := 12) [*]))

@[simp] theorem callEff_wf (tgt : Warp → Nat) (s : State) (w : Warp) (h : s.memWf = true) : EffWf (callEff tgt s w) :=
  pushEff_wf _ _ _ _ h

@[simp] theorem execCall_wf (off : BitVec 22) (s : State) (h : s.memWf = true) :
    ResWf (execCall off s) := by
  unfold execCall
  repeat' (first | (solve | simp (maxDischargeDepth := 12) [*]))

@[simp] theorem execCallr_wf (a : Opnd) (s : State) (h : s.memWf = true) :
    ResWf (execCallr a s) := by
  unfold execCallr
  repeat' (first
    | (solve | simp (maxDischargeDepth := 12) [*]) | with_reducible apply (resWf_next _).2
    | with_reducible apply ctIssue_wf | with_reducible intro _ | split)

@[simp] theorem execJmpr_wf (a : Opnd) (s : State) (h : s.memWf = true) :
    ResWf (execJmpr a s) := by
  unfold execJmpr
  repeat' (first
    | (solve | simp (maxDischargeDepth := 12) [*]) | with_reducible apply (resWf_next _).2
    | with_reducible apply ctIssue_wf | with_reducible intro _ | split)

theorem resolveMask_wf (fuel : Nat) (s : State) (w : Warp) (h : s.memWf = true) : StackWf (resolveMask fuel s w) := by
  induction fuel generalizing s w with
  | zero =>
    unfold resolveMask
    split
    · simp [h]
    · simp [h]
  | succ n ih =>
    unfold resolveMask
    split
    · simp [h]
    · cases hs : w.stack with
      | nil => simp [h]
      | cons x l =>
        dsimp only
        split <;> rename_i e
        · simp
        · simp
        · exact ih _ _ (popEntry_wf _ _ h _ _ _ e)
        · exact (stackWf_ok _ _ _).2 (popEntry_wf _ _ h _ _ _ e)

@[simp] theorem resolveEff_wf (s : State) (k : Nat) (w : Warp) (f : Warp → Warp) (h : s.memWf = true) :
    EffWf (resolveEff s k w f) := by
  unfold resolveEff
  split <;> rename_i e
  · simp
  · simp
  · exact (effWf_done _).2 (setWarp_wf _ _ _ (resolveMask_wf _ _ _ h _ _ _ e))

@[simp] theorem execJoin_wf (s : State) (h : s.memWf = true) :
    ResWf (execJoin s) := by
  unfold execJoin
  repeat' (first
    | with_reducible apply (resWf_next _).2 | with_reducible apply ctIssue_wf | with_reducible intro _ | split)
  all_goals (try have hx := popEntry_wf _ _ h _ _ _ ‹_›)
  all_goals (first | assumption | simp (maxDischargeDepth := 12) [*])

@[simp] theorem reportHeld_wf (s : State) (k : Nat) (w : Warp) (h : s.memWf = true) :
    State.memWf (reportHeld s k w) = true := by
  unfold reportHeld
  repeat' (first | assumption | with_reducible apply foldl_wf | with_reducible intro _)

@[simp] theorem exitEff_wf (finish : State → Warp → State × Warp) (s : State) (w : Warp) (hffinish : ∀ y0 y1, y0.memWf = true → (finish y0 y1).1.memWf = true) (h : s.memWf = true) :
    EffWf (exitEff finish s w) := by
  unfold exitEff
  repeat' (first | (simp (maxDischargeDepth := 12) [*]; done) | dsimp only | split)

@[simp] theorem spilledServed_wf (s : State) (w : Warp) (l : List (Nat × StackEntry)) (h : s.memWf = true) :
    State.memWf (spilledServed s w l) = true := by
  unfold spilledServed
  refine foldl_wf _ _ _ h fun t x ht => ?_
  split <;> simp [ht]

theorem rewriteSpilled_wf (s : State) (w : Warp) (b : Mask) (l : List (Nat × StackEntry)) (h : s.memWf = true) :
    ∀ t, rewriteSpilled s w b l = .inl t → t.memWf = true := by
  induction l generalizing s with
  | nil => intro t e; cases e; exact h
  | cons x l ih =>
    intro t e
    unfold rewriteSpilled at e
    split at e
    · cases e
    · exact ih _ (by simp [h]) t e

@[simp] theorem brkEff_wf (a : Opnd) (z : Bool) (s : State) (w : Warp) (h : s.memWf = true) :
    EffWf (brkEff a z s w) := by
  unfold brkEff
  repeat' (first | split | dsimp only)
  all_goals (try have hx := rewriteSpilled_wf _ _ _ _ (spilledServed_wf _ _ _ h) _ ‹_›)
  all_goals (first | assumption | simp (maxDischargeDepth := 12) [*])

@[simp] theorem execBrk_wf (a : Opnd) (z : Bool) (s : State) (h : s.memWf = true) :
    ResWf (execBrk a z s) := by
  unfold execBrk
  repeat' (first | (solve | simp (maxDischargeDepth := 12) [*]))

@[simp] theorem execMskrd_wf (d : Dst) (sel : MskSel) (s : State) (h : s.memWf = true) :
    ResWf (execMskrd d sel s) := by
  unfold execMskrd
  repeat' (first | (solve | simp (maxDischargeDepth := 12) [*]))

@[simp] theorem execMskwr_wf (a : Opnd) (s : State) (h : s.memWf = true) :
    ResWf (execMskwr a s) := by
  unfold execMskwr
  repeat' (first | (solve | simp (maxDischargeDepth := 12) [*]))

@[simp] theorem execMskand_wf (a : Opnd) (s : State) (h : s.memWf = true) :
    ResWf (execMskand a s) := by
  unfold execMskand
  repeat' (first | (solve | simp (maxDischargeDepth := 12) [*]))

@[simp] theorem execTrl_wf (mask : BitVec 6) (sBit y : Bool) (s : State) (h : s.memWf = true) :
    ResWf (execTrl mask sBit y s) := by
  unfold execTrl
  repeat' (first | (solve | simp (maxDischargeDepth := 12) [*]) | split)

@[simp] theorem execLimm_wf (imm : BitVec 25) (s : State) (h : s.memWf = true) :
    ResWf (execLimm imm s) := by
  unfold execLimm
  repeat' (first | (solve | simp (maxDischargeDepth := 12) [*]))

@[simp] theorem execFlgrd_wf (d : Dst) (b : Opnd) (s : State) (h : s.memWf = true) :
    ResWf (execFlgrd d b s) := by
  unfold execFlgrd
  repeat' (first
    | assumption | with_reducible apply (resWf_next _).2 | with_reducible apply issue_wf | with_reducible intro _
    | split)

@[simp] theorem execFlgwr_wf (a b : Opnd) (s : State) (h : s.memWf = true) :
    ResWf (execFlgwr a b s) := by
  unfold execFlgwr
  repeat' (first
    | assumption | with_reducible apply (resWf_next _).2 | with_reducible apply issue_wf | with_reducible intro _
    | split)

@[simp] theorem execTfence_wf (s : State) (h : s.memWf = true) :
    ResWf (execTfence s) := by
  unfold execTfence
  repeat' (first
    | (solve | simp (maxDischargeDepth := 12) [*]) | with_reducible apply (resWf_next _).2
    | with_reducible apply issue_wf | with_reducible intro _ | split | dsimp only)

@[simp] theorem execPrio_wf (a : Opnd) (s : State) (h : s.memWf = true) :
    ResWf (execPrio a s) := by
  unfold execPrio
  repeat' (first | (solve | simp (maxDischargeDepth := 12) [*]))

@[simp] theorem execYield_wf (s : State) (h : s.memWf = true) :
    ResWf (execYield s) := by
  unfold execYield
  repeat' (first | (solve | simp (maxDischargeDepth := 12) [*]))

@[simp] theorem settleRegrs_wf (s : State) (w : Warp) (size status : Nat) (h : s.memWf = true) :
    State.memWf (settleRegrs s w size status) = true := by
  unfold settleRegrs
  repeat' (first | (solve | simp (maxDischargeDepth := 12) [*]) | split)

@[simp] theorem grantRegrs_wf (s : State) (ps : List (Warp × Nat)) (h : s.memWf = true) :
    State.memWf (grantRegrs s ps) = true := by
  unfold grantRegrs
  repeat' (first
    | with_reducible assumption | with_reducible apply settleRegrs_wf | with_reducible apply foldl_wf
    | with_reducible intro _ | split)

@[simp] theorem examineRegrs_wf (s : State) (core q : Nat) (h : s.memWf = true) :
    State.memWf (examineRegrs s core q) = true := by
  unfold examineRegrs
  repeat' (first | (simp (maxDischargeDepth := 12) [*]; done))

@[simp] theorem regrsEff_wf (d : Dst) (a : Opnd) (s : State) (w : Warp) (h : s.memWf = true) :
    EffWf (regrsEff d a s w) := by
  unfold regrsEff
  repeat' (first | (solve | simp (maxDischargeDepth := 12) [*]) | split | dsimp only)

@[simp] theorem execRegrs_wf (d : Dst) (a : Opnd) (s : State) (h : s.memWf = true) :
    ResWf (execRegrs d a s) := by
  unfold execRegrs
  repeat' (first | (solve | simp (maxDischargeDepth := 12) [*]))

@[simp] theorem execRegrsGrant_wf (core quarter : Nat) (s : State) (h : s.memWf = true) :
    ResWf (execRegrsGrant core quarter s) := by
  unfold execRegrsGrant
  repeat' (first
    | (solve | simp (maxDischargeDepth := 12) [*]) | with_reducible apply (resWf_next _).2
    | with_reducible apply foldl_wf | with_reducible intro _ | split)

@[simp] theorem execRegrsDeny_wf (core quarter : Nat) (s : State) (h : s.memWf = true) :
    ResWf (execRegrsDeny core quarter s) := by
  unfold execRegrsDeny
  repeat' (first | (solve | simp (maxDischargeDepth := 12) [*]) | split | dsimp only)

@[simp] theorem execSleep_wf (a : Opnd) (s : State) (h : s.memWf = true) :
    ResWf (execSleep a s) := by
  unfold execSleep
  repeat' (first
    | (solve | simp (maxDischargeDepth := 12) [*]) | with_reducible apply (resWf_next _).2
    | with_reducible apply issue_wf | with_reducible intro _ | split | dsimp only)

@[simp] theorem execSleepExpire_wf (k : Nat) (s : State) (h : s.memWf = true) :
    ResWf (execSleepExpire k s) := by
  unfold execSleepExpire
  repeat' (first | (solve | simp (maxDischargeDepth := 12) [*]) | split)

@[simp] theorem execCsrr_wf (d : Dst) (r : Csr) (s : State) (h : s.memWf = true) :
    ResWf (execCsrr d r s) := by
  unfold execCsrr
  repeat' (first | (solve | simp (maxDischargeDepth := 12) [*]))

@[simp] theorem execCsrw_wf (r : Csr) (a : Opnd) (s : State) (h : s.memWf = true) :
    ResWf (execCsrw r a s) := by
  unfold execCsrw
  repeat' (first
    | assumption | with_reducible apply (resWf_next _).2 | with_reducible apply issue_wf | with_reducible intro _
    | split)

@[simp] theorem execNop_wf (s : State) (h : s.memWf = true) :
    ResWf (execNop s) := by
  unfold execNop
  repeat' (first | (solve | simp (maxDischargeDepth := 12) [*]))

@[simp] theorem trapEff_wf (code : BitVec 6) (s : State) (w : Warp) (h : s.memWf = true) :
    EffWf (trapEff code s w) := by
  unfold trapEff
  repeat' (first | (solve | simp (maxDischargeDepth := 12) [*]) | split | dsimp only)

@[simp] theorem execTrap_wf (code : BitVec 6) (s : State) (h : s.memWf = true) :
    ResWf (execTrap code s) := by
  unfold execTrap
  repeat' (first | (solve | simp (maxDischargeDepth := 12) [*]))

@[simp] theorem execBkpt_wf (s : State) (h : s.memWf = true) :
    ResWf (execBkpt s) := by
  unfold execBkpt
  repeat' (first
    | assumption | with_reducible apply (resWf_next _).2 | with_reducible apply issue_wf | with_reducible intro _
    | split)

@[simp] theorem joinClocks_wf (s : State) (h : s.memWf = true) : (joinClocks s).memWf = true :=
  foldl_wf _ _ _ h fun t x ht => setClock_wf t x _ ht

@[simp] theorem phaseEff_wf (finish : State → Warp → State × Warp) (s : State) (w : Warp) (hffinish : ∀ y0 y1, y0.memWf = true → (finish y0 y1).1.memWf = true) (h : s.memWf = true) :
    EffWf (phaseEff finish s w) := by
  unfold phaseEff
  repeat' (first | (simp (maxDischargeDepth := 12) [*]; done) | dsimp only | split)

end Sys2Proof.Laws
end

