-- ==== Sys2Proof/Laws/WfSync.lean ====
section
/-! SUPPORT. The operations of Machine/Sync.lean keep every memory in canonical form. -/

set_option Elab.async false

namespace Sys2Proof.Laws

open Sys2Proof Sys2Proof.Machine

@[simp] theorem execFence_wf (k : FenceKind) (scope : Scope) (s : State) (h : s.memWf = true) :
    ResWf (execFence k scope s) := by
  unfold execFence
  repeat' (first | (solve | simp (maxDischargeDepth := 12) [*]))

@[simp] theorem tlwaitEff_wf (e : Eng) (n : Opnd) (s : State) (w : Warp) (h : s.memWf = true) :
    EffWf (tlwaitEff e n s w) := by
  unfold tlwaitEff
  repeat' (first | (solve | simp (maxDischargeDepth := 12) [*]) | split | dsimp only)

@[simp] theorem execTlwait_wf (e : Eng) (n : Opnd) (s : State) (h : s.memWf = true) :
    ResWf (execTlwait e n s) := by
  unfold execTlwait
  repeat' (first | (solve | simp (maxDischargeDepth := 12) [*]))

@[simp] theorem execTlrd_wf (e : Eng) (d : Dst) (fault : Bool) (s : State) (h : s.memWf = true) :
    ResWf (execTlrd e d fault s) := by
  unfold execTlrd
  repeat' (first | (solve | simp (maxDischargeDepth := 12) [*]))

@[simp] theorem modBar_wf (s : State) (ck b : Nat) (f : Barrier → Barrier) (h : s.memWf = true) :
    State.memWf (modBar s ck b f) = true := by
  unfold modBar
  repeat' (first | (solve | simp (maxDischargeDepth := 12) [*]))

@[simp] theorem releaseWaiters_wf (s : State) (ck b : Nat) (ph : Bool) (h : s.memWf = true) :
    State.memWf (releaseWaiters s ck b ph) = true := by
  unfold releaseWaiters
  repeat' (first
    | (solve | simp (maxDischargeDepth := 12) [*]) | with_reducible apply foldl_wf | with_reducible intro _ | split)

@[simp] theorem completePhase_wf (s : State) (ck b : Nat) (x : Barrier) (h : s.memWf = true) :
    State.memWf (completePhase s ck b x) = true := by
  unfold completePhase
  repeat' (first | (solve | simp (maxDischargeDepth := 12) [*]))

@[simp] theorem chargeFar_wf (s : State) (c : Crew) (dst : Nat) (h : s.memWf = true) :
    State.memWf (chargeFar s c dst) = true := by
  unfold chargeFar
  repeat' (first | (simp (maxDischargeDepth := 12) [*]; done) | split)

@[simp] theorem postFar_wf (s : State) (c : Crew) (b : Nat) (ph : Bool) (h : s.memWf = true) :
    State.memWf (postFar s c b ph) = true := by
  unfold postFar
  repeat' (first
    | with_reducible assumption | with_reducible apply modLinks_wf | with_reducible apply chargeFar_wf
    | (simp only [memWf_mk, Bool.and_eq_true]; refine ⟨⟨⟨?_, ?_⟩, ?_⟩, ?_⟩) | with_reducible apply chan_wf
    | with_reducible apply fabric_wf | with_reducible apply hostMem_wf | with_reducible apply scr_wf
    | with_reducible apply foldl_wf | with_reducible intro _)

@[simp] theorem barSettle_wf (s : State) (ck b : Nat) (h : s.memWf = true) :
    State.memWf (barSettle s ck b) = true := by
  unfold barSettle
  repeat' (first | (solve | simp (maxDischargeDepth := 12) [*]) | split)

@[simp] theorem countArrival_wf (s : State) (ck b : Nat) (h : s.memWf = true) :
    State.memWf (countArrival s ck b) = true := by
  unfold countArrival
  repeat' (first | (solve | simp (maxDischargeDepth := 12) [*]))

@[simp] theorem arrive_wf (s : State) (w : Warp) (b : Nat) (scope : Scope) (h : s.memWf = true) :
    State.memWf (arrive s w b scope) = true := by
  unfold arrive
  repeat' (first | (solve | simp (maxDischargeDepth := 12) [*]) | split | dsimp only)

@[simp] theorem execBarinit_wf (c : Fin 4) (s : State) (h : s.memWf = true) :
    ResWf (execBarinit c s) := by
  unfold execBarinit
  repeat' (first
    | (solve | simp (maxDischargeDepth := 12) [*]) | with_reducible apply (resWf_next _).2
    | with_reducible apply issue_wf | with_reducible intro _ | split)

@[simp] theorem execBararv_wf (d : Dst) (c : Fin 4) (scope : Scope) (s : State) (h : s.memWf = true) :
    ResWf (execBararv d c scope s) := by
  unfold execBararv
  repeat' (first
    | (solve | simp (maxDischargeDepth := 12) [*]) | with_reducible apply (resWf_next _).2
    | with_reducible apply issue_wf | with_reducible intro _ | split)

@[simp] theorem execBarwait_wf (n : Opnd) (c : Fin 4) (scope : Scope) (s : State) (h : s.memWf = true) :
    ResWf (execBarwait n c scope s) := by
  unfold execBarwait
  repeat' (first
    | (solve | simp (maxDischargeDepth := 12) [*]) | with_reducible apply (resWf_next _).2
    | with_reducible apply issue_wf | with_reducible intro _ | split | dsimp only)

@[simp] theorem bararvwEff_wf (c : Fin 4) (scope : Scope) (s : State) (w : Warp) (h : s.memWf = true) :
    EffWf (bararvwEff c scope s w) := by
  unfold bararvwEff
  repeat' (first | (solve | simp (maxDischargeDepth := 12) [*]) | split | dsimp only)

@[simp] theorem execBararvw_wf (c : Fin 4) (scope : Scope) (s : State) (h : s.memWf = true) :
    ResWf (execBararvw c scope s) := by
  unfold execBararvw
  repeat' (first | (solve | simp (maxDischargeDepth := 12) [*]))

@[simp] theorem execFarArrival_wf (k : Nat) (s : State) (h : s.memWf = true) :
    ResWf (execFarArrival k s) := by
  unfold execFarArrival
  repeat' (first | (solve | simp (maxDischargeDepth := 12) [*]) | split | dsimp only)

end Sys2Proof.Laws
end

