-- ==== Sys2Proof/Laws/WfQueue.lean ====
section
/-! SUPPORT. The operations of Machine/Queue.lean keep every memory in canonical form. -/

set_option Elab.async false

namespace Sys2Proof.Laws

open Sys2Proof Sys2Proof.Machine

@[simp] theorem setQueueOf_wf (s : State) (ctx qb : Nat) (q : Queue) (h : s.memWf = true) :
    State.memWf (setQueueOf s ctx qb q) = true := by
  unfold setQueueOf
  repeat' (first | assumption)

@[simp] theorem finishSample_wf (s : State) (w : Warp) (h : s.memWf = true) :
    (finishSample s w).1.memWf = true := by
  unfold finishSample
  repeat' (first | assumption | split)

@[simp] theorem execExit_wf (s : State) (h : s.memWf = true) : ResWf (execExit s) :=
  (resWf_next _).2 (ctIssue_wf _ _ _ _ _ _ _ (fun w => exitEff_wf _ s w (fun s w hs => finishSample_wf s w hs) h) h)

@[simp] theorem execPhase_wf (s : State) (h : s.memWf = true) : ResWf (execPhase s) :=
  (resWf_next _).2 (issue_wf _ _ _ _ (fun w => phaseEff_wf _ s w (fun s w hs => finishSample_wf s w hs) h) h)

@[simp] theorem deliverItem_wf (s : State) (w : Warp) (qb start : Nat) (i : Item) (h : s.memWf = true) :
    (deliverItem s w qb start i).1.memWf = true := by
  unfold deliverItem
  repeat' (first | (simp (maxDischargeDepth := 12) [*]; done) | dsimp only | split)

@[simp] theorem chargeItem_wf (s : State) (ctx : Nat) (h : s.memWf = true) : State.memWf (chargeItem s ctx) = true :=
  chargeBytes_wf _ _ _ _ _ _ _ h

theorem tryTake_wf (s : State) (w : Warp) (qb start : Nat) (once : Bool) (h : s.memWf = true) :
    ∀ t w' word item, tryTake s w qb start once = .got t w' word item → t.memWf = true := by
  intro t w' word item e
  unfold tryTake at e
  dsimp only at e
  repeat' (split at e)
  all_goals (cases e)
  all_goals (simp (maxDischargeDepth := 12) [h])

@[simp] theorem takeEff_wf (d : Dst) (c : Fin 4) (scope : Scope) (once : Bool) (s : State) (w : Warp) (h : s.memWf = true) :
    EffWf (takeEff d c scope once s w) := by
  unfold takeEff
  repeat' (first | dsimp only | split)
  all_goals (try have hx := tryTake_wf _ _ _ _ _ (finishSample_wf _ _ h) _ _ _ _ ‹_›)
  all_goals (first | with_reducible assumption | simp (maxDischargeDepth := 12) [*])

@[simp] theorem execDeq_wf (d : Dst) (c : Fin 4) (scope : Scope) (s : State) (h : s.memWf = true) :
    ResWf (execDeq d c scope s) := by
  unfold execDeq
  repeat' (first | (solve | simp (maxDischargeDepth := 12) [*]))

@[simp] theorem execQtry_wf (d : Dst) (c : Fin 4) (scope : Scope) (s : State) (h : s.memWf = true) :
    ResWf (execQtry d c scope s) := by
  unfold execQtry
  repeat' (first | (solve | simp (maxDischargeDepth := 12) [*]))

@[simp] theorem appendItem_wf (s : State) (ctx qb sub tile : Nat) (data : List Word) (vc : VClock) (h : s.memWf = true) :
    State.memWf (appendItem s ctx qb sub tile data vc) = true := by
  unfold appendItem
  repeat' (first | (simp (maxDischargeDepth := 12) [*]; done))

@[simp] theorem tryAppend_wf (s : State) (w : Warp) (qb dest : Nat) (item : List Word) (close : Bool) (h : s.memWf = true) :
    OptPairWf (tryAppend s w qb dest item close) := by
  unfold tryAppend
  repeat' (first | (solve | simp (maxDischargeDepth := 12) [*]) | split | dsimp only)

@[simp] theorem enqEff_wf (d : Dst) (c : Fin 4) (scope : Scope) (close : Bool) (s : State) (w : Warp) (h : s.memWf = true) :
    EffWf (enqEff d c scope close s w) := by
  unfold enqEff
  repeat' (first | split | dsimp only)
  all_goals (try have hx := tryAppend_wf _ _ _ _ _ _ h _ ‹_›)
  all_goals (try dsimp only at *)
  all_goals (first | assumption | simp (maxDischargeDepth := 12) [*])

@[simp] theorem execEnq_wf (d : Dst) (c : Fin 4) (scope : Scope) (close : Bool) (s : State) (h : s.memWf = true) :
    ResWf (execEnq d c scope close s) := by
  unfold execEnq
  repeat' (first | (solve | simp (maxDischargeDepth := 12) [*]))

@[simp] theorem bindChannel_wf (s : State) (w : Warp) (x : Nat) (h : s.memWf = true) :
    State.memWf (bindChannel s w x) = true := by
  unfold bindChannel
  repeat' (first | (solve | simp (maxDischargeDepth := 12) [*]))

@[simp] theorem qbindEff_wf (c : Fin 4) (s : State) (w : Warp) (h : s.memWf = true) :
    EffWf (qbindEff c s w) := by
  unfold qbindEff
  repeat' (first | (solve | simp (maxDischargeDepth := 12) [*]) | split | dsimp only)

@[simp] theorem execQbind_wf (c : Fin 4) (s : State) (h : s.memWf = true) :
    ResWf (execQbind c s) := by
  unfold execQbind
  repeat' (first | (solve | simp (maxDischargeDepth := 12) [*]))

@[simp] theorem setBody_wf (s : State) (w : Warp) (id : Nat) (b : SlotBody) (h : s.memWf = true) :
    State.memWf (setBody s w id b) = true := by
  unfold setBody
  repeat' (first | assumption)

@[simp] theorem execQueueItemDeliver_wf (wk slot : Nat) (s : State) (h : s.memWf = true) :
    ResWf (execQueueItemDeliver wk slot s) := by
  unfold execQueueItemDeliver
  repeat' (first | split)
  all_goals (try have hx := tryAppend_wf _ _ _ _ _ _ h _ ‹_›)
  all_goals (try have hx := tryTake_wf _ _ _ _ _ h _ _ _ _ ‹_›)
  all_goals (try dsimp only at *)
  all_goals (first | with_reducible assumption | simp (maxDischargeDepth := 12) [*])

@[simp] theorem withdrawDeq_wf (s : State) (w : Warp) (sl : Slot) (h : s.memWf = true) :
    State.memWf (withdrawDeq s w sl) = true := by
  unfold withdrawDeq
  repeat' (first | assumption)

@[simp] theorem execQueueOrphan_wf (ctx qb : Nat) (s : State) (h : s.memWf = true) :
    ResWf (execQueueOrphan ctx qb s) := by
  unfold execQueueOrphan
  repeat' (first
    | assumption | with_reducible apply (resWf_next _).2 | with_reducible apply foldl_wf | with_reducible intro _
    | split)

end Sys2Proof.Laws
end

