-- ==== Sys2Proof/Laws/WfRecord.lean ====
section
/-! SUPPORT. The operations of Machine/Record.lean keep every memory in canonical form. -/

set_option Elab.async false

namespace Sys2Proof.Laws

open Sys2Proof Sys2Proof.Machine

theorem opt_use {r : Option State} {t : State} (h : OptWf r) (e : r = some t) : t.memWf = true := h _ e

theorem optPair_use {γ : Type} {r : Option (State × γ)} {t : State} {a : γ} (h : OptPairWf r) (e : r = some (t, a)) :
    t.memWf = true := h _ e

theorem pair_use {γ : Type} {r : State × γ} {t : State} {a : γ} (h : r.1.memWf = true) (e : r = (t, a)) :
    t.memWf = true := by subst e; exact h

theorem stack_use {r : StackRes} {t : State} {w : Warp} {x : Option StackEntry} (h : StackWf r) (e : r = .ok t w x) :
    t.memWf = true := h _ _ _ e

/-- What naming a record comes to keeps the memories in canonical form. -/
def RecWf (r : RecRes) : Prop :=
  match r with
  | .ok s _ => s.memWf = true
  | .trap _ => True
  | .wait s => s.memWf = true

@[simp] theorem recWf_ok (s : State) (ws : List Word) : RecWf (.ok s ws) ↔ s.memWf = true := Iff.rfl
@[simp] theorem recWf_trap (t : TrapReq) : RecWf (.trap t) := trivial
@[simp] theorem recWf_wait (s : State) : RecWf (.wait s) ↔ s.memWf = true := Iff.rfl

theorem rec_use {r : RecRes} {t : State} {ws : List Word} (h : RecWf r) (e : r = .ok t ws) : t.memWf = true := by
  subst e; exact h

theorem rec_use2 {r : RecRes} {t : State} (h : RecWf r) (e : r = .wait t) : t.memWf = true := by
  subst e; exact h

@[simp] theorem addOvf_wf (s : State) (ctx n : Nat) (h : s.memWf = true) :
    State.memWf (addOvf s ctx n) = true := by
  unfold addOvf
  repeat' (first | assumption)

@[simp] theorem touchRec_wf (s : State) (r : CachedRec) (h : s.memWf = true) :
    State.memWf (touchRec s r) = true := by
  unfold touchRec
  repeat' (first | assumption)

@[simp] theorem startFetch_wf (s : State) (core ctx h : Nat) (hs : s.memWf = true) :
    State.memWf (startFetch s core ctx h) = true := by
  unfold startFetch; split
  · exact hs
  · exact hs

@[simp] theorem needRec_wf (s : State) (w : Warp) (h : Nat) (hs : s.memWf = true) :
    RecWf (needRec s w h) := by
  unfold needRec
  repeat' (first | (solve | simp (maxDischargeDepth := 12) [*]) | split)

@[simp] theorem homeLoad_wf (s : State) (ctx core pa n : Nat) (thru copy : Bool) (h : s.memWf = true) :
    OptPairWf (homeLoad s ctx core pa n thru copy) := by
  unfold homeLoad
  repeat' (first | (solve | simp (maxDischargeDepth := 12) [*]) | split)

@[simp] theorem execRecordFetch_wf (core ctx handle : Nat) (s : State) (h : s.memWf = true) :
    ResWf (execRecordFetch core ctx handle s) := by
  unfold execRecordFetch
  repeat' (first
    | assumption | with_reducible apply (resWf_next _).2
    | with_reducible refine optPair_use (homeLoad_wf _ _ _ _ _ _ _ ?_) ‹_› | with_reducible apply touchRec_wf | split
    | dsimp only)

@[simp] theorem execRecld_wf (c : Fin 4) (s : State) (h : s.memWf = true) :
    ResWf (execRecld c s) := by
  unfold execRecld
  repeat' (first
    | (solve | simp (maxDischargeDepth := 12) [*]) | with_reducible apply (resWf_next _).2
    | with_reducible apply issue_wf | with_reducible intro _ | split | dsimp only)

@[simp] theorem dropRecs_wf (s : State) (core ctx : Nat) (p : Nat → Bool) (h : s.memWf = true) :
    State.memWf (dropRecs s core ctx p) = true := by
  unfold dropRecs
  repeat' (first | assumption)

@[simp] theorem execRecinv_wf (c : Fin 4) (s : State) (h : s.memWf = true) :
    ResWf (execRecinv c s) := by
  unfold execRecinv
  repeat' (first
    | assumption | with_reducible apply (resWf_next _).2 | with_reducible apply issue_wf | with_reducible intro _
    | split)

@[simp] theorem recqEff_wf (d : Dst) (c : Fin 4) (s : State) (w : Warp) (h : s.memWf = true) :
    EffWf (recqEff d c s w) := by
  unfold recqEff
  repeat' (first
    | (solve | simp (maxDischargeDepth := 12) [*]) | with_reducible apply (effWf_done _).2
    | with_reducible apply (effWf_hold _).2 | with_reducible refine rec_use (needRec_wf _ _ _ ?_) ‹_›
    | with_reducible refine rec_use2 (needRec_wf _ _ _ ?_) ‹_› | with_reducible apply setWarp_wf | split
    | dsimp only)

@[simp] theorem recqFetch_wf (s : State) (w : Warp) (x : Nat) (h : s.memWf = true) :
    RecWf (recqFetch s w x) := by
  unfold recqFetch
  repeat' (first | (simp (maxDischargeDepth := 12) [*]; done) | split)

@[simp] theorem execRecq_wf (d : Dst) (c : Fin 4) (s : State) (h : s.memWf = true) :
    ResWf (execRecq d c s) := by
  unfold execRecq
  repeat' (first | (solve | simp (maxDischargeDepth := 12) [*]))

end Sys2Proof.Laws
end

