-- ==== Sys2Proof/Laws/WfEngine.lean ====
section
/-! SUPPORT. The operations of Machine/Engine.lean keep every memory in canonical form. -/

set_option Elab.async false

namespace Sys2Proof.Laws

open Sys2Proof Sys2Proof.Machine

/-- What the checks of a command come to keeps the memories in canonical form. -/
def ChkWf (r : Checked) : Prop :=
  match r with
  | .trap _ => True
  | .stall s => s.memWf = true
  | .wait s => s.memWf = true
  | .ok s _ _ => s.memWf = true

@[simp] theorem chkWf_trap (t : TrapReq) : ChkWf (.trap t) := trivial
@[simp] theorem chkWf_stall (s : State) : ChkWf (.stall s) ↔ s.memWf = true := Iff.rfl
@[simp] theorem chkWf_wait (s : State) : ChkWf (.wait s) ↔ s.memWf = true := Iff.rfl
@[simp] theorem chkWf_ok (s : State) (a : Ask) (c : Option Ask) : ChkWf (.ok s a c) ↔ s.memWf = true := Iff.rfl

theorem chk_use {r : Checked} {t : State} {a : Ask} {c : Option Ask} (h : ChkWf r) (e : r = .ok t a c) :
    t.memWf = true := by subst e; exact h

theorem chk_use2 {r : Checked} {t : State} (h : ChkWf r) (e : r = .wait t) : t.memWf = true := by subst e; exact h

theorem chk_use3 {r : Checked} {t : State} (h : ChkWf r) (e : r = .stall t) : t.memWf = true := by subst e; exact h

/-- What an engine's access comes to keeps the memories in canonical form. -/
def GotWf {α : Type} (r : Got α) : Prop :=
  match r with
  | .ok s _ => s.memWf = true
  | .fault _ _ => True
  | .wait => True

@[simp] theorem gotWf_fault {α : Type} (a c : Nat) : GotWf (.fault a c : Got α) := trivial
@[simp] theorem gotWf_wait {α : Type} : GotWf (.wait : Got α) := trivial
@[simp] theorem gotWf_ok {α : Type} (s : State) (v : α) : GotWf (.ok s v) ↔ s.memWf = true := Iff.rfl

theorem got_use {α : Type} {r : Got α} {t : State} {v : α} (h : GotWf r) (e : r = .ok t v) : t.memWf = true := by
  subst e; exact h

/-- The next thing a head does keeps the memories in canonical form. -/
def AdvWf (r : Adv) : Prop :=
  match r with
  | .none => True
  | .fault _ _ => True
  | .ok s => s.memWf = true

@[simp] theorem advWf_none : AdvWf .none := trivial
@[simp] theorem advWf_fault (a c : Nat) : AdvWf (.fault a c) := trivial
@[simp] theorem advWf_ok (s : State) : AdvWf (.ok s) ↔ s.memWf = true := Iff.rfl

theorem adv_use {r : Adv} {t : State} (h : AdvWf r) (e : r = .ok t) : t.memWf = true := by subst e; exact h

@[simp] theorem acceptCmd_wf (s : State) (w : Warp) (a : Ask) (stream : Nat) (waitChain : Bool) (chain : Option Nat) (dead : Bool) (h : s.memWf = true) :
    State.memWf (acceptCmd s w a stream waitChain chain dead) = true := by
  unfold acceptCmd
  repeat' (first | (solve | simp (maxDischargeDepth := 12) [*]))

@[simp] theorem poisonSeq_wf (s : State) (core ctx eng n : Nat) (h : s.memWf = true) :
    State.memWf (poisonSeq s core ctx eng n) = true := by
  unfold poisonSeq
  repeat' (first | assumption)

@[simp] theorem setFaultMark_wf (s : State) (core ctx eng n : Nat) (h : s.memWf = true) :
    State.memWf (setFaultMark s core ctx eng n) = true := by
  unfold setFaultMark
  repeat' (first | assumption | with_reducible apply foldl_wf | with_reducible intro _ | split)

@[simp] theorem acceptPair_wf (s : State) (w : Warp) (a : Ask) (chain : Option Ask) (h : s.memWf = true) :
    State.memWf (acceptPair s w a chain) = true := by
  unfold acceptPair
  repeat' (first | (solve | simp (maxDischargeDepth := 12) [*]) | split | dsimp only)

@[simp] theorem cmdEff_wf (plan : State → Warp → Checked) (after : Nat → State → Warp → State) (s : State) (w : Warp) (hfplan : ∀ y0 y1, y0.memWf = true → ChkWf (plan y0 y1)) (hfafter : ∀ y0 y1 y2, y1.memWf = true → State.memWf (after y0 y1 y2) = true) (h : s.memWf = true) :
    EffWf (cmdEff plan after s w) := by
  unfold cmdEff
  repeat' (first
    | with_reducible apply (effWf_done _).2 | with_reducible apply (effWf_hold _).2
    | with_reducible refine chk_use (hfplan _ _ ?_) ‹_› | with_reducible refine chk_use2 (hfplan _ _ ?_) ‹_›
    | with_reducible refine chk_use3 (hfplan _ _ ?_) ‹_› | with_reducible apply hfafter
    | with_reducible apply modWarp_wf | with_reducible apply acceptPair_wf
    | (simp (maxDischargeDepth := 12) [*]; done) | split)

@[simp] theorem cmdIssue_wf (i : Instr) (c : Fin 4) (words : Nat) (long : Bool) (uses : List Use) (bad : State → Warp → Bool) (plan : State → Warp → Checked) (after : Nat → State → Warp → State) (s : State) (hfplan : ∀ y0 y1, y0.memWf = true → ChkWf (plan y0 y1)) (hfafter : ∀ y0 y1 y2, y1.memWf = true → State.memWf (after y0 y1 y2) = true) (h : s.memWf = true) :
    State.memWf (cmdIssue i c words long uses bad plan after s) = true := by
  unfold cmdIssue
  repeat' (first
    | with_reducible assumption | with_reducible apply issue_wf | with_reducible apply cmdEff_wf
    | with_reducible intro _)

@[simp] theorem noAfter_wf (u0 : Nat) (s : State) (u2 : Warp) (h : s.memWf = true) :
    State.memWf (noAfter u0 s u2) = true := by
  unfold noAfter
  repeat' (first | assumption)

@[simp] theorem got_each_wf {α β : Type} (f : State → α → Got β) (s : State) (l : List α) (h : s.memWf = true)
    (hff : ∀ y0 y1, y0.memWf = true → GotWf (f y0 y1)) : GotWf (Got.each f s l) := by
  induction l generalizing s with
  | nil => exact h
  | cons x l ih =>
    unfold Got.each
    have h0 := hff s x h
    cases e : f s x with
    | wait => simp
    | fault a c => simp
    | ok t b =>
      rw [e] at h0
      have h1 := ih t h0
      cases e' : Got.each f t l with
      | wait => simp [e']
      | fault a c => simp [e']
      | ok u bs =>
        rw [e'] at h1
        simpa [e'] using h1

@[simp] theorem readFlit_wf (core ctx va n : Nat) (copy : Bool) (s : State) (h : s.memWf = true) :
    GotWf (readFlit core ctx va n copy s) := by
  unfold readFlit
  repeat' (first
    | with_reducible refine optPair_use (homeLoad_wf _ _ _ _ _ _ _ ?_) ‹_› | with_reducible apply (gotWf_ok _ _).2
    | (solve | simp (maxDischargeDepth := 12) [*]) | split)

@[simp] theorem readRange_wf (core ctx va n : Nat) (copy : Bool) (s : State) (h : s.memWf = true) :
    GotWf (readRange core ctx va n copy s) := by
  unfold readRange
  repeat' (first
    | assumption | with_reducible apply got_each_wf | with_reducible apply readFlit_wf | with_reducible intro _)

@[simp] theorem writeFlit_wf (core ctx eng seq va : Nat) (copy : Bool) (d : Piece) (s : State) (h : s.memWf = true) :
    GotWf (writeFlit core ctx eng seq va copy d s) := by
  unfold writeFlit
  repeat' (first | (solve | simp (maxDischargeDepth := 12) [*]) | split)

@[simp] theorem writeRange_wf (core ctx eng seq va : Nat) (copy : Bool) (d : List Byte) (pois : Bool) (s : State) (h : s.memWf = true) :
    GotWf (writeRange core ctx eng seq va copy d pois s) := by
  unfold writeRange
  repeat' (first
    | assumption | with_reducible apply got_each_wf | with_reducible apply writeFlit_wf | with_reducible intro _)

@[simp] theorem scrApply_wf (s : State) (core : Nat) (ws : List (Nat × Piece)) (h : s.memWf = true) :
    State.memWf (scrApply s core ws) = true := by
  have hf : ∀ m : Memory, m.wf = true →
      (ws.foldl (fun m x => wrBytes m (scrKey core x.1) x.2.1) m).wf = true := by
    induction ws with
    | nil => exact fun m hm => hm
    | cons x l ih => exact fun m hm => ih _ (wrBytes_wf m _ _ hm)
  unfold scrApply
  apply bumpPages_wf
  apply foldl_wf
  · simp [h, hf]
  · intro t x ht
    simp [ht]

@[simp] theorem modHead_wf (s : State) (core eng : Nat) (f : Cmd → Cmd) (h : s.memWf = true) :
    State.memWf (modHead s core eng f) = true := by
  unfold modHead
  repeat' (first | assumption | split)

@[simp] theorem retireCmd_wf (s : State) (core eng : Nat) (fl : Flags) (h : s.memWf = true) :
    State.memWf (retireCmd s core eng fl) = true := by
  unfold retireCmd
  split
  · exact h
  · exact modWarp_wf _ _ _ h

@[simp] theorem stallHead_wf (s : State) (core eng : Nat) (c : Cmd) (va cause : Nat) (h : s.memWf = true) :
    State.memWf (stallHead s core eng c va cause) = true := by
  unfold stallHead
  repeat' (first | (solve | simp (maxDischargeDepth := 12) [*]))

end Sys2Proof.Laws
end

