-- ==== Sys2Proof/Laws/WfMatrix.lean ====
section
/-! SUPPORT. The operations of Machine/Matrix.lean keep every memory in canonical form. -/

set_option Elab.async false

namespace Sys2Proof.Laws

open Sys2Proof Sys2Proof.Machine

@[simp] theorem orIllegal_wf (w : Warp) (bad : Bool) (k : Checked) (hck : ChkWf k) :
    ChkWf (orIllegal w bad k) := by
  unfold orIllegal
  repeat' (first | (solve | simp (maxDischargeDepth := 12) [*]) | split)

@[simp] theorem withRec_wf (s : State) (w : Warp) (h : Nat) (f : State → TRec → Crew → Checked) (hs : s.memWf = true) (hff : ∀ y0 y1 y2, y0.memWf = true → ChkWf (f y0 y1 y2)) :
    ChkWf (withRec s w h f) := by
  unfold withRec
  repeat' (first
    | with_reducible apply hff | with_reducible refine rec_use (needRec_wf _ _ _ ?_) ‹_›
    | with_reducible refine rec_use2 (needRec_wf _ _ _ ?_) ‹_› | with_reducible apply orIllegal_wf
    | with_reducible apply (chkWf_wait _).2 | with_reducible apply (chkWf_stall _).2
    | (simp (maxDischargeDepth := 12) [*]; done) | split)

@[simp] theorem mmaPlan_wf (fresh : Bool) (x0 x1 : Nat) (s : State) (w : Warp) (h : s.memWf = true) :
    ChkWf (mmaPlan fresh x0 x1 s w) := by
  unfold mmaPlan
  repeat' (first
    | assumption | with_reducible apply orIllegal_wf | with_reducible apply withRec_wf | with_reducible intro _)

@[simp] theorem mmaIssue_wf (i : Instr) (fresh : Bool) (c : Fin 4) (s : State) (h : s.memWf = true) :
    State.memWf (mmaIssue i fresh c s) = true := by
  unfold mmaIssue
  repeat' (first
    | assumption | with_reducible apply cmdEff_wf | with_reducible apply cmdIssue_wf
    | with_reducible apply mmaPlan_wf | with_reducible intro _)

@[simp] theorem execMma_wf (c : Fin 4) (s : State) (h : s.memWf = true) :
    ResWf (execMma c s) := by
  unfold execMma
  repeat' (first | (solve | simp (maxDischargeDepth := 12) [*]))

@[simp] theorem execMman_wf (c : Fin 4) (s : State) (h : s.memWf = true) :
    ResWf (execMman c s) := by
  unfold execMman
  repeat' (first | (solve | simp (maxDischargeDepth := 12) [*]))

@[simp] theorem execAccz_wf (c : Fin 4) (s : State) (h : s.memWf = true) :
    ResWf (execAccz c s) := by
  unfold execAccz
  repeat' (first
    | with_reducible apply (resWf_next _).2 | with_reducible apply cmdEff_wf | with_reducible apply cmdIssue_wf
    | (solve | simp (maxDischargeDepth := 12) [*]) | with_reducible intro _ | split)

@[simp] theorem accPlan_wf (wr sat : Bool) (x0 x1 : Nat) (s : State) (w : Warp) (h : s.memWf = true) :
    ChkWf (accPlan wr sat x0 x1 s w) := by
  unfold accPlan
  repeat' (first
    | assumption | with_reducible apply orIllegal_wf | with_reducible apply withRec_wf | with_reducible intro _)

@[simp] theorem accrdSlot_wf (d : Dst) (n : Nat) (s : State) (w : Warp) (h : s.memWf = true) :
    State.memWf (accrdSlot d n s w) = true := by
  unfold accrdSlot
  repeat' (first | (solve | simp (maxDischargeDepth := 12) [*]))

@[simp] theorem execAccrd_wf (d : Dst) (c : Fin 4) (sat : Bool) (s : State) (h : s.memWf = true) :
    ResWf (execAccrd d c sat s) := by
  unfold execAccrd
  repeat' (first
    | assumption | with_reducible apply (resWf_next _).2 | with_reducible apply cmdEff_wf
    | with_reducible apply cmdIssue_wf | with_reducible apply accPlan_wf | with_reducible apply accrdSlot_wf
    | with_reducible intro _)

@[simp] theorem execAccwr_wf (c : Fin 4) (s : State) (h : s.memWf = true) :
    ResWf (execAccwr c s) := by
  unfold execAccwr
  repeat' (first
    | assumption | with_reducible apply (resWf_next _).2 | with_reducible apply cmdEff_wf
    | with_reducible apply cmdIssue_wf | with_reducible apply accPlan_wf | with_reducible intro _)

@[simp] theorem wbldPlan_wf (x0 x1 : Nat) (s : State) (w : Warp) (h : s.memWf = true) :
    ChkWf (wbldPlan x0 x1 s w) := by
  unfold wbldPlan
  repeat' (first
    | assumption | with_reducible apply orIllegal_wf | with_reducible apply withRec_wf | with_reducible intro _)

@[simp] theorem wbldAccept_wf (x0 : Nat) (u1 : Nat) (s : State) (w : Warp) (h : s.memWf = true) :
    State.memWf (wbldAccept x0 u1 s w) = true := by
  unfold wbldAccept
  split
  · exact h
  · split
    · split
      · exact h
      · exact modCrew_wf _ _ _ h
    · exact h

@[simp] theorem execWbld_wf (c : Fin 4) (s : State) (h : s.memWf = true) :
    ResWf (execWbld c s) := by
  unfold execWbld
  repeat' (first
    | assumption | with_reducible apply (resWf_next _).2 | with_reducible apply cmdEff_wf
    | with_reducible apply cmdIssue_wf | with_reducible apply wbldPlan_wf | with_reducible apply wbldAccept_wf
    | with_reducible intro _)

@[simp] theorem execWbq_wf (d : Dst) (c : Fin 4) (s : State) (h : s.memWf = true) :
    ResWf (execWbq d c s) := by
  unfold execWbq
  repeat' (first | (solve | simp (maxDischargeDepth := 12) [*]))

@[simp] theorem runMma_wf (s : State) (ck : Nat) (fresh : Bool) (a : TRec) (gb fr bfmt acc ncol nrow k : Nat) (h : s.memWf = true) :
    (runMma s ck fresh a gb fr bfmt acc ncol nrow k).1.memWf = true := by
  unfold runMma
  repeat' (first | assumption | split)

@[simp] theorem runAccz_wf (s : State) (ck acc : Nat) (h : s.memWf = true) :
    State.memWf (runAccz s ck acc) = true := by
  unfold runAccz
  repeat' (first | (solve | simp (maxDischargeDepth := 12) [*]))

@[simp] theorem runAccrd_wf (s : State) (ck ctx : Nat) (r : TRec) (acc row0 col0 nrow ncol : Nat) (sat : Bool) (h : s.memWf = true) :
    (runAccrd s ck ctx r acc row0 col0 nrow ncol sat).1.memWf = true := by
  unfold runAccrd
  repeat' (first | (solve | simp (maxDischargeDepth := 12) [*]) | split)

@[simp] theorem runAccwr_wf (s : State) (ck : Nat) (r : TRec) (acc row0 col0 nrow ncol : Nat) (h : s.memWf = true) :
    (runAccwr s ck r acc row0 col0 nrow ncol).1.memWf = true := by
  unfold runAccwr
  repeat' (first | assumption | split)

@[simp] theorem wbldRange_wf (core ctx : Nat) (c : Crew) (r : TRec) (p : Option Nat × Nat × Nat) (s : State) (h : s.memWf = true) :
    GotWf (wbldRange core ctx c r p s) := by
  unfold wbldRange
  repeat' (first
    | with_reducible refine got_use (readRange_wf _ _ _ _ _ _ ?_) ‹_› | with_reducible apply (gotWf_ok _ _).2
    | (solve | simp (maxDischargeDepth := 12) [*]) | split)

@[simp] theorem wbldSlice_wf (core ctx : Nat) (c : Crew) (r : TRec) (c0 c1 : Int) (t n : Nat) (s : State) (h : s.memWf = true) :
    GotWf (wbldSlice core ctx c r c0 c1 t n s) := by
  unfold wbldSlice
  repeat' (first
    | with_reducible refine got_use (got_each_wf _ _ _ ?_ ?_) ‹_› | with_reducible apply (gotWf_ok _ _).2
    | (solve | simp (maxDischargeDepth := 12) [*]) | with_reducible intro _ | split)

@[simp] theorem loadRegion_wf (core ctx ck fr ng : Nat) (r : TRec) (c0 c1 : Int) (more : Bool) (s : State) (h : s.memWf = true) :
    GotWf (loadRegion core ctx ck fr ng r c0 c1 more s) := by
  unfold loadRegion
  repeat' (first
    | with_reducible refine got_use (got_each_wf _ _ _ ?_ ?_) ‹_› | with_reducible apply modCrew_wf
    | with_reducible apply (gotWf_ok _ _).2 | (solve | simp (maxDischargeDepth := 12) [*]) | with_reducible intro _
    | split | dsimp only)

@[simp] theorem runMx_wf (s : State) (core : Nat) (c : Cmd) (h : s.memWf = true) :
    GotWf (runMx s core c) := by
  unfold runMx
  repeat' (first
    | with_reducible refine got_use (loadRegion_wf _ _ _ _ _ _ _ _ _ _ ?_) ‹_›
    | with_reducible apply (gotWf_ok _ _).2 | (solve | simp (maxDischargeDepth := 12) [*]) | split)

@[simp] theorem giveAccrd_wf (s : State) (c : Cmd) (h : s.memWf = true) :
    State.memWf (giveAccrd s c) = true := by
  unfold giveAccrd
  repeat' (first | (solve | simp (maxDischargeDepth := 12) [*]))

@[simp] theorem mxAdvance_wf (s : State) (core : Nat) (h : s.memWf = true) :
    AdvWf (mxAdvance s core) := by
  unfold mxAdvance
  repeat' (first
    | with_reducible refine got_use (runMx_wf _ _ _ ?_) ‹_› | with_reducible apply retireCmd_wf
    | with_reducible apply giveAccrd_wf | with_reducible apply (advWf_ok _).2
    | (solve | simp (maxDischargeDepth := 12) [*]) | split)

@[simp] theorem execMxRetire_wf (core : Nat) (s : State) (h : s.memWf = true) :
    ResWf (execMxRetire core s) := by
  unfold execMxRetire
  repeat' (first
    | assumption | with_reducible apply (resWf_next _).2 | with_reducible refine adv_use (mxAdvance_wf _ _ ?_) ‹_›
    | split)

end Sys2Proof.Laws
end

