-- ==== Sys2Proof/Laws/WfCopy.lean ====
section
/-! SUPPORT. The operations of Machine/Copy.lean keep every memory in canonical form. -/

set_option Elab.async false

namespace Sys2Proof.Laws

open Sys2Proof Sys2Proof.Machine

theorem rec_inj {s t : State} {a b : List Word} (h : s.memWf = true) (e : RecRes.ok s a = RecRes.ok t b) :
    t.memWf = true := by cases e; exact h

/-- A property that every step of a fold keeps holds after it. -/
theorem foldl_inv {σ β : Type} (P : σ → Prop) (f : σ → β → σ) (l : List β) (a : σ) (h : P a)
    (hf : ∀ t x, P t → P (f t x)) : P (l.foldl f a) := by
  induction l generalizing a with
  | nil => exact h
  | cons x l ih => exact ih _ (hf a x h)

@[simp] theorem copyPlan_wf (k : CopyKind) (q : Nat) (st cw : Bool) (scope : Scope) (x : Nat → Nat)
    (chain : Option (Bool × Nat × Nat)) (s : State) (w : Warp) (h : s.memWf = true) :
    ChkWf (copyPlan k q st cw scope x chain s w) := by
  unfold copyPlan
  dsimp only
  split
  · simp
  · exact rec_use2 (needRec_wf _ _ _ h) ‹_›
  · rename_i s' ws e0
    have h' := rec_use (needRec_wf _ _ _ h) e0
    split
    · simp
    · rename_i e
      cases chain with
      | none => cases e
      | some c => exact rec_use2 (needRec_wf _ _ _ h') e
    · rename_i t _ e
      have h2 : t.memWf = true := by
        cases chain with
        | none => exact rec_inj h' e
        | some c => exact rec_use (needRec_wf _ _ _ h') e
      split
      · exact h2
      · apply orIllegal_wf
        cases chain with
        | none => exact h2
        | some c =>
          apply orIllegal_wf
          split
          · exact chk_use (mmaPlan_wf _ _ _ _ _ h2) ‹_›
          · exact mmaPlan_wf _ _ _ _ _ h2

@[simp] theorem copyIssue_wf (i : Instr) (k : CopyKind) (f : CopyOp) (s : State) (h : s.memWf = true) :
    State.memWf (copyIssue i k f s) = true := by
  unfold copyIssue
  repeat' (first
    | assumption | with_reducible apply cmdEff_wf | with_reducible apply cmdIssue_wf
    | with_reducible apply copyPlan_wf | with_reducible intro _)

@[simp] theorem execCpy_wf (f : CopyOp) (s : State) (h : s.memWf = true) :
    ResWf (execCpy f s) := by
  unfold execCpy
  repeat' (first | (solve | simp (maxDischargeDepth := 12) [*]))

@[simp] theorem execCpyt_wf (f : CopyOp) (s : State) (h : s.memWf = true) :
    ResWf (execCpyt f s) := by
  unfold execCpyt
  repeat' (first | (solve | simp (maxDischargeDepth := 12) [*]))

@[simp] theorem execCpyp_wf (f : CopyOp) (s : State) (h : s.memWf = true) :
    ResWf (execCpyp f s) := by
  unfold execCpyp
  repeat' (first | (solve | simp (maxDischargeDepth := 12) [*]))

@[simp] theorem execCpyg_wf (f : CopyOp) (s : State) (h : s.memWf = true) :
    ResWf (execCpyg f s) := by
  unfold execCpyg
  repeat' (first | (solve | simp (maxDischargeDepth := 12) [*]))

@[simp] theorem execCpyr_wf (f : CopyOp) (s : State) (h : s.memWf = true) :
    ResWf (execCpyr f s) := by
  unfold execCpyr
  repeat' (first | (solve | simp (maxDischargeDepth := 12) [*]))

@[simp] theorem execCpye_wf (f : CopyOp) (s : State) (h : s.memWf = true) :
    ResWf (execCpye f s) := by
  unfold execCpye
  repeat' (first | (solve | simp (maxDischargeDepth := 12) [*]))

@[simp] theorem execPfch_wf (q c : Fin 4) (scope : Scope) (cw : Bool) (s : State) (h : s.memWf = true) :
    ResWf (execPfch q c scope cw s) := by
  unfold execPfch
  repeat' (first | (solve | simp (maxDischargeDepth := 12) [*]))

@[simp] theorem moveRead_wf (core ctx : Nat) (y : Crew) (r : TRec) (m : Move) (s : State) (h : s.memWf = true) :
    GotWf (moveRead core ctx y r m s) := by
  unfold moveRead
  repeat' (first
    | with_reducible refine got_use (readRange_wf _ _ _ _ _ _ ?_) ‹_› | with_reducible apply (gotWf_ok _ _).2
    | (solve | simp (maxDischargeDepth := 12) [*]) | split)

@[simp] theorem runLoad_wf (core : Nat) (k : Cmd) (y : Crew) (c : CopyCmd) (s : State) (h : s.memWf = true) :
    GotWf (runLoad core k y c s) := by
  unfold runLoad
  repeat' (first
    | with_reducible refine got_use (got_each_wf _ _ _ ?_ ?_) ‹_› | with_reducible apply scrApply_wf
    | with_reducible apply (gotWf_ok _ _).2 | (solve | simp (maxDischargeDepth := 12) [*]) | with_reducible intro _
    | split | dsimp only)

@[simp] theorem runStore_wf (core : Nat) (k : Cmd) (eng : Nat) (y : Crew) (c : CopyCmd) (s : State) (h : s.memWf = true) :
    GotWf (runStore core k eng y c s) := by
  unfold runStore
  repeat' (first
    | with_reducible refine got_use (got_each_wf _ _ _ ?_ ?_) ‹_› | with_reducible apply modWarp_wf
    | with_reducible apply addOvf_wf | with_reducible apply (gotWf_ok _ _).2
    | (solve | simp (maxDischargeDepth := 12) [*]) | with_reducible intro _ | split | dsimp only)

@[simp] theorem runRagged_wf (core : Nat) (k : Cmd) (y : Crew) (c : CopyCmd) (s : State) (h : s.memWf = true) :
    GotWf (runRagged core k y c s) := by
  unfold runRagged
  repeat' (first
    | with_reducible refine got_use (got_each_wf _ _ _ ?_ ?_) ‹_› | with_reducible apply charge_wf
    | with_reducible apply addOvf_wf | with_reducible apply scrApply_wf | with_reducible apply (gotWf_ok _ _).2
    | (simp (maxDischargeDepth := 12) [*]; done) | with_reducible intro _ | dsimp only | split)

@[simp] theorem runEntropy_wf (core : Nat) (k : Cmd) (y : Crew) (c : CopyCmd) (s : State) (h : s.memWf = true) :
    GotWf (runEntropy core k y c s) := by
  unfold runEntropy
  dsimp only
  split
  · simpa using h
  · split
    · simp
    · simp
    · rename_i l e
      have hl : State.memWf _ = true := got_use (readRange_wf _ _ _ _ _ _ h) e
      split
      · simp [hl]
      · split
        · simp
        · split
          · simp
          · apply (gotWf_ok _ _).2
            apply scrApply_wf
            apply foldl_inv (P := fun x : List Piece × Option (Nat × Nat) × Bool × State => x.2.2.2.memWf = true)
            · exact hl
            · intro t x ht
              split
              · split
                · exact got_use (readFlit_wf _ _ _ _ _ _ ht) ‹_›
                · exact ht
                · exact ht
              · exact ht

@[simp] theorem prefetchLine_wf (core ctx : Nat) (s : State) (va : Nat) (h : s.memWf = true) :
    GotWf (prefetchLine core ctx s va) := by
  unfold prefetchLine
  repeat' (first | (solve | simp (maxDischargeDepth := 12) [*]) | split)

@[simp] theorem runPrefetch_wf (core : Nat) (k : Cmd) (y : Crew) (c : CopyCmd) (s : State) (h : s.memWf = true) :
    GotWf (runPrefetch core k y c s) := by
  unfold runPrefetch
  dsimp only
  split <;> rename_i e
  · simp
  · simp
  · exact (gotWf_ok _ _).2 (got_use (got_each_wf _ _ _ h fun y0 y1 h0 => prefetchLine_wf _ _ _ _ h0) e)

@[simp] theorem runCopy_wf (core eng : Nat) (k : Cmd) (c : CopyCmd) (s : State) (h : s.memWf = true) :
    GotWf (runCopy core eng k c s) := by
  unfold runCopy
  repeat' (first | (solve | simp (maxDischargeDepth := 12) [*]) | split)

@[simp] theorem writeWord_wf (core eng : Nat) (k : Cmd) (c : CopyCmd) (s : State) (h : s.memWf = true) :
    AdvWf (writeWord core eng k c s) := by
  unfold writeWord
  repeat' (first
    | with_reducible refine got_use (writeRange_wf _ _ _ _ _ _ _ _ _ ?_) ‹_› | with_reducible apply modHead_wf
    | with_reducible apply (advWf_ok _).2 | (solve | simp (maxDischargeDepth := 12) [*]) | split)

@[simp] theorem copyAdvance_wf (s : State) (core eng : Nat) (h : s.memWf = true) :
    AdvWf (copyAdvance s core eng) := by
  unfold copyAdvance
  repeat' (first
    | with_reducible refine got_use (runCopy_wf _ _ _ _ _ ?_) ‹_› | with_reducible apply modHead_wf
    | with_reducible apply (advWf_ok _).2 | (solve | simp (maxDischargeDepth := 12) [*]) | split)

@[simp] theorem execCopyRetire_wf (core queue : Nat) (s : State) (h : s.memWf = true) :
    ResWf (execCopyRetire core queue s) := by
  unfold execCopyRetire
  repeat' (first
    | assumption | with_reducible apply (resWf_next _).2
    | with_reducible refine adv_use (copyAdvance_wf _ _ _ ?_) ‹_› | split | dsimp only)

@[simp] theorem execChainStart_wf (core queue : Nat) (s : State) (h : s.memWf = true) :
    ResWf (execChainStart core queue s) := by
  unfold execChainStart
  repeat' (first | assumption | with_reducible apply (resWf_next _).2 | split | dsimp only)

end Sys2Proof.Laws
end

