-- ==== Sys2Proof/Laws/WfLookup.lean ====
section
/-! SUPPORT. The operations of Machine/Lookup.lean keep every memory in canonical form. -/

set_option Elab.async false

namespace Sys2Proof.Laws

open Sys2Proof Sys2Proof.Machine

@[simp] theorem setTable_wf (s : State) (ck n : Nat) (t : Table) (h : s.memWf = true) :
    State.memWf (setTable s ck n t) = true := by
  unfold setTable
  repeat' (first | (solve | simp (maxDischargeDepth := 12) [*]))

@[simp] theorem afterWaits_wf (s : State) (w : Warp) (c : Crew) (n : Nat) (f : Table → Checked) (h : s.memWf = true) (hff : ∀ y0, ChkWf (f y0)) :
    ChkWf (afterWaits s w c n f) := by
  unfold afterWaits
  repeat' (first | (simp (maxDischargeDepth := 12) [*]; done) | dsimp only | split)

@[simp] theorem tbuildPlan_wf (x : Nat) (s : State) (w : Warp) (h : s.memWf = true) :
    ChkWf (tbuildPlan x s w) := by
  unfold tbuildPlan
  repeat' (first
    | assumption | with_reducible apply orIllegal_wf | with_reducible apply withRec_wf | with_reducible intro _)

@[simp] theorem execTbuild_wf (c : Fin 4) (s : State) (h : s.memWf = true) :
    ResWf (execTbuild c s) := by
  unfold execTbuild
  repeat' (first
    | assumption | with_reducible apply (resWf_next _).2 | with_reducible apply cmdEff_wf
    | with_reducible apply cmdIssue_wf | with_reducible apply tbuildPlan_wf | with_reducible intro _)

@[simp] theorem runTbuild_wf (s : State) (ck tb : Nat) (r : TRec) (h : s.memWf = true) :
    (runTbuild s ck tb r).1.memWf = true := by
  unfold runTbuild
  split
  · exact h
  · exact setTable_wf _ _ _ _ h

@[simp] theorem tlookPlan_wf (x0 x1 x2 : Nat) (s : State) (w : Warp) (h : s.memWf = true) :
    ChkWf (tlookPlan x0 x1 x2 s w) := by
  unfold tlookPlan
  repeat' (first
    | with_reducible apply orIllegal_wf | with_reducible apply withRec_wf | with_reducible apply afterWaits_wf
    | (solve | simp (maxDischargeDepth := 12) [*]) | with_reducible intro _ | split)

@[simp] theorem execTlook_wf (c : Fin 4) (s : State) (h : s.memWf = true) :
    ResWf (execTlook c s) := by
  unfold execTlook
  repeat' (first
    | assumption | with_reducible apply (resWf_next _).2 | with_reducible apply cmdEff_wf
    | with_reducible apply cmdIssue_wf | with_reducible apply tlookPlan_wf | with_reducible intro _)

@[simp] theorem runTlook_wf (s : State) (ck tb aci cg gc gs rowc nrow qoff : Nat) (r : TRec) (h : s.memWf = true) :
    (runTlook s ck tb aci cg gc gs rowc nrow qoff r).1.memWf = true := by
  unfold runTlook
  repeat' (first | assumption | split)

@[simp] theorem tfinPlan_wf (accum : Bool) (x0 x1 : Nat) (s : State) (w : Warp) (h : s.memWf = true) :
    ChkWf (tfinPlan accum x0 x1 s w) := by
  unfold tfinPlan
  repeat' (first
    | with_reducible apply orIllegal_wf | with_reducible apply withRec_wf | with_reducible apply afterWaits_wf
    | (solve | simp (maxDischargeDepth := 12) [*]) | with_reducible intro _ | split)

@[simp] theorem execTfin_wf (c : Fin 4) (acc : Bool) (s : State) (h : s.memWf = true) :
    ResWf (execTfin c acc s) := by
  unfold execTfin
  repeat' (first
    | assumption | with_reducible apply (resWf_next _).2 | with_reducible apply cmdEff_wf
    | with_reducible apply cmdIssue_wf | with_reducible apply tfinPlan_wf | with_reducible intro _)

@[simp] theorem runTfin_wf (s : State) (ck tb aci acf nrow foff qoff : Nat) (accum : Bool) (r : TRec) (h : s.memWf = true) :
    (runTfin s ck tb aci acf nrow foff qoff accum r).1.memWf = true := by
  unfold runTfin
  repeat' (first | assumption | split)

@[simp] theorem tchkEff_wf (d : Dst) (x : Nat) (s : State) (w : Warp) (h : s.memWf = true) :
    EffWf (tchkEff d x s w) := by
  unfold tchkEff
  repeat' (first
    | with_reducible apply (effWf_hold _).2 | with_reducible refine chk_use3 (afterWaits_wf _ _ _ _ _ ?_ ?_) ‹_›
    | (simp (maxDischargeDepth := 12) [*]; done) | split)

@[simp] theorem execTchk_wf (d : Dst) (c : Fin 4) (s : State) (h : s.memWf = true) :
    ResWf (execTchk d c s) := by
  unfold execTchk
  repeat' (first | (solve | simp (maxDischargeDepth := 12) [*]))

@[simp] theorem spillPlan_wf (fill : Bool) (x : Nat) (s : State) (w : Warp) (h : s.memWf = true) :
    ChkWf (spillPlan fill x s w) := by
  unfold spillPlan
  repeat' (first | (solve | simp (maxDischargeDepth := 12) [*]) | split)

@[simp] theorem execTspill_wf (c : Fin 4) (s : State) (h : s.memWf = true) :
    ResWf (execTspill c s) := by
  unfold execTspill
  repeat' (first
    | assumption | with_reducible apply (resWf_next _).2 | with_reducible apply cmdEff_wf
    | with_reducible apply cmdIssue_wf | with_reducible apply spillPlan_wf | with_reducible intro _)

@[simp] theorem execTfill_wf (c : Fin 4) (s : State) (h : s.memWf = true) :
    ResWf (execTfill c s) := by
  unfold execTfill
  repeat' (first
    | assumption | with_reducible apply (resWf_next _).2 | with_reducible apply cmdEff_wf
    | with_reducible apply cmdIssue_wf | with_reducible apply spillPlan_wf | with_reducible intro _)

@[simp] theorem execTinv_wf (c : Fin 4) (s : State) (h : s.memWf = true) :
    ResWf (execTinv c s) := by
  unfold execTinv
  repeat' (first
    | with_reducible apply (resWf_next _).2 | with_reducible apply cmdEff_wf | with_reducible apply cmdIssue_wf
    | (solve | simp (maxDischargeDepth := 12) [*]) | with_reducible intro _ | split)

@[simp] theorem runTfill_wf (core : Nat) (k : Cmd) (tb va : Nat) (s : State) (h : s.memWf = true) :
    GotWf (runTfill core k tb va s) := by
  unfold runTfill
  repeat' (first
    | with_reducible refine got_use (readRange_wf _ _ _ _ _ _ ?_) ‹_› | with_reducible apply setTable_wf
    | with_reducible apply (gotWf_ok _ _).2 | (solve | simp (maxDischargeDepth := 12) [*]) | split)

@[simp] theorem runTspill_wf (core : Nat) (k : Cmd) (tb va : Nat) (s : State) (h : s.memWf = true) :
    GotWf (runTspill core k tb va s) := by
  unfold runTspill
  repeat' (first
    | with_reducible refine got_use (writeRange_wf _ _ _ _ _ _ _ _ _ ?_) ‹_› | with_reducible apply (gotWf_ok _ _).2
    | (solve | simp (maxDischargeDepth := 12) [*]) | split | dsimp only)

@[simp] theorem runTinv_wf (s : State) (ck : Nat) (m : BitVec 16) (h : s.memWf = true) :
    State.memWf (runTinv s ck m) = true := by
  unfold runTinv
  repeat' (first
    | assumption | with_reducible apply setTable_wf | with_reducible apply foldl_wf | with_reducible intro _ | split)

@[simp] theorem runLk_wf (s : State) (core : Nat) (k : Cmd) (h : s.memWf = true) :
    GotWf (runLk s core k) := by
  unfold runLk
  repeat' (first
    | with_reducible refine got_use (runTfill_wf _ _ _ _ _ ?_) ‹_›
    | with_reducible refine got_use (runTspill_wf _ _ _ _ _ ?_) ‹_› | with_reducible apply (gotWf_ok _ _).2
    | (solve | simp (maxDischargeDepth := 12) [*]) | split | dsimp only)

@[simp] theorem lkAdvance_wf (s : State) (core : Nat) (h : s.memWf = true) :
    AdvWf (lkAdvance s core) := by
  unfold lkAdvance
  repeat' (first
    | with_reducible refine got_use (runLk_wf _ _ _ ?_) ‹_› | with_reducible apply modHead_wf
    | with_reducible apply retireCmd_wf | with_reducible apply (advWf_ok _).2
    | (solve | simp (maxDischargeDepth := 12) [*]) | split)

@[simp] theorem execLkRetire_wf (core : Nat) (s : State) (h : s.memWf = true) :
    ResWf (execLkRetire core s) := by
  unfold execLkRetire
  repeat' (first
    | assumption | with_reducible apply (resWf_next _).2 | with_reducible refine adv_use (lkAdvance_wf _ _ ?_) ‹_›
    | split)

@[simp] theorem engAdvance_wf (s : State) (core eng : Nat) (h : s.memWf = true) :
    AdvWf (engAdvance s core eng) := by
  unfold engAdvance
  repeat' (first | (solve | simp (maxDischargeDepth := 12) [*]) | split)

@[simp] theorem execEngineFaultPending_wf (core eng : Nat) (s : State) (h : s.memWf = true) :
    ResWf (execEngineFaultPending core eng s) := by
  unfold execEngineFaultPending
  repeat' (first | (solve | simp (maxDischargeDepth := 12) [*]) | split)

end Sys2Proof.Laws
end

