-- ==== Sys2Proof/Laws/WfReturn.lean ====
section
/-! SUPPORT. The operations of Machine/Return.lean keep every memory in canonical form. -/

set_option Elab.async false

namespace Sys2Proof.Laws

open Sys2Proof Sys2Proof.Machine

@[simp] theorem performLocal_wf (s : State) (wk slot : Nat) (lanes : List Nat) (h : s.memWf = true) :
    State.memWf (performLocal s wk slot lanes) = true := by
  unfold performLocal
  repeat' (first
    | with_reducible assumption | with_reducible apply performScratch_wf | with_reducible apply foldl_wf
    | with_reducible intro _ | split)

@[simp] theorem finishSlot_wf (s : State) (w : Warp) (id : Nat) (h : s.memWf = true) :
    State.memWf (finishSlot s w id) = true := by
  unfold finishSlot
  repeat' (first | (solve | simp (maxDischargeDepth := 12) [*]))

@[simp] theorem returnAccessSlot_wf (s : State) (wk slot : Nat) (h : s.memWf = true) :
    State.memWf (returnAccessSlot s wk slot) = true := by
  unfold returnAccessSlot
  repeat' (first | (solve | simp (maxDischargeDepth := 12) [*]) | split)

@[simp] theorem execSlotReturn_wf (wk slot : Nat) (s : State) (h : s.memWf = true) :
    ResWf (execSlotReturn wk slot s) := by
  unfold execSlotReturn
  repeat' (first | (solve | simp (maxDischargeDepth := 12) [*]) | split)

@[simp] theorem raiseIrq_wf (s : State) (v : Nat) (h : s.memWf = true) :
    State.memWf (raiseIrq s v) = true := by
  unfold raiseIrq
  repeat' (first | (solve | simp (maxDischargeDepth := 12) [*]))

@[simp] theorem wakeGroups_wf (s : State) (h : s.memWf = true) :
    State.memWf (wakeGroups s) = true := by
  unfold wakeGroups
  repeat' (first | (simp (maxDischargeDepth := 12) [*]; done))

@[simp] theorem crewExit_wf (s : State) (k : Nat) (h : s.memWf = true) :
    State.memWf (crewExit s k) = true := by
  unfold crewExit
  repeat' (first | (solve | simp (maxDischargeDepth := 12) [*]) | dsimp only | split)

@[simp] theorem removeWarp_wf (s : State) (w : Warp) (h : s.memWf = true) :
    State.memWf (removeWarp s w) = true := by
  unfold removeWarp
  repeat' (first | (solve | simp (maxDischargeDepth := 12) [*]) | dsimp only | split)

@[simp] theorem execWarpEnd_wf (k : Nat) (s : State) (h : s.memWf = true) :
    ResWf (execWarpEnd k s) := by
  unfold execWarpEnd
  repeat' (first | (solve | simp (maxDischargeDepth := 12) [*]) | dsimp only | split)

@[simp] theorem execFaultRecordWrite_wf (ctx : Nat) (s : State) (h : s.memWf = true) :
    ResWf (execFaultRecordWrite ctx s) := by
  unfold execFaultRecordWrite
  repeat' (first | (solve | simp (maxDischargeDepth := 12) [*]) | dsimp only | split)

@[simp] theorem countDrop_wf (s : State) (h : s.memWf = true) :
    State.memWf (countDrop s) = true := by
  unfold countDrop
  repeat' (first | (solve | simp (maxDischargeDepth := 12) [*]))

@[simp] theorem execFaultRingHeadWrite_wf (by_ : Agent) (ctx : Nat) (val : Word) (s : State) (h : s.memWf = true) :
    ResWf (execFaultRingHeadWrite by_ ctx val s) := by
  unfold execFaultRingHeadWrite
  repeat' (first | (solve | simp (maxDischargeDepth := 12) [*]) | split)

@[simp] theorem noteResolve_wf (s : State) (ctx : Nat) (val : Word) (act : Nat) (h : s.memWf = true) :
    State.memWf (noteResolve s ctx val act) = true := by
  unfold noteResolve
  repeat' (first | (solve | simp (maxDischargeDepth := 12) [*]))

@[simp] theorem takeRecord_wf (s : State) (ctx : Nat) (p : FaultRec → Bool) (h : s.memWf = true) :
    State.memWf (takeRecord s ctx p) = true := by
  unfold takeRecord
  repeat' (first | (solve | simp (maxDischargeDepth := 12) [*]))

@[simp] theorem retryWarp_wf (s : State) (k : Nat) (w : Warp) (h : s.memWf = true) :
    State.memWf (retryWarp s k w) = true := by
  unfold retryWarp
  repeat' (first | (solve | simp (maxDischargeDepth := 12) [*]) | dsimp only | split)

@[simp] theorem execResolveRetryWarp_wf (by_ : Agent) (ctx : Nat) (val : Word) (s : State) (h : s.memWf = true) :
    ResWf (execResolveRetryWarp by_ ctx val s) := by
  unfold execResolveRetryWarp
  repeat' (first | (solve | simp (maxDischargeDepth := 12) [*]) | dsimp only | split)

@[simp] theorem endWarp_wf (s : State) (w : Warp) (h : s.memWf = true) :
    State.memWf (endWarp s w) = true := by
  unfold endWarp
  repeat' (first | (simp (maxDischargeDepth := 12) [*]; done) | split)

@[simp] theorem execResolveEndCrew_wf (by_ : Agent) (ctx : Nat) (val : Word) (s : State) (h : s.memWf = true) :
    ResWf (execResolveEndCrew by_ ctx val s) := by
  unfold execResolveEndCrew
  repeat' (first
    | with_reducible assumption | with_reducible apply (resWf_next _).2 | with_reducible apply modCtx_wf
    | with_reducible apply noteResolve_wf | with_reducible apply endWarp_wf | with_reducible apply foldl_wf
    | dsimp only | split)

@[simp] theorem execResolveRetryEngine_wf (by_ : Agent) (ctx : Nat) (val : Word) (s : State) (h : s.memWf = true) :
    ResWf (execResolveRetryEngine by_ ctx val s) := by
  unfold execResolveRetryEngine
  repeat' (first | (solve | simp (maxDischargeDepth := 12) [*]) | dsimp only | split)

@[simp] theorem execResolveAbandon_wf (by_ : Agent) (ctx : Nat) (val : Word) (s : State) (h : s.memWf = true) :
    ResWf (execResolveAbandon by_ ctx val s) := by
  unfold execResolveAbandon
  repeat' (first | (solve | simp (maxDischargeDepth := 12) [*]) | dsimp only | split)

@[simp] theorem execResolveClearP_wf (by_ : Agent) (ctx : Nat) (val : Word) (s : State) (h : s.memWf = true) :
    ResWf (execResolveClearP by_ ctx val s) := by
  unfold execResolveClearP
  repeat' (first | (solve | simp (maxDischargeDepth := 12) [*]) | dsimp only | split)

end Sys2Proof.Laws
end

