-- ==== Sys2Proof/Laws/WfWalk.lean ====
section
/-! SUPPORT. The operations of Machine/Walk.lean keep every memory in canonical form. -/

set_option Elab.async false

namespace Sys2Proof.Laws

open Sys2Proof Sys2Proof.Machine

@[simp] theorem holdCore_wf (s : State) (core ctx : Nat) (l : Leaf) (h : s.memWf = true) :
    State.memWf (holdCore s core ctx l) = true := by
  unfold holdCore
  repeat' (first | (solve | simp (maxDischargeDepth := 12) [*]))

@[simp] theorem holdDie_wf (s : State) (die ctx : Nat) (l : Leaf) (h : s.memWf = true) :
    State.memWf (holdDie s die ctx l) = true := by
  unfold holdDie
  repeat' (first | (solve | simp (maxDischargeDepth := 12) [*]))

@[simp] theorem execPageWalk_wf (core ctx va : Nat) (s : State) (h : s.memWf = true) :
    ResWf (execPageWalk core ctx va s) := by
  unfold execPageWalk
  repeat' (first | (solve | simp (maxDischargeDepth := 12) [*]) | dsimp only | split)

@[simp] theorem execShootdown_wf (by_ : Agent) (ctx : Nat) (val : Word) (s : State) (h : s.memWf = true) :
    ResWf (execShootdown by_ ctx val s) := by
  unfold execShootdown
  repeat' (first | (solve | simp (maxDischargeDepth := 12) [*]) | split)

@[simp] theorem execShootdownComplete_wf (ctx : Nat) (s : State) (h : s.memWf = true) :
    ResWf (execShootdownComplete ctx s) := by
  unfold execShootdownComplete
  repeat' (first | (solve | simp (maxDischargeDepth := 12) [*]) | dsimp only | split)

end Sys2Proof.Laws
end

