-- ==== Sys2Proof/Laws/WfMoraine.lean ====
section
/-! SUPPORT. The operations of Machine/Moraine.lean keep every memory in canonical form. -/

set_option Elab.async false

namespace Sys2Proof.Laws

open Sys2Proof Sys2Proof.Machine

@[simp] theorem countChanErr_wf (s : State) (pa : Nat) (h : s.memWf = true) :
    State.memWf (countChanErr s pa) = true := by
  unfold countChanErr
  repeat' (first | (solve | simp (maxDischargeDepth := 12) [*]) | split)

@[simp] theorem fillFrom_wf (s : State) (l : Nat) (bad : BitVec 4) (h : s.memWf = true) :
    State.memWf (fillFrom s l bad) = true := by
  unfold fillFrom
  repeat' (first | (solve | simp (maxDischargeDepth := 12) [*]) | split)

@[simp] theorem chargeBack_wf (s : State) (l : Nat) (x : Line) (h : s.memWf = true) :
    State.memWf (chargeBack s l x) = true := by
  unfold chargeBack
  repeat' (first | (solve | simp (maxDischargeDepth := 12) [*]) | split)

@[simp] theorem cleanLine_wf (s : State) (l : Nat) (h : s.memWf = true) :
    State.memWf (cleanLine s l) = true := by
  unfold cleanLine
  repeat' (first | (solve | simp (maxDischargeDepth := 12) [*]) | split)

@[simp] theorem execChannelAccess_wf (line : Nat) (act : ChanAct) (s : State) (h : s.memWf = true) :
    ResWf (execChannelAccess line act s) := by
  unfold execChannelAccess
  repeat' (first | (solve | simp (maxDischargeDepth := 12) [*]) | split)

@[simp] theorem execSetEvacuate_wf (by_ : Agent) (set ch : Nat) (s : State) (h : s.memWf = true) :
    ResWf (execSetEvacuate by_ set ch s) := by
  unfold execSetEvacuate
  repeat' (first | (solve | simp (maxDischargeDepth := 12) [*]) | split)

@[simp] theorem execSetFail_wf (by_ : Agent) (set ch : Nat) (s : State) (h : s.memWf = true) :
    ResWf (execSetFail by_ set ch s) := by
  unfold execSetFail
  repeat' (first | (solve | simp (maxDischargeDepth := 12) [*]) | split)

@[simp] theorem copyGranule_wf (s : State) (src dst : Nat) (mute : Bool) (h : s.memWf = true) :
    State.memWf (copyGranule s src dst mute) = true := by
  unfold copyGranule
  repeat' (first | (solve | simp (maxDischargeDepth := 12) [*]))

@[simp] theorem execMoraineGranuleBegin_wf (set : Nat) (s : State) (h : s.memWf = true) :
    ResWf (execMoraineGranuleBegin set s) := by
  unfold execMoraineGranuleBegin
  repeat' (first | (solve | simp (maxDischargeDepth := 12) [*]) | dsimp only | split)

@[simp] theorem performStalled_wf (s : State) (set : Nat) (h : s.memWf = true) :
    State.memWf (performStalled s set) = true := by
  unfold performStalled
  repeat' (first
    | with_reducible assumption | with_reducible apply modSet_wf | with_reducible apply storeLine_wf
    | with_reducible apply foldl_wf | with_reducible intro _)

@[simp] theorem execMoraineGranuleComplete_wf (set : Nat) (s : State) (h : s.memWf = true) :
    ResWf (execMoraineGranuleComplete set s) := by
  unfold execMoraineGranuleComplete
  repeat' (first | (solve | simp (maxDischargeDepth := 12) [*]) | dsimp only | split)

@[simp] theorem evacSlice_wf (s : State) (n : Nat) (h : s.memWf = true) :
    State.memWf (evacSlice s n) = true := by
  unfold evacSlice
  repeat' (first | (solve | simp (maxDischargeDepth := 12) [*]))

@[simp] theorem execSliceEvacuate_wf (by_ : Agent) (slice : Nat) (s : State) (h : s.memWf = true) :
    ResWf (execSliceEvacuate by_ slice s) := by
  unfold execSliceEvacuate
  repeat' (first | (solve | simp (maxDischargeDepth := 12) [*]) | split)

@[simp] theorem moveLine_wf (mute : Bool) (s : State) (l : Nat) (h : s.memWf = true) :
    State.memWf (moveLine mute s l) = true := by
  unfold moveLine
  repeat' (first
    | with_reducible assumption | with_reducible apply memSetPois_wf | with_reducible apply dropLine_wf
    | with_reducible apply writeBackLine_wf | with_reducible apply chargeBack_wf | with_reducible apply dropReplicas_wf
    | with_reducible apply foldl_wf
    | with_reducible intro _ | dsimp only | split)

@[simp] theorem execSliceEntryMove_wf (s : State) (h : s.memWf = true) :
    ResWf (execSliceEntryMove s) := by
  unfold execSliceEntryMove
  repeat' (first
    | with_reducible assumption | with_reducible apply (resWf_next _).2 | with_reducible apply modMem_wf
    | with_reducible apply moveLine_wf | with_reducible apply chan_wf | with_reducible apply fabric_wf
    | with_reducible apply hostMem_wf | with_reducible apply foldl_wf | dsimp only | split)

@[simp] theorem execMemoryScrub_wf (chan flit : Nat) (_raced : Bool) (s : State) (h : s.memWf = true) :
    ResWf (execMemoryScrub chan flit _raced s) := by
  unfold execMemoryScrub
  repeat' (first | (solve | simp (maxDischargeDepth := 12) [*]) | split)

end Sys2Proof.Laws
end

