-- ==== Sys2Proof/Laws/WfDma.lean ====
section
/-! SUPPORT. The operations of Machine/Dma.lean keep every memory in canonical form. -/

set_option Elab.async false

namespace Sys2Proof.Laws

open Sys2Proof Sys2Proof.Machine

@[simp] theorem detEntry_wf (s : State) (ctx i : Nat) (h : s.memWf = true) :
    (detEntry s ctx i).1.memWf = true := by
  unfold detEntry
  repeat' (first | (solve | simp (maxDischargeDepth := 12) [*]) | dsimp only | split)

@[simp] theorem detEvent_wf (s : State) (ctx : Nat) (l : List Nat) (h : s.memWf = true) :
    State.memWf (detEvent s ctx l) = true := by
  unfold detEvent
  repeat' (first | (solve | simp (maxDischargeDepth := 12) [*]))

@[simp] theorem refuseFlit_wf (s : State) (ctx va : Nat) (h : s.memWf = true) :
    State.memWf (refuseFlit s ctx va) = true := by
  unfold refuseFlit
  repeat' (first | (solve | simp (maxDischargeDepth := 12) [*]))

@[simp] theorem flitCheck_wf (s : State) (ctx va : Nat) (w : Writer) (h : s.memWf = true) :
    (flitCheck s ctx va w).1.memWf = true := by
  unfold flitCheck
  repeat' (first | (solve | simp (maxDischargeDepth := 12) [*]) | dsimp only | split)

@[simp] theorem allocRange_wf (s : State) (pa n : Nat) (h : s.memWf = true) :
    State.memWf (allocRange s pa n) = true := by
  unfold allocRange
  repeat' (first
    | with_reducible assumption | with_reducible apply homeAlloc_wf | with_reducible apply foldl_wf
    | with_reducible intro _ | dsimp only | split)

@[simp] theorem completeBar2_wf (s : State) (bs : List Byte) (ep : Bool) (h : s.memWf = true) :
    State.memWf (completeBar2 s bs ep) = true := by
  unfold completeBar2
  repeat' (first | (solve | simp (maxDischargeDepth := 12) [*]))

@[simp] theorem refuseBar2_wf (s : State) (n : Nat) (h : s.memWf = true) : State.memWf (refuseBar2 s n) = true :=
  modGlob_wf _ _ h

@[simp] theorem execHostBar2Access_wf (pa : Nat) (r : Bar2Req) (s : State) (h : s.memWf = true) :
    ResWf (execHostBar2Access pa r s) := by
  unfold execHostBar2Access
  repeat' (first | (solve | simp (maxDischargeDepth := 12) [*]) | split)

@[simp] theorem dmaPiece_wf (ctx : Nat) (s : State) (va : Nat) (bs : List Byte) (h : s.memWf = true) :
    State.memWf (dmaPiece ctx s va bs) = true := by
  unfold dmaPiece
  repeat' (first | (solve | simp (maxDischargeDepth := 12) [*]) | dsimp only | split)

@[simp] theorem dmaFetch_wf (ctx : Nat) (s : State) (va n : Nat) (h : s.memWf = true) :
    State.memWf (dmaFetch ctx s va n) = true := by
  unfold dmaFetch
  repeat' (first | (solve | simp (maxDischargeDepth := 12) [*]) | dsimp only | split)

@[simp] theorem execHostDmaTransfer_wf (ctx va : Nat) (r : DmaReq) (s : State) (h : s.memWf = true) :
    ResWf (execHostDmaTransfer ctx va r s) := by
  unfold execHostDmaTransfer
  repeat' (first
    | with_reducible assumption | with_reducible apply (resWf_next _).2 | with_reducible apply modGlob_wf
    | with_reducible apply dmaPiece_wf | with_reducible apply dmaFetch_wf | with_reducible apply foldl_wf | with_reducible intro _ | split)

end Sys2Proof.Laws
end

