-- ==== Sys2Proof/Laws/WfLinks.lean ====
section
/-! SUPPORT. The operations of Machine/Links.lean keep every memory in canonical form. -/

set_option Elab.async false

namespace Sys2Proof.Laws

open Sys2Proof Sys2Proof.Machine

@[simp] theorem injectPacket_wf (c : Client) (sel : Nat) (resp : Bool) (flits : Nat) (dests : List Nat) (s : State)
    (h : s.memWf = true) : State.memWf (injectPacket c sel resp flits dests s) = true := by
  unfold injectPacket
  repeat' (first | (solve | simp (maxDischargeDepth := 12) [*]) | split)

@[simp] theorem execTorusHop_wf (r : HopReq) (s : State) (h : s.memWf = true) :
    ResWf (execTorusHop r s) := by
  unfold execTorusHop
  repeat' (first | (solve | simp (maxDischargeDepth := 12) [*]) | split)

@[simp] theorem execHoldingBufferRelease_wf (router out : Nat) (s : State) (h : s.memWf = true) :
    ResWf (execHoldingBufferRelease router out s) := by
  unfold execHoldingBufferRelease
  repeat' (first | (solve | simp (maxDischargeDepth := 12) [*]) | split)

@[simp] theorem setWave_wf (s : State) (port dir wl : Nat) (x : Wave) (h : s.memWf = true) :
    State.memWf (setWave s port dir wl x) = true := by
  unfold setWave
  repeat' (first | (solve | simp (maxDischargeDepth := 12) [*]))

@[simp] theorem setReady_wf (s : State) (i : Nat) (b : Bool) (h : s.memWf = true) :
    State.memWf (setReady s i b) = true := by
  unfold setReady
  repeat' (first | (solve | simp (maxDischargeDepth := 12) [*]))

@[simp] theorem failAccess_wf (s : State) (port : Nat) (e : Nat × Nat × LaneAcc × Nat) (h : s.memWf = true) :
    State.memWf (failAccess s port e) = true := by
  unfold failAccess
  repeat' (first | (solve | simp (maxDischargeDepth := 12) [*]) | dsimp only | split)

@[simp] theorem updatePort_wf (s : State) (port : Nat) (h : s.memWf = true) :
    State.memWf (updatePort s port) = true := by
  unfold updatePort
  repeat' (first
    | with_reducible assumption | with_reducible apply setPort_wf | with_reducible apply drainRoutes_wf
    | with_reducible apply setReady_wf | with_reducible apply failAccess_wf | with_reducible apply foldl_wf
    | with_reducible intro _ | dsimp only | split)

@[simp] theorem countTraining_wf (s : State) (port : Nat) (h : s.memWf = true) :
    State.memWf (countTraining s port) = true := by
  unfold countTraining
  repeat' (first | (solve | simp (maxDischargeDepth := 12) [*]))

@[simp] theorem countFlit_wf (s : State) (port wl errs : Nat) (h : s.memWf = true) :
    State.memWf (countFlit s port wl errs) = true := by
  unfold countFlit
  repeat' (first
    | with_reducible assumption | with_reducible apply setWave_wf | with_reducible apply foldl_wf
    | with_reducible intro _ | dsimp only | split)

@[simp] theorem execOpticalFlitReceive_wf (port : Nat) (rx : FlitRx) (s : State) (h : s.memWf = true) :
    ResWf (execOpticalFlitReceive port rx s) := by
  unfold execOpticalFlitReceive
  repeat' (first | (solve | simp (maxDischargeDepth := 12) [*]) | dsimp only | split)

@[simp] theorem execWavelengthRetire_wf (port dir wl bits : Nat) (s : State) (h : s.memWf = true) :
    ResWf (execWavelengthRetire port dir wl bits s) := by
  unfold execWavelengthRetire
  repeat' (first | (solve | simp (maxDischargeDepth := 12) [*]) | dsimp only | split)

@[simp] theorem readDiode_wf (s : State) (port dir wl : Nat) (v : BitVec 12) (h : s.memWf = true) :
    State.memWf (readDiode s port dir wl v) = true := by
  unfold readDiode
  repeat' (first | (simp (maxDischargeDepth := 12) [*]; done) | split)

@[simp] theorem execWavelengthTrainDone_wf (port dir wl : Nat) (ok : Bool) (s : State) (h : s.memWf = true) :
    ResWf (execWavelengthTrainDone port dir wl ok s) := by
  unfold execWavelengthTrainDone
  repeat' (first | (solve | simp (maxDischargeDepth := 12) [*]) | dsimp only | split)

@[simp] theorem execWavelengthEnableWrite_wf (by_ : Agent) (port dir wl : Nat) (val : Word) (s : State) (h : s.memWf = true) :
    ResWf (execWavelengthEnableWrite by_ port dir wl val s) := by
  unfold execWavelengthEnableWrite
  repeat' (first | (solve | simp (maxDischargeDepth := 12) [*]) | dsimp only | split)

@[simp] theorem execOpticalPartnerAttach_wf (port : Nat) (on : Bool) (s : State) (h : s.memWf = true) :
    ResWf (execOpticalPartnerAttach port on s) := by
  unfold execOpticalPartnerAttach
  repeat' (first
    | with_reducible assumption | with_reducible apply (resWf_next _).2 | with_reducible apply setPort_wf
    | with_reducible apply setWave_wf | with_reducible apply updatePort_wf | with_reducible apply countTraining_wf
    | with_reducible apply foldl_wf | with_reducible intro _ | dsimp only | split)

@[simp] theorem execRoutePortWrite_wf (by_ : Agent) (p : Nat) (val : Word) (s : State) (h : s.memWf = true) :
    ResWf (execRoutePortWrite by_ p val s) := by
  unfold execRoutePortWrite
  repeat' (first | (solve | simp (maxDischargeDepth := 12) [*]) | dsimp only | split)

@[simp] theorem execDieMapWrite_wf (by_ : Agent) (val : Word) (s : State) (h : s.memWf = true) :
    ResWf (execDieMapWrite by_ val s) := by
  unfold execDieMapWrite
  repeat' (first | (solve | simp (maxDischargeDepth := 12) [*]) | dsimp only | split)

@[simp] theorem execDieMapApply_wf (s : State) (h : s.memWf = true) :
    ResWf (execDieMapApply s) := by
  unfold execDieMapApply
  repeat' (first | (solve | simp (maxDischargeDepth := 12) [*]) | split)

@[simp] theorem execHostLinkTraining_wf (up : Bool) (s : State) (h : s.memWf = true) :
    ResWf (execHostLinkTraining up s) := by
  unfold execHostLinkTraining
  repeat' (first | (solve | simp (maxDischargeDepth := 12) [*]))

end Sys2Proof.Laws
end

