-- ==== Sys2Proof/Laws/WfLaunch.lean ====
section
/-! SUPPORT. The operations of Machine/Launch.lean keep every memory in canonical form. -/

set_option Elab.async false

namespace Sys2Proof.Laws

open Sys2Proof Sys2Proof.Machine

@[simp] theorem wipePages_wf (s : State) (core page n : Nat) (h : s.memWf = true) :
    State.memWf (wipePages s core page n) = true :=
  memWf_lit (chan_wf s h) (fabric_wf s h) (hostMem_wf s h) (filter_wf s.scr
    (fun e => decide (e.fst < scrKey core (page * 4096)) || decide (scrKey core (page * 4096) + n * 4096 ≤ e.fst))
    (scr_wf s h))

@[simp] theorem clearPages_wf (s : State) (core page n : Nat) (h : s.memWf = true) :
    State.memWf (clearPages s core page n) = true := by
  have := filter_wf s.scr
    (fun e => decide (e.fst < scrKey core (page * 4096)) || decide (scrKey core (page * 4096) + n * 4096 ≤ e.fst))
    (scr_wf s h)
  unfold clearPages
  apply bumpPages_wf
  exact memWf_lit (chan_wf s h) (fabric_wf s h) (hostMem_wf s h) this

@[simp] theorem placeCrew_wf (s : State) (ctx k core vcore : Nat) (l : Launch) (f : List (Nat × Nat × Nat) × Nat) (h : s.memWf = true) :
    State.memWf (placeCrew s ctx k core vcore l f) = true := by
  unfold placeCrew
  repeat' (first
    | with_reducible assumption | with_reducible apply setWarp_wf | with_reducible apply setCrew_wf
    | with_reducible apply clearPages_wf | with_reducible apply foldl_wf | with_reducible intro _)

@[simp] theorem execLaunchWrite_wf (by_ : Agent) (ctx : Nat) (val : Word) (s : State) (h : s.memWf = true) :
    ResWf (execLaunchWrite by_ ctx val s) := by
  unfold execLaunchWrite
  repeat' (first | (solve | simp (maxDischargeDepth := 12) [*]) | split)

@[simp] theorem refuseLaunch_wf (s : State) (ctx err : Nat) (h : s.memWf = true) :
    State.memWf (refuseLaunch s ctx err) = true := by
  unfold refuseLaunch
  repeat' (first | (solve | simp (maxDischargeDepth := 12) [*]))

@[simp] theorem clearContext_wf (s : State) (ctx : Nat) (h : s.memWf = true) :
    State.memWf (clearContext s ctx) = true := by
  unfold clearContext
  repeat' (first | (solve | simp (maxDischargeDepth := 12) [*]))

@[simp] theorem startContext_wf (s : State) (ctx : Nat) (l : Launch) (h : s.memWf = true) :
    State.memWf (startContext s ctx l) = true := by
  unfold startContext
  repeat' (first | (solve | simp (maxDischargeDepth := 12) [*]))

/-- Fixing the instances of a crew leaves the placing's state. -/
theorem fixLevels_st (p : Placing) (ctx : Nat) (l : Launch) (k core : Nat) : (fixLevels p ctx l k core).st = p.st := by
  unfold fixLevels
  apply foldl_inv (P := fun x : Placing => x.st = p.st)
  · rfl
  · intro t x ht
    dsimp only
    split
    · exact ht
    · split
      · exact ht
      · split
        · exact ht
        · split <;> exact ht

theorem placeNext_wf (ctx : Nat) (l : Launch) (p : Placing) (k : Nat) (h : p.st.memWf = true) (q : Placing)
    (e : placeNext ctx l p k = some q) : q.st.memWf = true := by
  unfold placeNext at e
  dsimp only at e
  split at e
  · cases e
  · split at e
    · cases e
    · injection e with e
      subst e
      apply placeCrew_wf
      rw [fixLevels_st]
      exact h

theorem placeAll_wf (ctx : Nat) (l : Launch) (ks : List Nat) (p : Placing) (h : p.st.memWf = true) (q : Placing)
    (e : placeAll ctx l ks p = some q) : q.st.memWf = true := by
  induction ks generalizing p with
  | nil => unfold placeAll at e; cases e; exact h
  | cons k ks ih =>
    unfold placeAll at e
    split at e
    · cases e
    · exact ih _ (placeNext_wf ctx l p k h _ ‹_›) e

@[simp] theorem execLaunchRecordRead_wf (ctx : Nat) (s : State) (h : s.memWf = true) :
    ResWf (execLaunchRecordRead ctx s) := by
  unfold execLaunchRecordRead
  split
  · exact (resWf_next _).2 h
  · split
    · exact (resWf_next _).2 (refuseLaunch_wf _ _ _ h)
    · dsimp only
      split
      · exact (resWf_next _).2 (refuseLaunch_wf _ _ _ h)
      · split
        · exact (resWf_next _).2 (refuseLaunch_wf _ _ _ h)
        · have hx := placeAll_wf ctx _ _ _ (clearContext_wf s ctx h) _ ‹_›
          rename_i ws _ _ _ _ _
          exact (resWf_next _).2 (by exact startContext_wf _ ctx (launchOf ws) hx)

@[simp] theorem startWarps_wf (s : State) (die v : Nat) (h : s.memWf = true) :
    State.memWf (startWarps s die v) = true := by
  unfold startWarps
  repeat' (first | (simp (maxDischargeDepth := 12) [*]; done))

@[simp] theorem execPlacementEntryApply_wf (die : Nat) (s : State) (h : s.memWf = true) :
    ResWf (execPlacementEntryApply die s) := by
  unfold execPlacementEntryApply
  repeat' (first | (solve | simp (maxDischargeDepth := 12) [*]) | dsimp only | split)

end Sys2Proof.Laws
end

