-- ==== Sys2Proof/Laws/WfCalve.lean ====
section
/-! SUPPORT. The operations of Machine/Calve.lean keep every memory in canonical form. -/

set_option Elab.async false

namespace Sys2Proof.Laws

open Sys2Proof Sys2Proof.Machine

@[simp] theorem stopWarp_wf (s : State) (w : Warp) (h : s.memWf = true) :
    State.memWf (stopWarp s w) = true := by
  unfold stopWarp
  repeat' (first | (simp (maxDischargeDepth := 12) [*]; done) | split)

theorem foldl_optWf {β : Type} (f : Option State → β → Option State) (l : List β) (o : Option State) (h : OptWf o)
    (hf : ∀ t x, OptWf t → OptWf (f t x)) : OptWf (l.foldl f o) := foldl_inv OptWf f l o h hf

theorem bind_optWf (o : Option State) (f : State → Option State) (h : OptWf o)
    (hf : ∀ t, t.memWf = true → OptWf (f t)) : OptWf (o.bind f) := by
  cases o with
  | none => simp
  | some t => exact hf t (h t rfl)

theorem firstSome_optWf {α : Type} (f : α → Option State) (l : List α) (hf : ∀ x, OptWf (f x)) :
    OptWf (firstSome f l) := by
  induction l with
  | nil => simp [firstSome]
  | cons x l ih =>
    unfold firstSome
    cases e : f x with
    | none => simpa [e] using ih
    | some t => simpa [e] using hf x t e

@[simp] theorem calveWarp_wf (s : State) (w : Warp) (h : s.memWf = true) :
    State.memWf (calveWarp s w) = true := by
  unfold calveWarp
  repeat' (first | (solve | simp (maxDischargeDepth := 12) [*]) | split)

@[simp] theorem vacate_wf (s : State) (ctx : Nat) (cores : List Nat) (h : s.memWf = true) :
    State.memWf (vacate s ctx cores) = true := by
  unfold vacate
  repeat' (first
    | with_reducible assumption | with_reducible apply modCtx_wf | with_reducible apply calveWarp_wf
    | with_reducible apply foldl_wf | with_reducible intro _ | split)

@[simp] theorem storeN_wf (s : State) (ctx n : Nat) (h : s.memWf = true) :
    State.memWf (storeN s ctx n) = true := by
  unfold storeN
  repeat' (first | (simp (maxDischargeDepth := 12) [*]; done))

@[simp] theorem calveCores_wf (s : State) (ctx n : Nat) (h : s.memWf = true) :
    State.memWf (calveCores s ctx n) = true := by
  unfold calveCores
  repeat' (first | (simp (maxDischargeDepth := 12) [*]; done) | dsimp only | split)

@[simp] theorem execCalveCommand_wf (by_ : Agent) (ctx n : Nat) (s : State) (h : s.memWf = true) :
    ResWf (execCalveCommand by_ ctx n s) := by
  unfold execCalveCommand
  repeat' (first | (solve | simp (maxDischargeDepth := 12) [*]) | dsimp only | split)

@[simp] theorem execGraceExpire_wf (k : Nat) (s : State) (h : s.memWf = true) :
    ResWf (execGraceExpire k s) := by
  unfold execGraceExpire
  repeat' (first | (solve | simp (maxDischargeDepth := 12) [*]) | dsimp only | split)

@[simp] theorem writeRecord_wf (s : State) (k : Nat) (c : Crew) (h : s.memWf = true) :
    State.memWf (writeRecord s k c) = true := by
  unfold writeRecord
  repeat' (first
    | with_reducible assumption | with_reducible apply sysWriteVa_wf | with_reducible apply writeFrame_wf
    | with_reducible apply chargeMicro_wf
    | with_reducible apply foldl_wf | with_reducible intro _ | dsimp only | split)

@[simp] theorem saveCrew_wf (s : State) (e : Nat × Crew) (h : s.memWf = true) :
    State.memWf (saveCrew s e) = true := by
  unfold saveCrew
  repeat' (first
    | with_reducible assumption | with_reducible apply setWarp_wf | with_reducible apply setCrew_wf
    | with_reducible apply dropRecs_wf | with_reducible apply writeRecord_wf
    | (simp only [memWf_mk, Bool.and_eq_true]; refine ⟨⟨⟨?_, ?_⟩, ?_⟩, ?_⟩) | with_reducible apply chan_wf
    | with_reducible apply fabric_wf | with_reducible apply hostMem_wf | with_reducible apply scr_wf
    | with_reducible apply foldl_wf | with_reducible intro _)

@[simp] theorem rehash_wf (s : State) (ctx : Nat) (h : s.memWf = true) :
    State.memWf (rehash s ctx) = true := by
  unfold rehash
  repeat' (first | (solve | simp (maxDischargeDepth := 12) [*]))

@[simp] theorem examineCore_wf (s : State) (core : Nat) (h : s.memWf = true) :
    State.memWf (examineCore s core) = true := by
  unfold examineCore
  repeat' (first
    | with_reducible assumption | with_reducible apply examineRegrs_wf | with_reducible apply foldl_wf
    | with_reducible intro _)

@[simp] theorem execCalveSaveDone_wf (ctx : Nat) (s : State) (h : s.memWf = true) :
    ResWf (execCalveSaveDone ctx s) := by
  unfold execCalveSaveDone
  repeat' (first
    | with_reducible assumption | with_reducible apply (resWf_next _).2 | with_reducible apply modCtx_wf
    | with_reducible apply queueRecord_wf | with_reducible apply saveCrew_wf | with_reducible apply rehash_wf
    | with_reducible apply examineCore_wf | with_reducible apply foldl_wf | dsimp only | split)

@[simp] theorem returnCores_wf (s : State) (ctx n : Nat) (h : s.memWf = true) :
    State.memWf (returnCores s ctx n) = true := by
  unfold returnCores
  repeat' (first | (simp (maxDischargeDepth := 12) [*]; done) | dsimp only | split)

@[simp] theorem execReturnCommand_wf (by_ : Agent) (r : CalvingWrite) (s : State) (h : s.memWf = true) :
    ResWf (execReturnCommand by_ r s) := by
  unfold execReturnCommand
  repeat' (first | (simp (maxDischargeDepth := 12) [*]; done) | split)

@[simp] theorem seatCrew_wf (s : State) (e : Nat × Crew) (core : Nat) (f : List (Nat × Nat × Nat) × Nat) (h : s.memWf = true) :
    State.memWf (seatCrew s e core f) = true := by
  unfold seatCrew
  repeat' (first
    | with_reducible assumption | with_reducible apply setWarp_wf | with_reducible apply setCrew_wf
    | with_reducible apply foldl_wf | with_reducible intro _ | split)

@[simp] theorem seatAll_wf (s : State) (core : Nat) (es : List (Nat × Crew)) (h : s.memWf = true) :
    OptWf (seatAll s core es) := by
  induction es generalizing s with
  | nil => simpa [seatAll] using h
  | cons e es ih =>
    unfold seatAll
    split
    · simp
    · exact ih _ (seatCrew_wf _ _ _ _ h)

@[simp] theorem seatBest_wf (s : State) (es : List (Nat × Crew)) (cores : List Nat) (h : s.memWf = true) :
    OptWf (seatBest s es cores) := by
  unfold seatBest
  repeat' (first | (solve | simp (maxDischargeDepth := 12) [*]) | split)

@[simp] theorem seatParts_wf (s : State) (ctx old a b : Nat) (parts : List (List (Nat × Crew))) (h : s.memWf = true) :
    OptWf (seatParts s ctx old a b parts) := by
  induction parts generalizing s with
  | nil => simpa [seatParts] using h
  | cons p ps ih =>
    unfold seatParts
    split
    · simp
    · exact ih _ (opt_use (seatBest_wf _ _ _ h) ‹_›)

@[simp] theorem seatSpan_wf (s : State) (ctx : Nat) (parts : List (List (Nat × Crew))) (h : s.memWf = true) :
    OptWf (seatSpan s ctx parts) := by
  unfold seatSpan
  repeat' (first
    | with_reducible assumption | with_reducible apply seatAll_wf | with_reducible apply seatParts_wf
    | with_reducible apply (optWf_some _).2 | with_reducible apply firstSome_optWf | with_reducible apply bind_optWf
    | with_reducible intro _ | split)

@[simp] theorem seatGroup_wf (s : State) (ctx : Nat) (es : List (Nat × Crew)) (h : s.memWf = true) :
    OptWf (seatGroup s ctx es) := by
  unfold seatGroup
  repeat' (first | with_reducible apply firstSome_optWf | (solve | simp (maxDischargeDepth := 12) [*]) | split)

@[simp] theorem restoreScratch_wf (s : State) (c : Crew) (h : s.memWf = true) :
    State.memWf (restoreScratch s c) = true := by
  unfold restoreScratch
  repeat' (first
    | (solve | simp (maxDischargeDepth := 12) [*]) | with_reducible apply foldl_wf | with_reducible intro _)

@[simp] theorem restoreTimelines_wf (s : State) (c : Crew) (h : s.memWf = true) :
    State.memWf (restoreTimelines s c) = true := by
  unfold restoreTimelines
  repeat' (first
    | with_reducible assumption | with_reducible apply setTimeline_wf | with_reducible apply foldl_wf
    | with_reducible intro _)

@[simp] theorem startReload_wf (k : Nat) (s : State) (i : Nat) (h : s.memWf = true) :
    State.memWf (startReload k s i) = true := by
  unfold startReload
  repeat' (first | (simp (maxDischargeDepth := 12) [*]; done) | dsimp only | split)

@[simp] theorem resumeWarp_wf (s : State) (w : Warp) (h : s.memWf = true) :
    State.memWf (resumeWarp s w) = true := by
  unfold resumeWarp
  repeat' (first | (solve | simp (maxDischargeDepth := 12) [*]) | dsimp only | split)

@[simp] theorem chargeResume_wf (s : State) (c : Crew) (h : s.memWf = true) :
    State.memWf (chargeResume s c) = true := by
  unfold chargeResume
  repeat' (first | (solve | simp (maxDischargeDepth := 12) [*]) | dsimp only | split)

@[simp] theorem resumeCrew_wf (s : State) (k : Nat) (h : s.memWf = true) :
    State.memWf (resumeCrew s k) = true := by
  unfold resumeCrew
  repeat' (first
    | with_reducible apply chargeResume_wf | with_reducible assumption | with_reducible apply setCrew_wf | with_reducible apply mergeClock_wf
    | with_reducible apply modCrew_wf | with_reducible apply restoreScratch_wf
    | with_reducible apply restoreTimelines_wf | with_reducible apply startReload_wf
    | with_reducible apply resumeWarp_wf | with_reducible apply endWarp_wf | with_reducible intro _
    | (simp only [memWf_mk, Bool.and_eq_true]; refine ⟨⟨⟨?_, ?_⟩, ?_⟩, ?_⟩)
    | with_reducible apply chan_wf | with_reducible apply fabric_wf | with_reducible apply hostMem_wf
    | with_reducible apply scr_wf | with_reducible apply foldl_wf | split)

@[simp] theorem execGroupResume_wf (ctx grp : Nat) (s : State) (h : s.memWf = true) :
    ResWf (execGroupResume ctx grp s) := by
  unfold execGroupResume
  dsimp only
  split
  · exact (resWf_next _).2 h
  · rename_i g _
    split
    · exact (resWf_next _).2 h
    · split
      · exact (resWf_next _).2 (modCtx_wf _ _ _ h)
      · rename_i t e
        have ht : t.memWf = true := by
          split at e
          · exact opt_use ((optWf_some _).2 h) e
          · exact opt_use (seatGroup_wf _ _ _ h) e
        exact (resWf_next _).2 (rehash_wf _ _ (modCtx_wf _ _ _ (foldl_wf _ _ _ ht fun t k hk => resumeCrew_wf t k hk)))

end Sys2Proof.Laws
end

