-- ==== Sys2Proof/Laws/WfSteer.lean ====
section
/-! SUPPORT. The operations of Machine/Steer.lean keep every memory in canonical form. -/

set_option Elab.async false

namespace Sys2Proof.Laws

open Sys2Proof Sys2Proof.Machine

@[simp] theorem postWidth_wf (s : State) (core w : Nat) (h : s.memWf = true) :
    State.memWf (postWidth s core w) = true := by
  unfold postWidth
  repeat' (first | (solve | simp (maxDischargeDepth := 12) [*]))

@[simp] theorem leaveService_wf (s : State) (core : Nat) (h : s.memWf = true) :
    State.memWf (leaveService s core) = true := by
  unfold leaveService
  repeat' (first
    | with_reducible assumption | with_reducible apply modCore_wf | with_reducible apply vacate_wf
    | with_reducible apply postWidth_wf | with_reducible apply foldl_wf | with_reducible intro _)

@[simp] theorem execCoreOutOfService_wf (core : Nat) (s : State) (h : s.memWf = true) :
    ResWf (execCoreOutOfService core s) := by
  unfold execCoreOutOfService
  repeat' (first | (solve | simp (maxDischargeDepth := 12) [*]) | split)

@[simp] theorem execLaneSelfCheckFail_wf (core : Nat) (u : FailUnit) (s : State) (h : s.memWf = true) :
    ResWf (execLaneSelfCheckFail core u s) := by
  unfold execLaneSelfCheckFail
  repeat' (first | (solve | simp (maxDischargeDepth := 12) [*]) | dsimp only | split)

@[simp] theorem execQlaneWrite_wf (by_ : Agent) (core quarter : Nat) (val : Word) (s : State) (h : s.memWf = true) :
    ResWf (execQlaneWrite by_ core quarter val s) := by
  unfold execQlaneWrite
  repeat' (first | (solve | simp (maxDischargeDepth := 12) [*]) | dsimp only | split)

@[simp] theorem execQrowsWrite_wf (by_ : Agent) (core quarter : Nat) (val : Word) (s : State) (h : s.memWf = true) :
    ResWf (execQrowsWrite by_ core quarter val s) := by
  unfold execQrowsWrite
  repeat' (first | (solve | simp (maxDischargeDepth := 12) [*]) | dsimp only | split)

@[simp] theorem execSteeringRewriteDone_wf (core quarter : Nat) (s : State) (h : s.memWf = true) :
    ResWf (execSteeringRewriteDone core quarter s) := by
  unfold execSteeringRewriteDone
  repeat' (first | (solve | simp (maxDischargeDepth := 12) [*]) | dsimp only | split)

@[simp] theorem execBankRetire_wf (core phys : Nat) (s : State) (h : s.memWf = true) :
    ResWf (execBankRetire core phys s) := by
  unfold execBankRetire
  repeat' (first | (solve | simp (maxDischargeDepth := 12) [*]) | dsimp only | split)

@[simp] theorem execColumnSteerRewrite_wf (core : Nat) (s : State) (h : s.memWf = true) :
    ResWf (execColumnSteerRewrite core s) := by
  unfold execColumnSteerRewrite
  repeat' (first | (solve | simp (maxDischargeDepth := 12) [*]) | dsimp only | split)

end Sys2Proof.Laws
end

