-- ==== Sys2Proof/Laws/WfPower.lean ====
section
/-! SUPPORT. The operations of Machine/Power.lean keep every memory in canonical form. -/

set_option Elab.async false

namespace Sys2Proof.Laws

open Sys2Proof Sys2Proof.Machine

@[simp] theorem settleClusters_wf (s : State) (h : s.memWf = true) :
    State.memWf (settleClusters s) = true := by
  unfold settleClusters
  repeat' (first | (simp (maxDischargeDepth := 12) [*]; done))

@[simp] theorem passTime_wf (s : State) (ns : Nat) (h : s.memWf = true) :
    State.memWf (passTime s ns) = true := by
  unfold passTime
  repeat' (first | (solve | simp (maxDischargeDepth := 12) [*]))

@[simp] theorem chargeStatic_wf (s : State) (c pj : Nat) (h : s.memWf = true) :
    State.memWf (chargeStatic s c pj) = true := by
  unfold chargeStatic
  exact foldl_wf _ _ _ h fun _ _ hs => chargeCtx_wf _ _ _ hs

@[simp] theorem execSupplyDroop_wf (c clocks : Nat) (s : State) (h : s.memWf = true) :
    ResWf (execSupplyDroop c clocks s) := by
  unfold execSupplyDroop
  repeat' (first | (solve | simp (maxDischargeDepth := 12) [*]) | split)

@[simp] theorem applyLate_wf (s : State) (h : s.memWf = true) :
    State.memWf (applyLate s) = true := by
  unfold applyLate
  repeat' (first | (solve | simp (maxDischargeDepth := 12) [*]))

@[simp] theorem dealUnits_wf (s : State) (fresh : Bool) (h : s.memWf = true) :
    State.memWf (dealUnits s fresh) = true := by
  unfold dealUnits
  repeat' (first | (solve | simp (maxDischargeDepth := 12) [*]))

@[simp] theorem execGrantBoundary_wf (s : State) (h : s.memWf = true) :
    ResWf (execGrantBoundary s) := by
  unfold execGrantBoundary
  repeat' (first | (solve | simp (maxDischargeDepth := 12) [*]) | split)

@[simp] theorem execPowerMonitorSample_wf (watts : Nat) (s : State) (h : s.memWf = true) :
    ResWf (execPowerMonitorSample watts s) := by
  unfold execPowerMonitorSample
  repeat' (first | (solve | simp (maxDischargeDepth := 12) [*]) | dsimp only | split)

@[simp] theorem execTokenPass_wf (die : Nat) (s : State) (h : s.memWf = true) :
    ResWf (execTokenPass die s) := by
  unfold execTokenPass
  repeat' (first | (solve | simp (maxDischargeDepth := 12) [*]) | split)

@[simp] theorem execTokenTimeout_wf (die : Nat) (s : State) (h : s.memWf = true) :
    ResWf (execTokenTimeout die s) := by
  unfold execTokenTimeout
  repeat' (first | (solve | simp (maxDischargeDepth := 12) [*]) | split)

@[simp] theorem execPaceWrite_wf (by_ : Agent) (g : Nat) (val : Word) (s : State) (h : s.memWf = true) :
    ResWf (execPaceWrite by_ g val s) := by
  unfold execPaceWrite
  repeat' (first | (solve | simp (maxDischargeDepth := 12) [*]) | split)

@[simp] theorem execPaceApply_wf (g : Nat) (s : State) (h : s.memWf = true) :
    ResWf (execPaceApply g s) := by
  unfold execPaceApply
  repeat' (first
    | with_reducible assumption | with_reducible apply (resWf_next _).2 | with_reducible apply modCluster_wf
    | with_reducible apply modPower_wf | with_reducible apply foldl_wf | with_reducible intro _ | dsimp only | split)

@[simp] theorem execBudgetTokenSend_wf (pkg k : Nat) (s : State) (h : s.memWf = true) :
    ResWf (execBudgetTokenSend pkg k s) := by
  unfold execBudgetTokenSend
  repeat' (first | (solve | simp (maxDischargeDepth := 12) [*]) | dsimp only | split)

@[simp] theorem execBudgetTokenReceive_wf (pkg k : Nat) (s : State) (h : s.memWf = true) :
    ResWf (execBudgetTokenReceive pkg k s) := by
  unfold execBudgetTokenReceive
  repeat' (first | (solve | simp (maxDischargeDepth := 12) [*]) | dsimp only | split)

@[simp] theorem tokenAck_wf (s : State) (k : Nat) (h : s.memWf = true) :
    State.memWf (tokenAck s k) = true := by
  unfold tokenAck
  repeat' (first | (solve | simp (maxDischargeDepth := 12) [*]))

@[simp] theorem tokenBack_wf (s : State) (k : Nat) (h : s.memWf = true) :
    State.memWf (tokenBack s k) = true := by
  unfold tokenBack
  repeat' (first | (solve | simp (maxDischargeDepth := 12) [*]))

@[simp] theorem execClusterQuiesce_wf (c : Nat) (s : State) (h : s.memWf = true) :
    ResWf (execClusterQuiesce c s) := by
  unfold execClusterQuiesce
  repeat' (first | (solve | simp (maxDischargeDepth := 12) [*]) | dsimp only | split)

@[simp] theorem execSlewAdmit_wf (s : State) (h : s.memWf = true) :
    ResWf (execSlewAdmit s) := by
  unfold execSlewAdmit
  repeat' (first
    | with_reducible assumption | with_reducible apply (resWf_next _).2 | with_reducible apply modCluster_wf
    | with_reducible apply modPower_wf | with_reducible apply foldl_wf | with_reducible intro _ | dsimp only | split)

end Sys2Proof.Laws
end

