-- ==== Sys2Proof/Laws/WfCe.lean ====
section
/-! SUPPORT. The operations of Machine/Ce.lean keep every memory in canonical form. -/

set_option Elab.async false

namespace Sys2Proof.Laws

open Sys2Proof Sys2Proof.Machine

@[simp] theorem setRing_wf (s : State) (ctx die : Nat) (r : CeRing) (h : s.memWf = true) :
    State.memWf (setRing s ctx die r) = true := by
  unfold setRing
  repeat' (first | (solve | simp (maxDischargeDepth := 12) [*]))

@[simp] theorem execCeTailWrite_wf (by_ : Agent) (ctx die : Nat) (val : Word) (s : State) (h : s.memWf = true) :
    ResWf (execCeTailWrite by_ ctx die val s) := by
  unfold execCeTailWrite
  repeat' (first | (solve | simp (maxDischargeDepth := 12) [*]) | dsimp only | split)

@[simp] theorem ceLoad_wf (ctx die va n : Nat) (copy : Bool) (s : State) (h : s.memWf = true) :
    GotWf (ceLoad ctx die va n copy s) := by
  unfold ceLoad
  repeat' (first
    | with_reducible refine optPair_use (dieLoad_wf _ _ _ _ _ _ _ _ ?_) ‹_› | with_reducible apply (gotWf_ok _ _).2
    | (simp (maxDischargeDepth := 12) [*]; done) | split)

@[simp] theorem ceRead_wf (ctx die va : Nat) (s : State) (h : s.memWf = true) :
    GotWf (ceRead ctx die va s) := by
  exact ceLoad_wf _ _ _ _ _ _ h

@[simp] theorem ceWrite_wf (ctx die seq va : Nat) (copy : Bool) (d : Piece) (s : State) (h : s.memWf = true) :
    GotWf (ceWrite ctx die seq va copy d s) := by
  unfold ceWrite
  repeat' (first | (solve | simp (maxDischargeDepth := 12) [*]) | dsimp only | split)

@[simp] theorem ceStep_wf (ctx die seq : Nat) (ws : List Word) (s : State) (i : Nat) (h : s.memWf = true) :
    GotWf (ceStep ctx die seq ws s i) := by
  unfold ceStep
  repeat' (first
    | with_reducible refine got_use (got_each_wf _ _ _ ?_ ?_) ‹_› | with_reducible apply ceWrite_wf
    | (solve | simp (maxDischargeDepth := 12) [*]) | with_reducible intro _ | split)

/-- What a command's flits come to keeps the memories in canonical form. -/
def CeRunWf (r : CeRun) : Prop :=
  match r with
  | .all s => s.memWf = true
  | .upto s _ _ => s.memWf = true

theorem ceFlits_wf (ctx die seq : Nat) (ws : List Word) (n : Nat) (s : State) (i : Nat) (h : s.memWf = true) :
    CeRunWf (ceFlits ctx die seq ws n s i) := by
  induction n generalizing s i with
  | zero => exact h
  | succ n ih =>
    unfold ceFlits
    split <;> rename_i e
    · exact h
    · exact h
    · exact ih _ _ (got_use (ceStep_wf _ _ _ _ _ _ h) e)

theorem ceFlits_all {ctx die seq : Nat} {ws : List Word} {n : Nat} {s t : State} {i : Nat} (h : s.memWf = true)
    (e : ceFlits ctx die seq ws n s i = .all t) : t.memWf = true := by
  have := ceFlits_wf ctx die seq ws n s i h
  rw [e] at this; exact this

theorem ceFlits_upto {ctx die seq : Nat} {ws : List Word} {n : Nat} {s t : State} {i j : Nat} {f : Option (Nat × Nat)}
    (h : s.memWf = true) (e : ceFlits ctx die seq ws n s i = .upto t j f) : t.memWf = true := by
  have := ceFlits_wf ctx die seq ws n s i h
  rw [e] at this; exact this

@[simp] theorem chargeCe_wf (s : State) (ctx : Nat) (ws : List Word) (h : s.memWf = true) :
    State.memWf (chargeCe s ctx ws) = true := chargeCtx_wf _ _ _ h

@[simp] theorem ceTake_wf (s : State) (ctx die : Nat) (h : s.memWf = true) :
    AdvWf (ceTake s ctx die) := by
  unfold ceTake
  repeat' (first
    | with_reducible refine got_use (ceLoad_wf _ _ _ _ _ _ ?_) ‹_› | with_reducible apply setRing_wf
    | with_reducible apply (advWf_ok _).2 | (simp (maxDischargeDepth := 12) [*]; done) | dsimp only | split)

@[simp] theorem ceNext_wf (s : State) (ctx die : Nat) (ws : List Word) (h : s.memWf = true) :
    AdvWf (ceNext s ctx die ws) := by
  unfold ceNext
  repeat' (first
    | with_reducible refine got_use (ceWrite_wf _ _ _ _ _ _ _ ?_) ‹_› | with_reducible refine ceFlits_all ?_ ‹_›
    | with_reducible refine ceFlits_upto ?_ ‹_› | with_reducible apply chargeCe_wf | with_reducible apply setRing_wf
    | with_reducible apply (advWf_ok _).2 | (solve | simp (maxDischargeDepth := 12) [*]) | dsimp only | split)

@[simp] theorem ceAdvance_wf (s : State) (ctx die : Nat) (h : s.memWf = true) :
    AdvWf (ceAdvance s ctx die) := by
  unfold ceAdvance
  repeat' (first | (solve | simp (maxDischargeDepth := 12) [*]) | dsimp only | split)

@[simp] theorem ceSteps_wf (n : Nat) (s : State) (ctx die : Nat) (h : s.memWf = true) :
    State.memWf (ceSteps n s ctx die) = true := by
  induction n generalizing s with
  | zero => exact h
  | succ n ih =>
    unfold ceSteps
    split
    · exact ih _ (adv_use (ceAdvance_wf _ _ _ h) ‹_›)
    · exact h

@[simp] theorem execCeCommand_wf (ctx die : Nat) (s : State) (h : s.memWf = true) :
    ResWf (execCeCommand ctx die s) := by
  unfold execCeCommand
  repeat' (first | (solve | simp (maxDischargeDepth := 12) [*]))

@[simp] theorem execCeFault_wf (ctx die : Nat) (s : State) (h : s.memWf = true) :
    ResWf (execCeFault ctx die s) := by
  unfold execCeFault
  repeat' (first | (solve | simp (maxDischargeDepth := 12) [*]) | dsimp only | split)

@[simp] theorem execPhaseAdvance_wf (ctx : Nat) (s : State) (h : s.memWf = true) :
    ResWf (execPhaseAdvance ctx s) := by
  unfold execPhaseAdvance
  repeat' (first | (solve | simp (maxDischargeDepth := 12) [*]) | dsimp only | split)

@[simp] theorem execDigestCompare_wf (ctx k : Nat) (s : State) (h : s.memWf = true) :
    ResWf (execDigestCompare ctx k s) := by
  unfold execDigestCompare
  repeat' (first | (solve | simp (maxDischargeDepth := 12) [*]) | dsimp only | split)

end Sys2Proof.Laws
end

