-- ==== Sys2Proof/Laws/WfHostPort.lean ====
section
/-! SUPPORT. The operations of Machine/HostPort.lean keep every memory in canonical form. -/

set_option Elab.async false

namespace Sys2Proof.Laws

open Sys2Proof Sys2Proof.Machine

@[simp] theorem takeOwner_wf (s : State) (c : Nat) (h : s.memWf = true) : State.memWf (takeOwner s c) = true :=
  modGlob_wf _ _ h

@[simp] theorem dropOwner_wf (s : State) (m : Agent) (h : s.memWf = true) : State.memWf (dropOwner s m) = true := by
  unfold dropOwner
  repeat' (first | (solve | simp (maxDischargeDepth := 12) [*]) | split)

@[simp] theorem execOwnerClaim_wf (m : Agent) (s : State) (h : s.memWf = true) :
    ResWf (execOwnerClaim m s) := by
  unfold execOwnerClaim
  repeat' (first | (solve | simp (maxDischargeDepth := 12) [*]) | dsimp only | split)

@[simp] theorem execOwnerNameSuccessor_wf (m succ : Agent) (s : State) (h : s.memWf = true) :
    ResWf (execOwnerNameSuccessor m succ s) := by
  unfold execOwnerNameSuccessor
  repeat' (first | (solve | simp (maxDischargeDepth := 12) [*]) | split)

@[simp] theorem execOwnerRelease_wf (m : Agent) (s : State) (h : s.memWf = true) :
    ResWf (execOwnerRelease m s) := by
  unfold execOwnerRelease
  repeat' (first | (solve | simp (maxDischargeDepth := 12) [*]) | split)

@[simp] theorem execHandoverExpire_wf (s : State) (h : s.memWf = true) :
    ResWf (execHandoverExpire s) := by
  unfold execHandoverExpire
  repeat' (first | (solve | simp (maxDischargeDepth := 12) [*]) | split)

@[simp] theorem bootQuarter_wf (s : State) (e : Nat × BitVec 32 × BitVec 32) (h : s.memWf = true) :
    State.memWf (bootQuarter s e) = true := by
  unfold bootQuarter
  repeat' (first | (simp (maxDischargeDepth := 12) [*]; done) | dsimp only | split)

@[simp] theorem bootWith_wf (b : BootIn) (img : Bool) (s : State) (h : s.memWf = true) :
    State.memWf (bootWith b img s) = true := by
  unfold bootWith
  repeat' (first
    | with_reducible assumption | with_reducible apply modGlob_wf | with_reducible apply modLinks_wf
    | with_reducible apply modMem_wf | with_reducible apply bootQuarter_wf | with_reducible apply chan_wf
    | with_reducible apply fabric_wf | with_reducible apply hostMem_wf | with_reducible apply foldl_wf
    | with_reducible apply updatePort_wf | with_reducible intro _)

@[simp] theorem execBoot_wf (b : BootIn) (s : State) (h : s.memWf = true) :
    ResWf (execBoot b s) := by
  unfold execBoot
  repeat' (first | (solve | simp (maxDischargeDepth := 12) [*]) | split)

@[simp] theorem spdmAnswer_wf (s : State) (code : Nat) (body : List Byte) (h : s.memWf = true) :
    ResWf (spdmAnswer s code body) := by
  unfold spdmAnswer
  repeat' (first | (solve | simp (maxDischargeDepth := 12) [*]))

@[simp] theorem spdmRefuse_wf (s : State) (h : s.memWf = true) :
    ResWf (spdmRefuse s) := by
  unfold spdmRefuse
  repeat' (first | (solve | simp (maxDischargeDepth := 12) [*]))

@[simp] theorem execSpdmGetVersion_wf (s : State) (h : s.memWf = true) :
    ResWf (execSpdmGetVersion s) := by
  unfold execSpdmGetVersion
  repeat' (first | (solve | simp (maxDischargeDepth := 12) [*]))

@[simp] theorem execSpdmGetCapabilities_wf (s : State) (h : s.memWf = true) :
    ResWf (execSpdmGetCapabilities s) := by
  unfold execSpdmGetCapabilities
  repeat' (first | (solve | simp (maxDischargeDepth := 12) [*]))

@[simp] theorem execSpdmNegotiateAlgorithms_wf (hash asym : Nat) (s : State) (h : s.memWf = true) :
    ResWf (execSpdmNegotiateAlgorithms hash asym s) := by
  unfold execSpdmNegotiateAlgorithms
  repeat' (first | (solve | simp (maxDischargeDepth := 12) [*]) | split)

@[simp] theorem spdmIf_wf (s : State) (code : Nat) (body : List Byte) (h : s.memWf = true) :
    ResWf (spdmIf s code body) := by
  unfold spdmIf
  repeat' (first | (solve | simp (maxDischargeDepth := 12) [*]) | split)

@[simp] theorem execSpdmGetDigests_wf (s : State) (h : s.memWf = true) :
    ResWf (execSpdmGetDigests s) := by
  unfold execSpdmGetDigests
  repeat' (first | (solve | simp (maxDischargeDepth := 12) [*]))

@[simp] theorem execSpdmGetCertificate_wf (slot : Nat) (s : State) (h : s.memWf = true) :
    ResWf (execSpdmGetCertificate slot s) := by
  unfold execSpdmGetCertificate
  repeat' (first | (solve | simp (maxDischargeDepth := 12) [*]))

@[simp] theorem execSpdmChallenge_wf (nonce : List Byte) (s : State) (h : s.memWf = true) :
    ResWf (execSpdmChallenge nonce s) := by
  unfold execSpdmChallenge
  repeat' (first | (solve | simp (maxDischargeDepth := 12) [*]))

@[simp] theorem execSpdmGetMeasurements_wf (index : Nat) (s : State) (h : s.memWf = true) :
    ResWf (execSpdmGetMeasurements index s) := by
  unfold execSpdmGetMeasurements
  repeat' (first | (solve | simp (maxDischargeDepth := 12) [*]) | split)

@[simp] theorem ringDoorbell_wf (s : State) (ctx x : Nat) (h : s.memWf = true) :
    State.memWf (ringDoorbell s ctx x) = true := by
  unfold ringDoorbell
  repeat' (first | (solve | simp (maxDischargeDepth := 12) [*]) | dsimp only | split)

@[simp] theorem execDoorbell_wf (by_ : Agent) (ctx : Nat) (val : Word) (s : State) (h : s.memWf = true) :
    ResWf (execDoorbell by_ ctx val s) := by
  unfold execDoorbell
  repeat' (first | (solve | simp (maxDischargeDepth := 12) [*]) | split)

@[simp] theorem storeRegion_wf (s : State) (r v : Nat) (h : s.memWf = true) :
    State.memWf (storeRegion s r v) = true := by
  unfold storeRegion
  repeat' (first | (solve | simp (maxDischargeDepth := 12) [*]) | split)

@[simp] theorem storeSetCtl_wf (s : State) (i v : Nat) (h : s.memWf = true) :
    State.memWf (storeSetCtl s i v) = true := by
  unfold storeSetCtl
  repeat' (first | (solve | simp (maxDischargeDepth := 12) [*]) | split)

@[simp] theorem storeSliceCtl_wf (s : State) (v : Nat) (h : s.memWf = true) :
    State.memWf (storeSliceCtl s v) = true := by
  unfold storeSliceCtl
  repeat' (first | (solve | simp (maxDischargeDepth := 12) [*]) | split)

@[simp] theorem storeGrant_wf (s : State) (n v : Nat) (h : s.memWf = true) :
    State.memWf (storeGrant s n v) = true := by
  unfold storeGrant
  repeat' (first | (solve | simp (maxDischargeDepth := 12) [*]))

@[simp] theorem storeArb_wf (s : State) (v : Nat) (h : s.memWf = true) :
    State.memWf (storeArb s v) = true := by
  unfold storeArb
  repeat' (first | (solve | simp (maxDischargeDepth := 12) [*]))

@[simp] theorem storeRail_wf (s : State) (r v : Nat) (h : s.memWf = true) :
    State.memWf (storeRail s r v) = true := by
  unfold storeRail
  repeat' (first
    | with_reducible assumption | with_reducible apply modCluster_wf | with_reducible apply modPower_wf
    | with_reducible apply foldl_wf | with_reducible intro _)

@[simp] theorem storeFw_wf (s : State) (r : Reg) (v : Nat) (h : s.memWf = true) :
    State.memWf (storeFw s r v) = true := by
  unfold storeFw
  repeat' (first | (solve | simp (maxDischargeDepth := 12) [*]) | split)

@[simp] theorem storePriv_wf (s : State) (r : Reg) (val : Word) (h : s.memWf = true) :
    State.memWf (storePriv s r val) = true := by
  unfold storePriv
  repeat' (first | (solve | simp (maxDischargeDepth := 12) [*]) | split)

@[simp] theorem storeCalving_wf (s : State) (ctx v : Nat) (h : s.memWf = true) :
    State.memWf (storeCalving s ctx v) = true := by
  unfold storeCalving
  repeat' (first | (simp (maxDischargeDepth := 12) [*]; done) | split)

@[simp] theorem storePage_wf (s : State) (by_ : Agent) (r : Reg) (val : Word) (h : s.memWf = true) :
    State.memWf (storePage s by_ r val) = true := by
  unfold storePage
  repeat' (first | (solve | simp (maxDischargeDepth := 12) [*]) | dsimp only | split)

@[simp] theorem writeResolve_wf (by_ : Agent) (ctx : Nat) (val : Word) (s : State) (h : s.memWf = true) :
    ResWf (writeResolve by_ ctx val s) := by
  unfold writeResolve
  repeat' (first | (solve | simp (maxDischargeDepth := 12) [*]) | split)

@[simp] theorem writeMsix_wf (s : State) (w : Nat) (val : Word) (h : s.memWf = true) :
    State.memWf (writeMsix s w val) = true := modGlob_wf _ _ h

@[simp] theorem execRegisterWrite_wf (by_ : Agent) (r : Reg) (val : Word) (s : State) (h : s.memWf = true) :
    ResWf (execRegisterWrite by_ r val s) := by
  unfold execRegisterWrite
  repeat' (first | (solve | simp (maxDischargeDepth := 12) [*]) | split)

end Sys2Proof.Laws
end

