-- ==== Sys2Proof/Laws/WfExec.lean ====
section
/-! SUPPORT. Every instruction and event keeps every memory in canonical form. -/

set_option Elab.async false

namespace Sys2Proof.Laws

open Sys2Proof Sys2Proof.Machine

/-- Whatever an instruction or event answers, its memories are in canonical form if they were. -/
theorem exec_wf (i : Instr) (s : State) (h : s.memWf = true) : ResWf (exec i s) :=
  match i with
  | .iadd f => execIadd_wf f s h
  | .isub f => execIsub_wf f s h
  | .iadds f => execIadds_wf f s h
  | .isubs f => execIsubs_wf f s h
  | .iaddi f => execIaddi_wf f s h
  | .imul f => execImul_wf f s h
  | .imulh f => execImulh_wf f s h
  | .imad f => execImad_wf f s h
  | .imin f => execImin_wf f s h
  | .imax f => execImax_wf f s h
  | .iabs f => execIabs_wf f s h
  | .ineg f => execIneg_wf f s h
  | .and f => execAnd_wf f s h
  | .or f => execOr_wf f s h
  | .xor f => execXor_wf f s h
  | .andn f => execAndn_wf f s h
  | .andi f => execAndi_wf f s h
  | .ori f => execOri_wf f s h
  | .xori f => execXori_wf f s h
  | .shl f => execShl_wf f s h
  | .shr f => execShr_wf f s h
  | .sra f => execSra_wf f s h
  | .rot f => execRot_wf f s h
  | .shli f => execShli_wf f s h
  | .shri f => execShri_wf f s h
  | .srai f => execSrai_wf f s h
  | .roti f => execRoti_wf f s h
  | .popc f => execPopc_wf f s h
  | .clz f => execClz_wf f s h
  | .ctz f => execCtz_wf f s h
  | .brev f => execBrev_wf f s h
  | .bfx f => execBfx_wf f s h
  | .bfxs f => execBfxs_wf f s h
  | .bfi f => execBfi_wf f s h
  | .lea f => execLea_wf f s h
  | .iseteq f => execIseteq_wf f s h
  | .isetne f => execIsetne_wf f s h
  | .isetlt f => execIsetlt_wf f s h
  | .isetle f => execIsetle_wf f s h
  | .isetgt f => execIsetgt_wf f s h
  | .isetge f => execIsetge_wf f s h
  | .itest f => execItest_wf f s h
  | .sel f => execSel_wf f s h
  | .mov f => execMov_wf f s h
  | .movi f => execMovi_wf f s h
  | .rds d sp => execRds_wf d sp s h
  | .wrs a sp => execWrs_wf a sp s h
  | .mov16 f => execMov16_wf f s h
  | .zeroHalfword => execZeroHalfword_wf s h
  | .iadd16 f => execIadd16_wf f s h
  | .isub16 f => execIsub16_wf f s h
  | .and16 f => execAnd16_wf f s h
  | .or16 f => execOr16_wf f s h
  | .xor16 f => execXor16_wf f s h
  | .shli16 f => execShli16_wf f s h
  | .shri16 f => execShri16_wf f s h
  | .movi16 f => execMovi16_wf f s h
  | .iaddi16 f => execIaddi16_wf f s h
  | .fadd16 f => execFadd16_wf f s h
  | .fmul16 f => execFmul16_wf f s h
  | .fsub16 f => execFsub16_wf f s h
  | .imul16 f => execImul16_wf f s h
  | .lds16 x d => execLds16_wf x d s h
  | .sts16 x d => execSts16_wf x d s h
  | .bra off => execBra_wf off s h
  | .brc off a c => execBrc_wf off a c s h
  | .brx off a z => execBrx_wf off a z s h
  | .brk a z => execBrk_wf a z s h
  | .pj off => execPj_wf off s h
  | .call off => execCall_wf off s h
  | .join => execJoin_wf s h
  | .jmpr a => execJmpr_wf a s h
  | .exit => execExit_wf s h
  | .callr a => execCallr_wf a s h
  | .mskrd d sel => execMskrd_wf d sel s h
  | .mskwr a => execMskwr_wf a s h
  | .mskand a => execMskand_wf a s h
  | .fadd f => execFadd_wf f s h
  | .fsub f => execFsub_wf f s h
  | .fmul f => execFmul_wf f s h
  | .ffma f => execFfma_wf f s h
  | .fmin f => execFmin_wf f s h
  | .fmax f => execFmax_wf f s h
  | .fabs f => execFabs_wf f s h
  | .fneg f => execFneg_wf f s h
  | .frcp f => execFrcp_wf f s h
  | .frsq f => execFrsq_wf f s h
  | .fsqrt f => execFsqrt_wf f s h
  | .fexp2 f => execFexp2_wf f s h
  | .flog2 f => execFlog2_wf f s h
  | .fsin f => execFsin_wf f s h
  | .fcos f => execFcos_wf f s h
  | .frnd f => execFrnd_wf f s h
  | .fseteq f => execFseteq_wf f s h
  | .fsetne f => execFsetne_wf f s h
  | .fsetlt f => execFsetlt_wf f s h
  | .fsetle f => execFsetle_wf f s h
  | .fsetgt f => execFsetgt_wf f s h
  | .fsetge f => execFsetge_wf f s h
  | .fsetun f => execFsetun_wf f s h
  | .fclass f => execFclass_wf f s h
  | .cvt f => execCvt_wf f s h
  | .sepk f => execSepk_wf f s h
  | .seunpk f => execSeunpk_wf f s h
  | .f8pk f => execF8pk_wf f s h
  | .f8unpk f => execF8unpk_wf f s h
  | .shfl f => execShfl_wf f s h
  | .shflx f => execShflx_wf f s h
  | .shflu f => execShflu_wf f s h
  | .shfld f => execShfld_wf f s h
  | .vany f => execVany_wf f s h
  | .vall f => execVall_wf f s h
  | .vuni f => execVuni_wf f s h
  | .ballot f => execBallot_wf f s h
  | .scan f => execScan_wf f s h
  | .scanx f => execScanx_wf f s h
  | .red f => execRed_wf f s h
  | .segred f => execSegred_wf f s h
  | .cmprs f => execCmprs_wf f s h
  | .expnd f => execExpnd_wf f s h
  | .matchv f => execMatchv_wf f s h
  | .ldg f => execLdg_wf f s h
  | .stg f => execStg_wf f s h
  | .lds f => execLds_wf f s h
  | .sts f => execSts_wf f s h
  | .cstg f => execCstg_wf f s h
  | .csts f => execCsts_wf f s h
  | .atomg f => execAtomg_wf f s h
  | .atomx f => execAtomx_wf f s h
  | .atoms f => execAtoms_wf f s h
  | .fence k scope => execFence_wf k scope s h
  | .tlwait e n => execTlwait_wf e n s h
  | .tlrd e d fault => execTlrd_wf e d fault s h
  | .deq d c scope => execDeq_wf d c scope s h
  | .enq d c scope close => execEnq_wf d c scope close s h
  | .qtry d c scope => execQtry_wf d c scope s h
  | .qbind c => execQbind_wf c s h
  | .barinit c => execBarinit_wf c s h
  | .bararv d c scope => execBararv_wf d c scope s h
  | .barwait n c scope => execBarwait_wf n c scope s h
  | .bararvw c scope => execBararvw_wf c scope s h
  | .cpy f => execCpy_wf f s h
  | .cpyt f => execCpyt_wf f s h
  | .cpyp f => execCpyp_wf f s h
  | .cpyg f => execCpyg_wf f s h
  | .cpyr f => execCpyr_wf f s h
  | .cpye f => execCpye_wf f s h
  | .pfch q c scope cw => execPfch_wf q c scope cw s h
  | .recld c => execRecld_wf c s h
  | .recinv c => execRecinv_wf c s h
  | .recq d c => execRecq_wf d c s h
  | .mma c => execMma_wf c s h
  | .mman c => execMman_wf c s h
  | .accz c => execAccz_wf c s h
  | .accrd d c sat => execAccrd_wf d c sat s h
  | .accwr c => execAccwr_wf c s h
  | .wbld c => execWbld_wf c s h
  | .wbq d c => execWbq_wf d c s h
  | .tbuild c => execTbuild_wf c s h
  | .tlook c => execTlook_wf c s h
  | .tfin c acc => execTfin_wf c acc s h
  | .tchk d c => execTchk_wf d c s h
  | .tspill c => execTspill_wf c s h
  | .tfill c => execTfill_wf c s h
  | .tinv c => execTinv_wf c s h
  | .tfence => execTfence_wf s h
  | .flgrd d b => execFlgrd_wf d b s h
  | .flgwr a b => execFlgwr_wf a b s h
  | .prio a => execPrio_wf a s h
  | .regrs d a => execRegrs_wf d a s h
  | .yield => execYield_wf s h
  | .sleep a => execSleep_wf a s h
  | .csrr d r => execCsrr_wf d r s h
  | .csrw r a => execCsrw_wf r a s h
  | .nop => execNop_wf s h
  | .trap code => execTrap_wf code s h
  | .bkpt => execBkpt_wf s h
  | .phase => execPhase_wf s h
  | .limm imm => execLimm_wf imm s h
  | .trl mask x y => execTrl_wf mask x y s h
  | .runStart core quarter => execRunStart_wf core quarter s h
  | .blockedRunResume warp => execBlockedRunResume_wf warp s h
  | .slotReturn warp slot => execSlotReturn_wf warp slot s h
  | .trapDeliver warp => execTrapDeliver_wf warp s h
  | .faultRecordWrite ctx => execFaultRecordWrite_wf ctx s h
  | .faultRingHeadWrite by_ ctx val => execFaultRingHeadWrite_wf by_ ctx val s h
  | .priorityPromote warp => execPriorityPromote_wf warp s h
  | .warpEnd warp => execWarpEnd_wf warp s h
  | .sleepExpire warp => execSleepExpire_wf warp s h
  | .recordFetch core ctx handle => execRecordFetch_wf core ctx handle s h
  | .pageWalk core ctx va => execPageWalk_wf core ctx va s h
  | .copyRetire core queue => execCopyRetire_wf core queue s h
  | .chainStart core queue => execChainStart_wf core queue s h
  | .engineFaultPending core eng => execEngineFaultPending_wf core eng s h
  | .mxRetire core => execMxRetire_wf core s h
  | .lkRetire core => execLkRetire_wf core s h
  | .messageArrive k => execMessageArrive_wf k s h
  | .creditReturn k => execCreditReturn_wf k s h
  | .remoteHalfAccess warp slot lane => execRemoteHalfAccess_wf warp slot lane s h
  | .farArrival k => execFarArrival_wf k s h
  | .queueItemDeliver warp slot => execQueueItemDeliver_wf warp slot s h
  | .queueOrphan ctx qb => execQueueOrphan_wf ctx qb s h
  | .sliceAccess r => execSliceAccess_wf r s h
  | .replicaInvalidate line die => execReplicaInvalidate_wf line die s h
  | .collapseComplete line => execCollapseComplete_wf line s h
  | .sliceWriteApply die num => execSliceWriteApply_wf die num s h
  | .channelAccess line act => execChannelAccess_wf line act s h
  | .torusHop r => execTorusHop_wf r s h
  | .holdingBufferRelease router out => execHoldingBufferRelease_wf router out s h
  | .fabricAccess port => execFabricAccess_wf port s h
  | .opticalFlitReceive port rx => execOpticalFlitReceive_wf port rx s h
  | .wavelengthRetire port dir wl bits => execWavelengthRetire_wf port dir wl bits s h
  | .wavelengthTrainDone port dir wl ok => execWavelengthTrainDone_wf port dir wl ok s h
  | .wavelengthEnableWrite by_ port dir wl val => execWavelengthEnableWrite_wf by_ port dir wl val s h
  | .routePortWrite by_ p val => execRoutePortWrite_wf by_ p val s h
  | .dieMapWrite by_ val => execDieMapWrite_wf by_ val s h
  | .dieMapApply => execDieMapApply_wf s h
  | .setEvacuate by_ set ch => execSetEvacuate_wf by_ set ch s h
  | .setFail by_ set ch => execSetFail_wf by_ set ch s h
  | .moraineGranuleBegin set => execMoraineGranuleBegin_wf set s h
  | .moraineGranuleComplete set => execMoraineGranuleComplete_wf set s h
  | .sliceEvacuate by_ slice => execSliceEvacuate_wf by_ slice s h
  | .sliceEntryMove => execSliceEntryMove_wf s h
  | .bankRetire core phys => execBankRetire_wf core phys s h
  | .columnSteerRewrite core => execColumnSteerRewrite_wf core s h
  | .shootdown by_ ctx val => execShootdown_wf by_ ctx val s h
  | .shootdownComplete ctx => execShootdownComplete_wf ctx s h
  | .launchWrite by_ ctx val => execLaunchWrite_wf by_ ctx val s h
  | .launchRecordRead ctx => execLaunchRecordRead_wf ctx s h
  | .placementEntryApply die => execPlacementEntryApply_wf die s h
  | .calveCommand by_ ctx n => execCalveCommand_wf by_ ctx n s h
  | .returnCommand by_ r => execReturnCommand_wf by_ r s h
  | .graceExpire warp => execGraceExpire_wf warp s h
  | .calveSaveDone ctx => execCalveSaveDone_wf ctx s h
  | .groupResume ctx grp => execGroupResume_wf ctx grp s h
  | .qlaneWrite by_ core quarter val => execQlaneWrite_wf by_ core quarter val s h
  | .qrowsWrite by_ core quarter val => execQrowsWrite_wf by_ core quarter val s h
  | .steeringRewriteDone core quarter => execSteeringRewriteDone_wf core quarter s h
  | .laneSelfCheckFail core u => execLaneSelfCheckFail_wf core u s h
  | .coreOutOfService core => execCoreOutOfService_wf core s h
  | .regrsGrant core quarter => execRegrsGrant_wf core quarter s h
  | .regrsDeny core quarter => execRegrsDeny_wf core quarter s h
  | .clusterQuiesce c => execClusterQuiesce_wf c s h
  | .slewAdmit => execSlewAdmit_wf s h
  | .grantBoundary => execGrantBoundary_wf s h
  | .powerMonitorSample watts => execPowerMonitorSample_wf watts s h
  | .tokenPass die => execTokenPass_wf die s h
  | .tokenTimeout die => execTokenTimeout_wf die s h
  | .paceWrite by_ g val => execPaceWrite_wf by_ g val s h
  | .paceApply g => execPaceApply_wf g s h
  | .budgetTokenSend pkg k => execBudgetTokenSend_wf pkg k s h
  | .budgetTokenReceive pkg k => execBudgetTokenReceive_wf pkg k s h
  | .supplyDroop c clocks => execSupplyDroop_wf c clocks s h
  | .phaseAdvance ctx => execPhaseAdvance_wf ctx s h
  | .digestCompare ctx k => execDigestCompare_wf ctx k s h
  | .ceTailWrite by_ ctx die val => execCeTailWrite_wf by_ ctx die val s h
  | .ceCommand ctx die => execCeCommand_wf ctx die s h
  | .ceFault ctx die => execCeFault_wf ctx die s h
  | .doorbell by_ ctx val => execDoorbell_wf by_ ctx val s h
  | .resolveRetryWarp by_ ctx val => execResolveRetryWarp_wf by_ ctx val s h
  | .resolveEndCrew by_ ctx val => execResolveEndCrew_wf by_ ctx val s h
  | .resolveRetryEngine by_ ctx val => execResolveRetryEngine_wf by_ ctx val s h
  | .resolveAbandon by_ ctx val => execResolveAbandon_wf by_ ctx val s h
  | .resolveClearP by_ ctx val => execResolveClearP_wf by_ ctx val s h
  | .hostBar2Access pa r => execHostBar2Access_wf pa r s h
  | .ownerClaim m => execOwnerClaim_wf m s h
  | .ownerNameSuccessor m succ => execOwnerNameSuccessor_wf m succ s h
  | .ownerRelease m => execOwnerRelease_wf m s h
  | .handoverExpire => execHandoverExpire_wf s h
  | .boot b => execBoot_wf b s h
  | .spdmGetVersion => execSpdmGetVersion_wf s h
  | .spdmGetCapabilities => execSpdmGetCapabilities_wf s h
  | .spdmNegotiateAlgorithms hash asym => execSpdmNegotiateAlgorithms_wf hash asym s h
  | .spdmGetDigests => execSpdmGetDigests_wf s h
  | .spdmGetCertificate slot => execSpdmGetCertificate_wf slot s h
  | .spdmChallenge nonce => execSpdmChallenge_wf nonce s h
  | .spdmGetMeasurements index => execSpdmGetMeasurements_wf index s h
  | .memoryScrub chan flit raced => execMemoryScrub_wf chan flit raced s h
  | .registerWrite by_ r val => execRegisterWrite_wf by_ r val s h
  | .hostDmaTransfer ctx va r => execHostDmaTransfer_wf ctx va r s h
  | .opticalPartnerAttach port on => execOpticalPartnerAttach_wf port on s h
  | .hostLinkTraining up => execHostLinkTraining_wf up s h

end Sys2Proof.Laws
end

