-- ==== Sys2Proof/Laws/WfRun.lean ====
section
/-! SUPPORT. The operations of Machine/Run.lean keep every memory in canonical form. -/

set_option Elab.async false

namespace Sys2Proof.Laws

open Sys2Proof Sys2Proof.Machine

@[simp] theorem fetched_wf (s : State) (w : Warp) (n : Nat) (h : s.memWf = true) :
    State.memWf (fetched s w n) = true := by
  unfold fetched
  split
  · exact h
  · refine foldl_wf _ _ _ (by split <;> exact h) fun t x ht => ?_
    dsimp only
    split
    · exact ht
    · split
      · exact ht
      · exact homeServes_wf _ _ _ _ _ _ _ ht

@[simp] theorem issueTurn_wf (k : Nat) (s : State) (h : s.memWf = true) :
    ResWf (issueTurn k s) := by
  unfold issueTurn
  split
  · exact (resWf_next _).2 h
  · split
    · exact (resWf_next _).2 h
    · split
      · exact (resWf_next _).2 (raise_wf _ _ _ _ h)
      · split
        · exact (resWf_next _).2 (raise_wf _ _ _ _ (fetched_wf _ _ _ h))
        · exact exec_wf _ _ (setWarp_wf _ _ _ (fetched_wf _ _ _ h))

@[simp] theorem passTie_wf (s : State) (w : Warp) (h : s.memWf = true) :
    State.memWf (passTie s w) = true := modCore_wf _ _ _ h

theorem res_use {r : Res} {t : State} (h : ResWf r) (e : r = .next t) : t.memWf = true := h _ e

@[simp] theorem warpTurn_wf (k : Nat) (s : State) (h : s.memWf = true) :
    ResWf (warpTurn k s) := by
  unfold warpTurn
  repeat' (first
    | with_reducible apply issueTurn_wf | with_reducible apply passTie_wf | with_reducible apply (resWf_next _).2
    | with_reducible assumption | split)

@[simp] theorem evictTlb_wf (s : State) (core ctx va : Nat) (h : s.memWf = true) :
    State.memWf (evictTlb s core ctx va) = true := by
  unfold evictTlb
  split <;> exact modMem_wf _ _ h (chan_wf _ h) (fabric_wf _ h) (hostMem_wf _ h)

@[simp] theorem strikeReg_wf (s : State) (k reg : Nat) (lanes : Mask) (h : s.memWf = true) :
    State.memWf (strikeReg s k reg lanes) = true := modWarp_wf _ _ _ h

@[simp] theorem strikeScratch_wf (s : State) (core a : Nat) (h : s.memWf = true) :
    State.memWf (strikeScratch s core a) = true := by
  unfold strikeScratch
  split <;> simp [h]

@[simp] theorem strikeAcc_wf (s : State) (ck elem : Nat) (h : s.memWf = true) :
    State.memWf (strikeAcc s ck elem) = true := modCrew_wf _ _ _ h

@[simp] theorem strikeLine_wf (s : State) (l : Nat) (flits : BitVec 4) (h : s.memWf = true) :
    State.memWf (strikeLine s l flits) = true := by
  unfold strikeLine
  repeat' (first | with_reducible assumption | with_reducible apply setLine_wf | split)

@[simp] theorem after_wf (f : State → Res) (s : State) (hff : ∀ y0, y0.memWf = true → ResWf (f y0)) (h : s.memWf = true) :
    State.memWf (after f s) = true := by
  unfold after
  split
  · exact res_use (hff _ h) ‹_›
  · exact h

@[simp] theorem contextAct_wf (s : State) (ctx : Nat) (h : s.memWf = true) :
    State.memWf (contextAct s ctx) = true := by
  unfold contextAct
  repeat' (first
    | with_reducible assumption | with_reducible apply execCeFault_wf | with_reducible apply execCeCommand_wf
    | with_reducible apply execDigestCompare_wf | with_reducible apply execPhaseAdvance_wf | with_reducible apply after_wf
    | with_reducible apply foldl_wf | with_reducible intro _)

@[simp] theorem timersAct_wf (s : State) (watts : Nat) (h : s.memWf = true) :
    State.memWf (timersAct s watts) = true := by
  unfold timersAct
  repeat' (first
    | with_reducible assumption | with_reducible apply execPowerMonitorSample_wf | with_reducible apply execPaceApply_wf
    | with_reducible apply execHandoverExpire_wf | with_reducible apply execTokenTimeout_wf
    | with_reducible apply after_wf | with_reducible apply foldl_wf | with_reducible intro _ | dsimp only)

@[simp] theorem envStep_wf (e : Env) (s : State) (h : s.memWf = true) :
    State.memWf (envStep e s) = true := by
  unfold envStep
  split <;> first
    | (simp (maxDischargeDepth := 12) [h]; done)
    | exact modMem_wf _ _ h (chan_wf _ h) (fabric_wf _ h) (hostMem_wf _ h)
    | exact h
    | (refine modMem_wf _ _ h ?_ ?_ ?_ <;> split <;> simp [h]; done)
    | (split <;> simp (maxDischargeDepth := 12) [h])

@[simp] theorem turnEffect_wf (t : Turn) (s : State) (h : s.memWf = true) :
    ResWf (turnEffect t s) := by
  unfold turnEffect
  split
  · exact warpTurn_wf _ _ h
  · split
    · exact exec_wf _ _ h
    · exact (resWf_next _).2 h
  · exact (resWf_next _).2 (envStep_wf _ _ h)

@[simp] theorem runTurn_wf (t : Turn) (s : State) (h : s.memWf = true) :
    ResWf (runTurn t s) := by
  have h0 := turnEffect_wf t s h
  unfold runTurn
  split
  · exact (resWf_next _).2 (settleClusters_wf _ (res_use h0 ‹_›))
  · exact h0

end Sys2Proof.Laws
end

