-- ==== Sys2Proof/Machine/Loader.lean ====
section
/-! DEFINITION. The tools beside the machine, as far as they decide its words and bytes: how falzas chooses the 16-bit form
and expands an immediate (R144, R146, R147, R162), and the object format that fzld checks, relocates and places in device
memory (R164 to R166). No step calls them; system software does. -/

namespace Sys2Proof.Machine

open Sys2Proof

/-! ## The choice of an encoding (R162) -/

/-- The type bit of a 16-bit integer form; none for a type without one (R146). -/
def shortIntBit (t : IntTy) : Option Bool :=
  match t with
  | .s32 => some false
  | .s64 => some true
  | _ => none

/-- The type bit of a 16-bit float form (R146). -/
def shortFltBit (t : FltTy) : Option Bool :=
  match t with
  | .f => some false
  | .h => some true
  | _ => none

/-- The 16-bit form of a two-source instruction: width 1, direct registers up to v31, D equal to A (R146, R162). -/
def shortAlu (mk : Short → Instr) (d : Dst) (a b : Opnd) (w : Width) (t : Option Bool) : Option Instr :=
  match d, a, b, w, t with
  | .v d, .v a, .v b, .w1, some t => if a = d then some (mk { t := t, s := b, d := d }) else none
  | _, _, _, _, _ => none

/-- The 16-bit form of an instruction with a five-bit field: D equal to A, the field's value given if it fits. -/
def shortField (mk : Short → Instr) (d : Dst) (a : Opnd) (t : Option Bool) (k : Option (Fin 32)) : Option Instr :=
  match d, a, t, k with
  | .v d, .v a, some t, some k => if a = d then some (mk { t := t, s := k, d := d }) else none
  | _, _, _, _ => none

/-- An immediate as a signed five-bit field (R146). -/
def simm5 (imm : BitVec 10) : Option (Fin 32) :=
  if -16 ≤ imm.toInt ∧ imm.toInt ≤ 15 then some (Fin.ofNat 32 imm.toNat) else none

/-- An immediate as an unsigned five-bit field (R146). -/
def uimm5 (imm : BitVec 6) : Option (Fin 32) := if imm.toNat < 32 then some (Fin.ofNat 32 imm.toNat) else none

/-- The 16-bit form that equals an instruction in every effect, if it has one (R146, R162). MOV v0, v0 of type s32 becomes the
halfword 0x0000 (R147). -/
def shortForm (i : Instr) : Option Instr :=
  match i with
  | .mov f =>
    match f.d, f.a, f.w, shortIntBit f.t with
    | .v d, .v a, .w1, some t =>
      some (if !t ∧ d.val = 0 ∧ a.val = 0 then .zeroHalfword else .mov16 { t := t, s := a, d := d })
    | _, _, _, _ => none
  | .iadd f => shortAlu .iadd16 f.d f.a f.b f.w (shortIntBit f.t)
  | .isub f => shortAlu .isub16 f.d f.a f.b f.w (shortIntBit f.t)
  | .and f => shortAlu .and16 f.d f.a f.b f.w (shortIntBit f.t)
  | .or f => shortAlu .or16 f.d f.a f.b f.w (shortIntBit f.t)
  | .xor f => shortAlu .xor16 f.d f.a f.b f.w (shortIntBit f.t)
  | .imul f => shortAlu .imul16 f.d f.a f.b f.w (shortIntBit f.t)
  | .fadd f => shortAlu .fadd16 f.d f.a f.b f.w (shortFltBit f.t)
  | .fmul f => shortAlu .fmul16 f.d f.a f.b f.w (shortFltBit f.t)
  | .fsub f => shortAlu .fsub16 f.d f.a f.b f.w (shortFltBit f.t)
  | .shli f => if f.w = .w1 then shortField .shli16 f.d f.a (shortIntBit f.t) (uimm5 f.imm) else none
  | .shri f => if f.w = .w1 then shortField .shri16 f.d f.a (shortIntBit f.t) (uimm5 f.imm) else none
  | .iaddi f => shortField .iaddi16 f.d f.a (shortIntBit f.t) (simm5 f.imm)
  | .movi f => shortField .movi16 f.d (dstOpnd f.d) (shortIntBit f.t) (simm5 f.imm)
  | .lds f =>
    match f.d, f.a with
    | .v d, .v a =>
      if f.imm.val = 0 ∧ f.w = .w1 ∧ f.t = .s64 ∧ f.ord = .relaxed ∧ f.scope = .warp then some (.lds16 a d) else none
    | _, _ => none
  | .sts f =>
    match f.d, f.a with
    | .v d, .v a =>
      if f.imm.val = 0 ∧ f.w = .w1 ∧ f.t = .s64 ∧ f.ord = .relaxed ∧ f.scope = .warp then some (.sts16 a d) else none
    | _, _ => none
  | _ => none

/-- What falzas emits for an instruction: its 16-bit form unless a LIMM precedes it or .full is written (R162). -/
def emitted (i : Instr) (afterLimm full : Bool) : Instr := if afterLimm || full then i else (shortForm i).getD i

/-- The LIMM words and the field, of w bits, whose composed immediate is a value; none if no chain holds it (R144, R162).
`zext`: the field alone is read as unsigned. A relocatable value always takes two LIMM words. -/
def immChain (w : Nat) (zext reloc : Bool) (v : Int) : Option (List (BitVec 25) × Nat) :=
  let bitsOf := fun (lo n : Nat) => (v / 2 ^ lo % 2 ^ n).toNat
  let fits := fun (n : Nat) => decide (-2 ^ (n - 1) ≤ v) && decide (v < 2 ^ (n - 1))
  let limm := fun (lo : Nat) => BitVec.ofNat 25 (bitsOf lo 25)
  if !reloc && (if zext then decide (0 ≤ v) && decide (v < 2 ^ w) else fits w) then some ([], bitsOf 0 w)
  else if !reloc && fits (w + 25) then some ([limm w], bitsOf 0 w)
  else if fits (w + 50) then some ([limm (w + 25), limm w], bitsOf 0 w)
  else none

/-! ## Assembly errors (R149, R162) -/

/-- The long-latency instructions (R156, R169): class L, and RDS of s20 to s23. -/
def Instr.isLong (i : Instr) : Bool :=
  match i with
  | .rds _ sp => decide (20 ≤ sp.val) && decide (sp.val ≤ 23)
  | .lds16 .. | .sts16 .. | .frcp .. | .frsq .. | .fsqrt .. | .fexp2 .. | .flog2 .. | .fsin .. | .fcos .. | .sepk ..
  | .seunpk .. | .shfl .. | .shflx .. | .shflu .. | .shfld .. | .vany .. | .vall .. | .vuni .. | .ballot .. | .scan ..
  | .scanx .. | .red .. | .segred .. | .cmprs .. | .expnd .. | .matchv .. | .ldg .. | .stg .. | .lds .. | .sts ..
  | .cstg .. | .csts .. | .atomg .. | .atomx .. | .atoms .. | .fence .. | .tlrd .. | .deq .. | .enq .. | .qtry ..
  | .recq .. | .accrd .. | .wbq .. | .tchk .. => true
  | _ => false

/-- The control transfers (R298, R319). -/
def Instr.isCt (i : Instr) : Bool :=
  match i with
  | .bra .. | .brc .. | .brx .. | .brk .. | .pj .. | .call .. | .join | .jmpr .. | .exit | .callr .. | .trap .. => true
  | _ => false

/-- The instruction is a trailer. -/
def Instr.isTrl (i : Instr) : Bool :=
  match i with
  | .trl .. => true
  | _ => false

/-- Some run of emitted instructions exceeds R149, or a control transfer is not followed by a trailer: `pos` instructions and
`long` long-latency ones of the run stand before. -/
def asmBad (pos long : Nat) (l : List Instr) : Bool :=
  match l with
  | [] => false
  | i :: l =>
    if Instr.isTrl i then asmBad 0 0 l
    else
      let n := long + if Instr.isLong i then 1 else 0
      decide (24 ≤ pos) || decide (6 < n) || (Instr.isCt i && !(l.head?.any Instr.isTrl)) || asmBad (pos + 1) n l

/-- What falzas makes of instructions with the LIMM words that their immediates need and their `.full` marks: the words it
emits, or none on an assembly error (R162). -/
def falzas (l : List (List (BitVec 25) × Instr × Bool)) : Option (List Instr) :=
  let out := l.flatMap fun x => x.1.map Instr.limm ++ [emitted x.2.1 (!x.1.isEmpty) x.2.2]
  if asmBad 0 0 out then none else some out

/-! ## The object file (R164, R165) -/

/-- The value of n bytes of a file at an offset (R2). -/
def fileNat (f : List Byte) (off n : Nat) : Nat := leNat ((f.drop off).take n)

/-- A file's header: each part as its offset with its size or count (R164). -/
structure ObjHeader where
  code : Nat × Nat
  data : Nat × Nat
  syms : Nat × Nat
  strs : Nat × Nat
  kernels : Nat × Nat
  relocs : Nat × Nat
  codeAlign : Nat
  dataAlign : Nat
  deriving DecidableEq, Repr

/-- The header of a file. -/
def objHeader (f : List Byte) : ObjHeader :=
  let pair := fun (off : Nat) => (fileNat f off 4, fileNat f (off + 4) 4)
  { code := pair 0x08, data := pair 0x10, syms := pair 0x18, strs := pair 0x20, kernels := pair 0x28, relocs := pair 0x30
    codeAlign := fileNat f 0x38 1, dataAlign := fileNat f 0x39 1 }

/-- A symbol entry (R165). -/
structure ObjSym where
  name : Nat
  kind : Nat
  binding : Nat
  value : Nat
  size : Nat
  deriving DecidableEq, Repr

/-- The symbols of a file. -/
def objSyms (f : List Byte) : List ObjSym :=
  let h := objHeader f
  (List.range h.syms.2).map fun i =>
    let o := h.syms.1 + 24 * i
    { name := fileNat f o 4, kind := fileNat f (o + 4) 1, binding := fileNat f (o + 5) 1, value := fileNat f (o + 8) 8
      size := fileNat f (o + 16) 8 }

/-- A kernel entry: the directive values in the encodings of the launch record (R165). -/
structure ObjKernel where
  sym : Nat
  entry : Nat
  spages : Nat
  regs : Nat
  wpc : Nat
  classes : Nat
  levels : List Nat
  deriving DecidableEq, Repr

/-- The kernels of a file. -/
def objKernels (f : List Byte) : List ObjKernel :=
  let h := objHeader f
  (List.range h.kernels.2).map fun i =>
    let o := h.kernels.1 + 96 * i
    { sym := fileNat f o 4, entry := fileNat f (o + 4) 4, spages := fileNat f (o + 8) 2, regs := fileNat f (o + 10) 1
      wpc := fileNat f (o + 11) 1, classes := fileNat f (o + 12) 4
      levels := (List.range (fileNat f (o + 16) 1)).map fun l => fileNat f (o + 0x18 + 8 * l) 8 }

/-- A relocation entry (R164). -/
structure ObjReloc where
  site : Nat
  type : Nat
  section_ : Nat
  sym : Nat
  addend : Nat
  deriving DecidableEq, Repr

/-- The relocations of a file. -/
def objRelocs (f : List Byte) : List ObjReloc :=
  let h := objHeader f
  (List.range h.relocs.2).map fun i =>
    let o := h.relocs.1 + 24 * i
    { site := fileNat f o 8, type := fileNat f (o + 8) 2, section_ := fileNat f (o + 10) 2, sym := fileNat f (o + 12) 4
      addend := fileNat f (o + 16) 8 }

/-- The parts of a file as offsets and sizes. -/
def objParts (f : List Byte) : List (Nat × Nat) :=
  let h := objHeader f
  [(0, 64), h.code, h.data, (h.syms.1, 24 * h.syms.2), h.strs, (h.kernels.1, 96 * h.kernels.2), (h.relocs.1, 24 * h.relocs.2)]

/-- Two parts of a list overlap. -/
def partsOverlap (l : List (Nat × Nat)) : Bool :=
  match l with
  | [] => false
  | p :: l => l.any (fun q => decide (p.1 < q.1 + q.2) && decide (q.1 < p.1 + p.2) && p.2 != 0 && q.2 != 0) || partsOverlap l

/-- A reserved field of a file is not zero (R164, R165). -/
def objReserved (f : List Byte) : Bool :=
  let h := objHeader f
  fileNat f 6 2 != 0 || fileNat f 0x3A 6 != 0 ||
    (List.range h.syms.2).any (fun i => fileNat f (h.syms.1 + 24 * i + 6) 2 != 0) ||
    (List.range h.kernels.2).any fun i =>
      fileNat f (h.kernels.1 + 96 * i + 0x11) 7 != 0 || fileNat f (h.kernels.1 + 96 * i + 0x48) 24 != 0

/-- fzld rejects a file (R165). -/
def objBad (f : List Byte) : Bool :=
  f.take 4 != [0x46, 0x5A, 0x4F, 0x00] || fileNat f 4 2 != 1 || (objParts f).any (fun p => decide (f.length < p.1 + p.2)) ||
    partsOverlap (objParts f) || objReserved f || (objSyms f).any fun y => decide ((objHeader f).strs.2 ≤ y.name)

/-! ## Loading (R164, R166) -/

/-- What system software gives fzld: where the sections go, the free record handles of the context, ascending, and the
context's live cores. -/
structure LoadEnv where
  codeVa : Nat
  dataVa : Nat
  free : List Nat
  cores : Nat
  deriving DecidableEq, Repr

/-- The handle of a record symbol: records take the free handles in declaration order (R165, R166). -/
def recordHandle (f : List Byte) (e : LoadEnv) (y : ObjSym) : Option Nat :=
  let before := (objSyms f).filter fun x => x.kind == 4 && decide (x.value < y.value)
  e.free[before.length]?

/-- Every record symbol gets a handle. -/
def handlesSuffice (f : List Byte) (e : LoadEnv) : Bool :=
  decide (((objSyms f).filter fun y => y.kind == 4).length ≤ e.free.length)

/-- The value of a symbol for a relocation type: none for an undefined symbol or a kind that the type does not take
(R164). -/
def relocSym (f : List Byte) (e : LoadEnv) (type : Nat) (y : ObjSym) : Option Nat :=
  match y.kind with
  | 1 => if type = 1 ∨ type = 2 then some (e.codeVa + y.value) else none
  | 2 => if type = 1 ∨ type = 2 then some (e.dataVa + y.value) else none
  | 3 => if type = 1 ∨ type = 2 then some y.value else none
  | 4 => if type = 3 ∨ type = 4 then recordHandle f e y else none
  | 5 => if type = 5 ∨ type = 6 then some e.cores else none
  | _ => none

/-- Replaces the n bits at bit lo of a value. -/
def setBits (x lo n v : Nat) : Nat := x - x / 2 ^ lo % 2 ^ n * 2 ^ lo + v % 2 ^ n * 2 ^ lo

/-- Replaces the value of n bytes at an offset of a section; none beyond its end. -/
def patch (sec : List Byte) (off n : Nat) (f : Nat → Nat) : Option (List Byte) :=
  if sec.length < off + n then none
  else some (sec.take off ++ leBytes n (f (fileNat sec off n)) ++ sec.drop (off + n))

/-- Where a consumer of LIMM words holds its field, and the field's width: B of the immediate shifts, imm10 of the others
(R144). -/
def consumerField (word : Nat) : Nat × Nat := if bits word 1 6 = 0x0A then (26, 6) else (22, 10)

/-- Puts a value into LIMM words and their consumer, which stand as one value of 4 × (n + 1) bytes (R144). -/
def patchChain (n v x : Nat) : Option Nat :=
  let c := consumerField (bits x (32 * n) 32)
  match immChain c.2 false true (sext 64 v), n with
  | some ([l0, l1], f), 2 =>
    some (setBits (setBits (setBits x 7 25 l0.toNat) 39 25 l1.toNat) (64 + c.1) c.2 f)
  | _, 1 =>
    if v < 2 ^ (c.2 + 24) then some (setBits (setBits x 7 25 (v / 2 ^ c.2)) (32 + c.1) c.2 (v % 2 ^ c.2)) else none
  | _, _ => none

/-- Applies the value of a relocation to its section; none where it does not fit its site (R164, R166). -/
def applyReloc (sec : List Byte) (r : ObjReloc) (v : Nat) : Option (List Byte) :=
  match r.type with
  | 1 => patch sec r.site 8 fun _ => (v + r.addend) % 2 ^ 64
  | 2 =>
    match patchChain 2 ((v + r.addend) % 2 ^ 64) (fileNat sec r.site 12) with
    | none => none
    | some x => patch sec r.site 12 fun _ => x
  | 3 => if v < 2 ^ 12 then patch sec r.site 2 fun x => setBits x 0 12 v else none
  | 4 =>
    match patchChain 1 v (fileNat sec r.site 8) with
    | none => none
    | some x => patch sec r.site 8 fun _ => x
  | 5 => if v < 2 ^ 32 then patch sec r.site 4 fun _ => v else none
  | 6 => if v < 2 ^ 9 then patch sec r.site 4 fun x => setBits x 22 10 v else none
  | _ => none

/-- Applies relocations, one after the other, to the .code and .data images. -/
def relocate (f : List Byte) (e : LoadEnv) (rs : List ObjReloc) (c d : List Byte) : Option (List Byte × List Byte) :=
  match rs with
  | [] => some (c, d)
  | r :: rs =>
    match (objSyms f)[r.sym]?.bind (relocSym f e r.type) with
    | none => none
    | some v =>
      match r.section_ with
      | 1 => (applyReloc c r v).bind fun c => relocate f e rs c d
      | 2 => (applyReloc d r v).bind fun d => relocate f e rs c d
      | _ => none

/-- The sections lie at the alignments that their images need; that of .code is at least 2 (R164). -/
def sectionsAligned (f : List Byte) (e : LoadEnv) : Bool :=
  let h := objHeader f
  e.codeVa % 2 ^ max 1 h.codeAlign == 0 && e.dataVa % 2 ^ h.dataAlign == 0

/-- fzld on a file: the relocated .code and .data images, or none where the load fails (R166) or the place does not suit
the images (R164). -/
def fzld (f : List Byte) (e : LoadEnv) : Option (List Byte × List Byte) :=
  if objBad f || !handlesSuffice f e || !sectionsAligned f e then none
  else
    let part := fun (p : Nat × Nat) => (f.drop p.1).take p.2
    relocate f e (objRelocs f) (part (objHeader f).code) (part (objHeader f).data)

/-- Loads a file into the address space of a context, with the core count at load time (R166): the state with both
sections placed, or none. -/
def loadObject (s : State) (ctx codeVa dataVa : Nat) (free : List Nat) (f : List Byte) : Option State :=
  (fzld f { codeVa := codeVa, dataVa := dataVa, free := free, cores := (eligibleCores s ctx).length }).map fun p =>
    sysWriteVa (sysWriteVa s ctx codeVa p.1) ctx dataVa p.2

end Sys2Proof.Machine
end

