-- ==== Sys2Proof/Tests/Slice0.lean ====
section
/-! SUPPORT. The model's own tests: an ill-formed term for each check of WellFormed; worked encodings of the spec; worked
values of the spec, each in one step on a small state; and for each statement with hypotheses a state and operands that meet
them. Expected words and values are the spec's own tables and examples, or hand calculation from them. -/

set_option Elab.async false

namespace Sys2Proof.Tests

open Sys2Proof Sys2Proof.Machine Sys2Proof.Claims

/-! ## Well-formedness: each check refuses an ill-formed term -/

/-- R103: a pair starts at an even register. -/
theorem test_wf_odd_pair : Instr.wf (.iadd { d := .v 1, a := .v 2, b := .v 4, w := .w2, t := .s64 }) = false := by decide
/-- R103: an operand-file entry is single. -/
theorem test_wf_ofile_pair : Instr.wf (.mov { d := .v 0, a := .o 1, w := .w2, t := .s64 }) = false := by decide
/-- R192: the bit fields have no 8-bit form. -/
theorem test_wf_bfx_byte : Instr.wf (.bfx { d := .v 1, a := .v 2, b := .v 3, w := .w1, t := .n8 }) = false := by decide
/-- R212: FSUB has no double form. -/
theorem test_wf_fsub_double : Instr.wf (.fsub { d := .v 1, a := .v 2, b := .v 3, w := .w1, t := .d }) = false := by decide
/-- R212: FADD takes no FP8 type. -/
theorem test_wf_fadd_e4 : Instr.wf (.fadd { d := .v 1, a := .v 2, b := .v 3, w := .w1, t := .e4 }) = false := by decide
/-- R212: the compares take no double type. -/
theorem test_wf_fseteq_double : Instr.wf (.fseteq { d := .v 1, a := .v 2, b := .v 3, w := .w1, t := .d }) = false := by decide
/-- R225: SEPK reads no constant. -/
theorem test_wf_sepk_const : Instr.wf (.sepk { d := .v 1, a := .c 3, m := .se5 }) = false := by decide
/-- R232: a reduction of a float type is add, min or max. -/
theorem test_wf_red_float_and : Instr.wf (.red { d := .v 1, a := .v 2, w := .w1, op := .and, t := .flt .f }) = false := by
  decide
/-- R169: a group is of type s64 or n64. -/
theorem test_wf_ldg_pair_s32 :
    Instr.wf (.ldg { d := .v 2, a := .v 4, imm := 0, w := .w2, t := .s32, ord := .relaxed, scope := .warp }) = false := by decide
/-- R169: an indexed register is no address. -/
theorem test_wf_ldg_indexed :
    Instr.wf (.ldg { d := .v 2, a := .x 0, imm := 0, w := .w1, t := .s64, ord := .relaxed, scope := .warp }) = false := by decide
/-- R142: order code 0b11 is illegal on LDS. -/
theorem test_wf_lds_bypass :
    Instr.wf (.lds { d := .v 2, a := .v 4, imm := 0, w := .w1, t := .s64, ord := .bypass, scope := .warp }) = false := by decide
/-- R268: a cas names an even direct pair. -/
theorem test_wf_cas_odd :
    Instr.wf (.atomx { d := .v 3, a := .v 4, imm := 0, op := .cas32, ord := .relaxed, scope := .warp }) = false := by decide
/-- R177: a copy without CW names no scope. -/
theorem test_wf_cpy_scope :
    Instr.wf (.cpy { q := 0, c := 1, c2 := 0, scope := .die, chain := false, cw := false, st := false, mman := false })
      = false := by decide
/-- R177: a copy out of the scratchpad has no chained block. -/
theorem test_wf_cpy_st_chain :
    Instr.wf (.cpy { q := 0, c := 1, c2 := 2, scope := .warp, chain := true, cw := false, st := true, mman := false })
      = false := by decide
/-- R177: CPYG has no direction out of the scratchpad. -/
theorem test_wf_cpyg_st :
    Instr.wf (.cpyg { q := 0, c := 1, c2 := 0, scope := .warp, chain := false, cw := false, st := true, mman := false })
      = false := by decide
/-- R177: PFCH without CW names no scope. -/
theorem test_wf_pfch_scope : Instr.wf (.pfch 0 1 .die false) = false := by decide
/-- R147: the halfword 0x0000 is no MOV of the 16-bit form. -/
theorem test_wf_mov16_zero : Instr.wf (.mov16 { d := 0, s := 0, t := false }) = false := by decide
/-- An event has no word. -/
theorem test_wf_event : Instr.wf (.slotReturn 0 0) = false := by decide

/-! ## Decoding: the spec's worked words, field by field -/

/-- R144, R157, R203 (the encoding examples of the instruction formats chapter). -/
theorem test_decode_formats :
    decodeWord 0x24A2 = some (.iadd16 { d := 5, s := 9, t := false }) ∧
    decodeWord 0x0C204203 = some (.iadd { d := .v 1, a := .v 2, b := .v 3, w := .w1, t := .s32 }) ∧
    decodeWord 0x0051024D =
      some (.ldg { d := .v 4, a := .v 5, imm := 0, w := .w1, t := .s32, ord := .relaxed, scope := .warp }) ∧
    decodeWord 0x000000FF = some (.trl 1 false false) ∧ decodeWord 0x000061FF = some (.trl 3 true true) := by decide
/-- R144: a chain of one LIMM and its MOVI, and a LIMM with all its parts. -/
theorem test_decode_limm :
    decodeWord 0x0000017D = some (.limm 0x2) ∧ decodeWord 0x468ACF7D = some (.limm 0x8D159E) ∧
    decodeWord 0x24000B21 = some (.movi { d := .v 2, imm := 0x90, t := .s64 }) := by decide
/-- The table of worked encodings of the control chapter: transfers and masks. -/
theorem test_decode_control :
    decodeWord 0xFFFFF025 = some (.bra (BitVec.ofInt 22 (-4))) ∧ decodeWord 0x00080CA7 = some (.brc 8 (.v 3) .all) ∧
    decodeWord 0x0001002F = some (.call 0x40) ∧ decodeWord 0x00400C31 = some (.callr (.v 4)) ∧
    decodeWord 0x00000831 = some .exit ∧ decodeWord 0xE4014033 = some (.mskrd (.v 5) .live) ∧
    decodeWord 0x00200833 = some (.mskand (.v 2)) := by decide
/-- The same table: flags, requests, context registers, traps. -/
theorem test_decode_system :
    decodeWord 0x00000075 = some .tfence ∧ decodeWord 0x1C018475 = some (.flgrd (.v 6) (.v 7)) ∧
    decodeWord 0x00224477 = some (.regrs (.v 9) (.v 2)) ∧ decodeWord 0x03D00077 = some (.prio (.c 13)) ∧
    decodeWord 0x000850F9 = some (.csrw .tvec (.v 5)) ∧ decodeWord 0x1400047B = some (.trap 5) ∧
    decodeWord 0x00000C7B = some .phase := by decide
/-- R192, R201: the lane chapter's worked words. -/
theorem test_decode_lane :
    decodeWord 0x0810CA1B = some (.isetlt { d := .v 3, a := .v 1, b := .v 2, w := .w1, t := .s32 }) ∧
    decodeWord 0x0420C21F = some (.sel { d := .v 3, a := .v 2, b := .v 1, w := .w1, t := .s32 }) := by decide
/-- R225, R232: SEPK and RED. -/
theorem test_decode_float_crosslane :
    decodeWord 0xE4510343 = some (.sepk { d := .v 4, a := .v 5, m := .se5 }) ∧
    decodeWord 0x20308949 = some (.red { d := .v 2, a := .v 3, w := .w1, op := .add, t := .flt .f }) := by decide
/-- R274, R277: FENCE and the timelines. -/
theorem test_decode_fences :
    decodeWord 0x14000C5F = some (.fence .sc .package) ∧ decodeWord 0x001C00E1 = some (.tlwait .cq1 (.v 7)) ∧
    decodeWord 0x00EC0261 = some (.tlwait .mx (.c 11)) ∧ decodeWord 0x00140461 = some (.tlrd .cq0 (.v 5) false) := by decide
/-- R285, R293: queues and barriers. -/
theorem test_decode_queues :
    decodeWord 0x05148063 = some (.deq (.v 5) 1 .package) ∧ decodeWord 0x05148863 = some (.qtry (.v 5) 1 .package) ∧
    decodeWord 0x05150463 = some (.enq (.v 5) 2 .package false) ∧ decodeWord 0x00008C63 = some (.qbind 1) ∧
    decodeWord 0x010C8465 = some (.bararv (.v 3) 1 .crew) ∧ decodeWord 0x010C8865 = some (.barwait (.v 3) 1 .crew) ∧
    decodeWord 0x01008C65 = some (.bararvw 1 .crew) := by decide
/-- R174, R177, R187: records, copies and a compress store. -/
theorem test_decode_copies :
    decodeWord 0x0014086B = some (.recq (.v 5) 0) ∧
    decodeWord 0x00008567 =
      some (.cpyt { q := 2, c := 1, c2 := 0, scope := .warp, chain := false, cw := false, st := false, mman := false }) ∧
    decodeWord 0x350100E7 =
      some (.cpy { q := 1, c := 2, c2 := 0, scope := .package, chain := false, cw := true, st := true, mman := false }) ∧
    decodeWord 0x00A0C255 =
      some (.cstg { d := .v 3, a := .v 10, imm := 0, w := .w1, t := .s32, ord := .relaxed, scope := .warp }) := by decide
/-- The lane chapter's table of worked encodings (R192 to R199, R202, R204). -/
theorem test_decode_lane_table :
    decodeWord 0x1440C903 = some (.iadds { d := .v 3, a := .v 4, b := .v 5, w := .w1, t := .s16 }) ∧
    decodeWord 0x0C21C299 = some (.bfx { d := .v 7, a := .v 2, b := .v 3, w := .w1, t := .n32 }) ∧
    decodeWord 0xA0C29795 = some (.shri { d := .v 10, a := .v 12, imm := 40, w := .w2, t := .n64 }) ∧
    decodeWord 0x3FC40E8D = some (.andi { d := .v 3, a := .v 4, imm := 0xFF, t := .n32 }) ∧
    decodeWord 0x00006023 = some (.rds (.v 6) 0) ∧ decodeWord 0x000444A3 = some (.wrs (.v 4) 9) := by decide
/-- The float and cross-lane chapter's table of worked encodings. -/
theorem test_decode_float_table :
    decodeWord 0x14120D35 = some (.ffma { d := .v 8, a := .v 1, b := .v 5, w := .w1, t := .f }) ∧
    decodeWord 0x2840C641 = some (.cvt { d := .v 3, a := .v 4, w := .w1, src := .flt .f, dst := .int .s32, rm := .rz
                                         sat := false }) ∧
    decodeWord 0xE86141C1 = some (.cvt { d := .v 5, a := .v 6, w := .w1, src := .flt .f, dst := .flt .e4, rm := .rne
                                         sat := true }) ∧
    decodeWord 0x0C2046C5 = some (.shflx { d := .v 1, a := .v 2, b := .v 3, w := .w1, t := .n32 }) ∧
    decodeWord 0x0021CFC7 = some (.ballot { d := .v 7, a := .v 2, w := .w1, t := .n64 }) ∧
    decodeWord 0x14120DB5 = none := by decide
/-- The memory chapter's worked words, and two of the atomics'. -/
theorem test_decode_memory :
    decodeWord 0x5421874F =
      some (.stg { d := .v 6, a := .v 2, imm := 2, w := .w1, t := .s64, ord := .acqRel, scope := .package }) ∧
    decodeWord 0x203223D1 =
      some (.lds { d := .v 8, a := .v 3, imm := 1, w := .w4, t := .n64, ord := .relaxed, scope := .warp }) ∧
    decodeWord 0x14210459 =
      some (.atomg { d := .v 4, a := .v 2, imm := 0, wide := false, op := .add, ord := .acqRel, scope := .package }) ∧
    decodeWord 0x2C3189DB =
      some (.atomx { d := .v 6, a := .v 3, imm := 1, op := .cas64, ord := .sc, scope := .die }) := by decide
/-- The table of the matrix commands (R245). -/
theorem test_decode_matrix :
    decodeWord 0x0000806D = some (.mma 1) ∧ decodeWord 0x0000846D = some (.mman 1) ∧ decodeWord 0x0000886D = some (.accz 1) ∧
    decodeWord 0x0014806F = some (.accrd (.v 5) 1 false) ∧ decodeWord 0x0000846F = some (.accwr 1) ∧
    decodeWord 0x0000886F = some (.wbld 1) ∧ decodeWord 0x00148C6F = some (.wbq (.v 5) 1) := by decide
/-- The table of the lookup commands. -/
theorem test_decode_lookup :
    decodeWord 0x00008071 = some (.tbuild 1) ∧ decodeWord 0x00008471 = some (.tlook 1) ∧
    decodeWord 0x00008871 = some (.tfin 1 false) ∧ decodeWord 0x00148C71 = some (.tchk (.v 5) 1) ∧
    decodeWord 0x00008073 = some (.tspill 1) ∧ decodeWord 0x00008473 = some (.tfill 1) ∧
    decodeWord 0x00008873 = some (.tinv 1) := by decide
/-- R139, R157, R158: a nonzero unused field, a condition outside the table and major 0 are no instruction. -/
theorem test_decode_illegal : decodeWord 0x00100831 = none ∧ decodeWord 0x00000001 = none := by decide
/-- R2, R137: an instruction's halfwords lie low half first. -/
theorem test_decode_halves : decode [0x4203, 0x0C20, 0x7F] =
    some (.iadd { d := .v 1, a := .v 2, b := .v 3, w := .w1, t := .s32 }, [0x7F]) := by decide

/-! ## Small states -/

/-- 32 lane values. -/
def lanesBy (f : Nat → Nat) : Lanes := (List.range 32).map fun l => BitVec.ofNat 64 (f l)

/-- The same value in every lane. -/
def every (v : Nat) : Lanes := lanesBy fun _ => v

/-- A running warp of a privileged context, at an instruction that a trailer follows, with some registers set. -/
def tWarp (m : SMap Lanes) : Warp := { fetchWarp with main := m, code := some [0x0831, 0x0000, 0x7F, 0] }

/-- The package with one crew whose one warp is the current one. -/
def tState (w : Warp) : State :=
  setWarp (setCrew (modCtx State.reset 0 fetchCtx) 0 (newCrew 0 0 0 0 0 fetchLaunch)) 0 w

/-- The checks of `Ready` that depend on the shape, as one Bool. -/
def readyB (s : State) (w : Warp) (m : Shape) : Bool :=
  mayIssue s w && (m.limm || w.run.limm.isEmpty) && (!m.isLimm || decide (w.run.limm.length < 2)) &&
    decide (w.run.pos < 24) && (!m.long || decide (w.run.taken < 6)) && (!m.ct || nextIsTrl w m.size) &&
    (!m.priv || (ctxAt s w.ctx).prv) && m.allUses.all (fun u => !u.beyond w.alloc) &&
    (!acting m w ||
      (m.allUses.all (fun u => !u.missing w) && (m.check s w).isNone &&
        (idxTrap w m.allUses (if w.exec = 0 then m.lanes w else w.exec)).isNone &&
        (ueFail w m.allUses (m.lanes w)).isNone && (!(ctxAt s w.ctx).hc || !hazard w m.allUses (m.lanes w)) &&
        !interlocked w m.uses && !m.waits s w))

theorem ready_of (s : State) (w : Warp) (m : Shape) (hw : warpAt s s.cur = some w) (h : readyB s w m = true) :
    Ready s w m := by
  simp only [readyB, Bool.and_eq_true, Bool.or_eq_true, Bool.not_eq_true', List.all_eq_true, decide_eq_true_eq,
    List.isEmpty_iff, Option.isNone_iff_eq_none] at h
  obtain ⟨⟨⟨⟨⟨⟨⟨⟨h1, h2⟩, h3⟩, h4⟩, h5⟩, h6⟩, h7⟩, h8⟩, h9⟩ := h
  refine ⟨hw, h1, h2, ?_, h4, ?_, ?_, ?_, h8, ?_, ?_, ?_, ?_, ?_, ?_, ?_⟩
  · intro hm; exact (h3.resolve_left (by simp [hm]))
  · intro hm; exact (h5.resolve_left (by simp [hm]))
  · intro hm; exact (h6.resolve_left (by simp [hm]))
  · intro hm; exact (h7.resolve_left (by simp [hm]))
  all_goals intro ha; obtain ⟨⟨⟨⟨⟨⟨g1, g2⟩, g3⟩, g4⟩, g5⟩, g6⟩, g7⟩ := h9.resolve_left (by simp [ha])
  · exact g1
  · exact g2
  · exact g7
  · exact g3
  · exact g4
  · intro hc; exact g5.resolve_left (by simp [hc])
  · exact g6

theorem tState_warp (w : Warp) : warpAt (tState w) (tState w).cur = some w := rfl

theorem ready_t (w : Warp) (m : Shape) (h : readyB (tState w) w m = true) : Ready (tState w) w m :=
  ready_of _ _ _ (tState_warp w) h

/-- What stands in a lane of a register after a step of the current warp. -/
def regAfter (r : Res) (n l : Nat) : Nat :=
  match r with
  | .next t => (warpAt t t.cur).elim 0 fun w => laneAt (w.vreg n) l
  | _ => 0

/-- The flags after a step of the current warp. -/
def flagsAfter (r : Res) : Nat :=
  match r with
  | .next t => (warpAt t t.cur).elim 0 fun w => w.aflags.toNat
  | _ => 0

/-- The known result of the youngest slot of the current warp after a step: a lane's value. -/
def slotAfter (r : Res) (l : Nat) : Nat :=
  match r with
  | .next t => (warpAt t t.cur).elim 0 fun w =>
    match w.slots.getLast? with
    | some { body := .value vals _, .. } => vals.getD l 0
    | _ => 0
  | _ => 0

/-- The state of two operands, v4 and v5, and an old destination v3. -/
def tOps (x y d : Nat) : State := tState (tWarp [(3, every d), (4, every x), (5, every y)])

def tAlu (t : IntTy) : AluOp := { d := .v 3, a := .v 4, b := .v 5, w := .w1, t := t }
def tUn (t : IntTy) : AluUn := { d := .v 3, a := .v 4, w := .w1, t := t }
def tFlt (t : FltTy) : FltOp := { d := .v 3, a := .v 4, b := .v 5, w := .w1, t := t }
def tFun (t : FltTy) : FltUn := { d := .v 3, a := .v 4, w := .w1, t := t }

/-! ## Worked values of the lane chapter -/

/-- R194's table: iadds.s16 0x7FF0 + 0x0020 = 0x7FFF, SAT set (bit 5, R121). -/
theorem test_iadds_saturates :
    regAfter (exec (.iadds (tAlu .s16)) (tOps 0x7FF0 0x0020 0)) 3 0 = 0x7FFF ∧
    flagsAfter (exec (.iadds (tAlu .s16)) (tOps 0x7FF0 0x0020 0)) = 2 ^ 5 := by decide
/-- R194's table: iadd.s16 wraps to 0x8010 and sets no flag. -/
theorem test_iadd_wraps :
    regAfter (exec (.iadd (tAlu .s16)) (tOps 0x7FF0 0x0020 0)) 3 31 = 0x8010 ∧
    flagsAfter (exec (.iadd (tAlu .s16)) (tOps 0x7FF0 0x0020 0)) = 0 := by decide
/-- R194's table: isubs.n16 0x0010 − 0x0020 = 0. -/
theorem test_isubs_clamps : regAfter (exec (.isubs (tAlu .n16)) (tOps 0x0010 0x0020 0)) 3 0 = 0 := by decide
/-- R194's table: imulh of 0xFFFD and 0x4000, signed and unsigned. -/
theorem test_imulh :
    regAfter (exec (.imulh (tAlu .s16)) (tOps 0xFFFD 0x4000 0)) 3 0 = 0xFFFF ∧
    regAfter (exec (.imulh (tAlu .n16)) (tOps 0xFFFD 0x4000 0)) 3 0 = 0x3FFF := by decide
/-- R194's table: iabs.s16 of 0x8000 is 0x8000. -/
theorem test_iabs_lowest : regAfter (exec (.iabs (tUn .s16)) (tOps 0x8000 0 0)) 3 0 = 0x8000 := by decide
/-- R199's table, with B = 0x0C08. -/
theorem test_bit_fields :
    regAfter (exec (.bfx (tAlu .n32)) (tOps 0x12345678 0x0C08 0)) 3 0 = 0x00000456 ∧
    regAfter (exec (.bfxs (tAlu .n32)) (tOps 0x12345678 0x0B08 0)) 3 0 = 0xFFFFFC56 ∧
    regAfter (exec (.bfi (tAlu .n32)) (tOps 0x00000123 0x0C08 0xAAAAAAAA)) 3 0 = 0xAAA123AA := by decide
/-- R200's example: lea.s32 and lea.n32 of 0x10_0000_0000 and 0xFFFF_FFFE. -/
theorem test_lea :
    regAfter (exec (.lea (tAlu .s32)) (tOps 0x1000000000 0xFFFFFFFE 0)) 3 0 = 0xFFFFFFFF8 ∧
    regAfter (exec (.lea (tAlu .n32)) (tOps 0x1000000000 0xFFFFFFFE 0)) 3 0 = 0x13FFFFFFF8 := by decide
/-- R196: ROT by N − 8 is a right rotation by 8; a shift by N gives 0, SRA of a negative value by N all ones. -/
theorem test_shifts :
    regAfter (exec (.rot (tAlu .n32)) (tOps 0x12345678 24 0)) 3 0 = 0x78123456 ∧
    regAfter (exec (.shl (tAlu .n32)) (tOps 1 32 0)) 3 0 = 0 ∧
    regAfter (exec (.sra (tAlu .s32)) (tOps 0x80000000 32 0)) 3 0 = 0xFFFFFFFF := by decide
/-- R198: CLZ of 0 is N, CTZ finds the lowest 1, BREV mirrors. -/
theorem test_bit_counts :
    regAfter (exec (.clz (tUn .n64)) (tOps 0 0 0)) 3 0 = 64 ∧ regAfter (exec (.ctz (tUn .n64)) (tOps 8 0 0)) 3 0 = 3 ∧
    regAfter (exec (.brev (tUn .n64)) (tOps 1 0 0)) 3 0 = 2 ^ 63 := by decide
/-- R201's example: −1 is below 2 as s32, 0xFFFF_FFFF is not as n32 (both halves of the register). -/
theorem test_isetlt :
    regAfter (exec (.isetlt (tAlu .s32)) (tOps 0x00000005FFFFFFFF 0x0000000300000002 0)) 3 0 = 0x00000000FFFFFFFF ∧
    regAfter (exec (.isetlt (tAlu .n32)) (tOps 0x00000005FFFFFFFF 0x0000000300000002 0)) 3 0 = 0 := by decide
/-- R109, R100: an inactive lane keeps its value. -/
theorem test_inactive_lane_kept :
    let s := tState { tWarp [(3, every 7), (4, every 1), (5, every 1)] with exec := 1 }
    regAfter (exec (.iadd (tAlu .s64)) s) 3 0 = 2 ∧ regAfter (exec (.iadd (tAlu .s64)) s) 3 1 = 7 := by decide
/-- R144: with LIMM 0x8D159E before it, iaddi takes the composed immediate. -/
theorem test_limm_is_kept :
    (match exec (.limm 0x8D159E) (tOps 0 0 0) with
     | .next t => (warpAt t 0).map fun w => (w.run.limm, w.run.pos, w.pc)
     | _ => none) = some ([0x8D159E], 1, 0x10004) := by decide
/-- R222's table: −3.7 to −3 under rz with NX, 3 × 10^9 to the type's maximum with NV, 1 + 2^−8 to even with NX. -/
theorem test_cvt :
    let f : CvtOp := { d := .v 3, a := .v 4, w := .w1, rm := .rz, sat := false, src := .flt .f, dst := .int .s32 }
    regAfter (exec (.cvt f) (tOps 0xC06CCCCD 0 0)) 3 0 = 0xFFFFFFFD ∧
    regAfter (exec (.cvt f) (tOps 0x4F32D05E 0 0)) 3 0 = 0x7FFFFFFF ∧
    regAfter (exec (.cvt { f with rm := .rne, dst := .flt .bf }) (tOps 0x3F808000 0 0)) 3 0 = 0x3F80 := by decide
/-- R213: 1.5 + 2.25 = 3.75 and 1.5 × 2.25 = 3.375, exactly. -/
theorem test_float_arithmetic :
    regAfter (exec (.fadd (tFlt .f)) (tOps 0x3FC00000 0x40100000 0)) 3 0 = 0x40700000 ∧
    regAfter (exec (.fmul (tFlt .f)) (tOps 0x3FC00000 0x40100000 0)) 3 0 = 0x40580000 ∧
    regAfter (exec (.ffma (tFlt .f)) (tOps 0x3FC00000 0x40100000 0x3F800000)) 3 0 = 0x408C0000 := by decide
/-- R229: shflx by 1 exchanges neighbouring lanes. -/
theorem test_shuffle :
    let s := tState (tWarp [(4, lanesBy fun l => l), (5, every 1)])
    slotAfter (exec (.shflx (tAlu .n64)) s) 6 = 7 ∧ slotAfter (exec (.shflx (tAlu .n64)) s) 7 = 6 := by decide
/-- R231: BALLOT of the odd lanes. -/
theorem test_ballot :
    slotAfter (exec (.ballot (tUn .n64)) (tState (tWarp [(4, lanesBy fun l => l % 2)]))) 0 = 0xAAAAAAAA := by decide

/-! ## Witnesses: lane instructions -/

theorem here_v (w : Warp) (n : Fin 32) (g : Nat) (h : n.val + g ≤ 64) : DestHere w (.v n) g := h

/-- A warp whose v0 is 1 in the even lanes, v1 is 0, v2 is 1 in every lane, v4 and v5 hold numbers. -/
def tMix : Warp := tWarp [(0, lanesBy fun l => (l + 1) % 2), (2, every 1), (4, every 6), (5, every 3)]

/-- R99: a pair at the top of the direct registers lies in the file. -/
theorem wit_pair_at_top : DestHere tMix (.v 30) 2 := here_v _ _ _ (by decide)

theorem wit_IntegerAndLogicInstructions :
    (∀ t, Ready (tState tMix) tMix (aluShape (tAlu t) 8 false) ∧ Ready (tState tMix) tMix (aluShape (tAlu t) 16 true)) ∧
    Ready (tState tMix) tMix { size := 4, weight := 8, uses := [src (.v 4) .w1, dst (.v 3) .w1] } ∧
    DestHere tMix (.v 3) 1 ∧ DestHere tMix (.o 2) 1 :=
  ⟨fun t => by constructor <;> exact ready_t _ _ (by cases t <;> decide), ready_t _ _ (by decide), here_v _ _ _ (by decide), rfl⟩

/-- A shift immediate after two LIMM words. -/
theorem wit_ShiftsBitsAndAddresses :
    let w := { tMix with run := { tMix.run with limm := [1, 2], pos := 2 } }
    Ready (tState w) w { size := 4, weight := 8, limm := true, uses := [src (.v 4) .w1, dst (.v 3) .w1] } ∧
    Ready (tState tMix) tMix (aluShape { tAlu .n64 with w := .w2, a := .v 4, d := .v 6, b := .v 2 } 8 false) ∧
    DestHere w (.v 3) 1 ∧ DestHere tMix (.v 6) 2 :=
  ⟨ready_t _ _ (by decide), ready_t _ _ (by decide), here_v _ _ _ (by decide), here_v _ _ _ (by decide)⟩

theorem wit_ComparesImmediatesAndShortForms :
    let w := { tMix with run := { tMix.run with limm := [1], pos := 1 } }
    Ready (tState w) w { size := 4, weight := 8, limm := true, uses := [dst (.v 3) .w1] } ∧
    Ready (tState tMix) tMix { size := 2, weight := 8, uses := [src (.v 4) .w1, src (.v 5) .w1, dst (.v 4) .w1] } ∧
    Ready (tState tMix) tMix { size := 2, weight := 8, uses := [dstRead (.v 4) .w1] } ∧
    Ready (tState tMix) tMix { size := 2, weight := 8 } :=
  ⟨ready_t _ _ (by decide), ready_t _ _ (by decide), ready_t _ _ (by decide), ready_t _ _ (by decide)⟩

theorem wit_FloatArithmeticAndCompares :
    Ready (tState tMix) tMix
      { size := 4, weight := fltWeight .d, uses := [src (.v 4) .w1, src (.v 5) .w1, dstRead (.v 3) .w1] } ∧
    Ready (tState tMix) tMix { size := 4, weight := fltWeight .h, uses := [src (.v 4) .w1, dst (.v 3) .w1] } ∧
    DestHere tMix (.v 3) 1 :=
  ⟨ready_t _ _ (by decide), ready_t _ _ (by decide), here_v _ _ _ (by decide)⟩

/-- With lanes active and with none. -/
theorem wit_FloatFunctionInstructions :
    let m : Shape := { size := 4, long := true, weight := 64, uses := [src (.v 4) .w1, dst (.v 3) .w1] }
    (Ready (tState tMix) tMix m ∧ tMix.exec ≠ 0) ∧
    Ready (tState { tMix with exec := 0 }) { tMix with exec := 0 } m ∧ FltTy.h ∈ [FltTy.h, .bf, .f] :=
  ⟨⟨ready_t _ _ (by decide), by decide⟩, ready_t _ _ (by decide), by decide⟩

theorem wit_ConversionInstructions :
    Ready (tState tMix) tMix { size := 4, weight := 96, uses := [src (.v 4) .w1, dst (.v 3) .w1] } ∧
    Ready (tState tMix) tMix { size := 4, weight := 24, uses := [src (.v 4) .w1, src (.v 5) .w1, dst (.v 3) .w1] } ∧
    (Ready (tState tMix) tMix { size := 4, long := true, weight := 48, uses := [src (.v 4) .w1, dst (.v 3) .w1] } ∧
      tMix.exec ≠ 0) ∧
    Ready (tState tMix) tMix
      { size := 4, long := true, weight := 48, uses := [src (.v 4) .w1, dst (.v 3) .w1], lanes := fun _ => 0x1F } ∧
    Ready (tState { tMix with exec := 0 }) { tMix with exec := 0 }
      { size := 4, long := true, weight := 48, uses := [src (.v 4) .w1, dst (.v 3) .w1], lanes := fun _ => 0x1F } :=
  ⟨ready_t _ _ (by decide), ready_t _ _ (by decide), ⟨ready_t _ _ (by decide), by decide⟩, ready_t _ _ (by decide),
    ready_t _ _ (by decide)⟩

theorem wit_CrossLaneInstructions :
    (Ready (tState tMix) tMix (xlShape .w1 [src (.v 4) .w1, src (.v 5) .w1] (.v 3)) ∧ tMix.exec ≠ 0) ∧
    Ready (tState tMix) tMix (xlShape .w4 [src (.v 4) .w4] (.v 8)) ∧
    Ready (tState { tMix with exec := 0 }) { tMix with exec := 0 } (xlShape .w1 [src (.v 4) .w1] (.v 3)) :=
  ⟨⟨ready_t _ _ (by decide), by decide⟩, ready_t _ _ (by decide), ready_t _ _ (by decide)⟩

/-- SEGRED with a segment that starts at the first element and one that starts at the last. -/
theorem wit_segments :
    let starts := fun i => i = 0 ∨ ((tMix.rd64 (.v 5)).getD ((lowest tMix.exec).getD 0) 0).testBit i = true
    starts 1 ∧ ¬ starts 2 ∧ inMask tMix.exec 1 = true := by decide

/-! ## Witnesses: control -/

theorem wit_Branches :
    let m := ctShape [src (.v 0) .w1]
    Ready (tState tMix) tMix (ctShape []) ∧ Ready (tState tMix) tMix m ∧
    (∀ l, active tMix l → ¬ holds tMix (.v 1) false l) ∧
    ((∃ l, active tMix l ∧ holds tMix (.v 2) false l) ∧ ∀ l, active tMix l → holds tMix (.v 2) false l) ∧
    IsMask 0x55555555 (fun l => active tMix l ∧ holds tMix (.v 0) false l) ∧
    IsMask 0xAAAAAAAA (fun l => active tMix l ∧ ¬ holds tMix (.v 0) false l) ∧
    Pushed (tState tMix) tMix { kind := .path, pc := thru tMix, mask := 0xAAAAAAAA, tm := false } (tState tMix)
      { tMix with stack := [{ kind := .path, pc := thru tMix, mask := 0xAAAAAAAA, tm := false }] } := by
  refine ⟨ready_t _ _ (by decide), ready_t _ _ (by decide), ?_, ⟨⟨0, ?_⟩, ?_⟩, ?_, ?_, by decide,
    .inl ⟨by decide, rfl, by decide +kernel⟩⟩
  · have h : ∀ l < 32, ¬ holds tMix (.v 1) false l := by unfold holds; decide
    exact fun l hl => h l hl.1
  · unfold active holds; decide
  · have h : ∀ l < 32, holds tMix (.v 2) false l := by unfold holds; decide
    exact fun l hl => h l hl.1
  · unfold IsMask active holds; decide
  · unfold IsMask active holds; decide

/-! ## A package with memory -/

/-- Memory with interleave set 0 of 32 channels, region 0 mapped to its first frame, a translation of the first 2 MiB held by
core 0, page tables from 0x100000 on that give the same translation (R42, R43), and a JOIN entry at 0x18000 (R110). -/
def tMem (s : State) : State :=
  let s := { s with mem := { fetchMem s.mem with tlb := [{ unit := 0, ctx := 0, va := 0, size := 0x200000, pte := 0x7 }] } }
  [(0x18007, 0x20), (0x100000, 0x01), (0x100001, 0x10), (0x100002, 0x10), (0x101000, 0x01), (0x101001, 0x20), (0x101002, 0x10),
    (0x102000, 0x01), (0x102001, 0x30), (0x102002, 0x10), (0x103000, 0x07)].foldl
    (fun s (e : Nat × Byte) => memWriteByte s e.1 e.2) s

/-- The small package with that memory; its context's root is the table. -/
def mState (w : Warp) : State :=
  { tState w with
    mem := (tMem State.reset).mem
    ctxs := (modCtx State.reset 0 fun c => { fetchCtx c with ptRoot := 0x100000 }).ctxs }

theorem ready_m (w : Warp) (m : Shape) (h : readyB (mState w) w m = true) : Ready (mState w) w m :=
  ready_of _ _ _ rfl h

/-- R42 to R45: the core's translation and the tables agree. -/
theorem test_walk :
    translate (mState tMix) 0 0 0x18000 16 .write = .ok 0x18000 7 ∧
    sysTranslate (mState tMix) 0 0x18000 16 .write true = .ok 0x18000 7 := by decide +kernel

/-- Sixteen hardware entries, and none in the spill area of four. -/
def tFull : Warp :=
  { tMix with stack := List.replicate 16 { kind := .join, pc := 0x10000, mask := 1, tm := false }, spBase := 0x18000, spSize := 4 }

/-- R111: a push onto 16 entries, and the pop that refills. -/
theorem wit_PushJoin :
    let e : StackEntry := { kind := .join, pc := rel tFull 22 8, mask := tFull.exec, tm := false }
    Ready (mState tFull) tFull (ctShape []) ∧
    (∃ s' w', Pushed (mState tFull) tFull e s' w') ∧ ∃ s' w', Pushed (mState tMix) tMix e s' w' :=
  ⟨ready_m _ _ (by decide +kernel),
    ⟨_, _, by decide +kernel, .inr ⟨by decide +kernel, _, 0x18000, 7, rfl, by decide +kernel, by decide +kernel, rfl, rfl⟩⟩,
    ⟨_, _, by decide +kernel, .inl ⟨by decide +kernel, rfl, rfl⟩⟩⟩

/-- A return address in every lane of v6, one stack entry of each kind of its own state. -/
def tCall : Warp := { tMix with main := put tMix.main 6 (every 0x10040) }

theorem wit_CallsJoinsAndExits :
    let e : StackEntry := { kind := .call, pc := 0x10008, mask := 3, tm := false }
    let w := { tMix with stack := [e] }
    let none := { tMix with exec := 0 }
    let some1 := { tMix with exec := 1 }
    Ready (tState tCall) tCall (ctShape [src (.v 6) .w1] uniMask) ∧ Uniform tCall (.v 6) 0x10040 ∧
    (Ready (tState w) w (ctShape []) ∧ Popped (tState w) w e (tState w) { w with stack := [] } ∧
      Resolved (tState w) (resumed { w with stack := [] } e) (tState w) (resumed { w with stack := [] } e)) ∧
    (∃ s1 w1, Popped (mState { tFull with spilled := 1 }) { tFull with spilled := 1 }
      { kind := .join, pc := 0x10000, mask := 1, tm := false } s1 w1) ∧
    Resolved (tState none) none (tState none) { none with exec := none.live } ∧
    (Ready (tState none) none (ctShape []) ∧ none.exec = 0 ∧ none.sample = .none) ∧
    (Ready (tState some1) some1 (ctShape []) ∧ some1.exec ≠ 0 ∧ some1.live &&& ~~~some1.exec ≠ 0) ∧
    (Ready (tState tMix) tMix (ctShape []) ∧ tMix.exec ≠ 0 ∧ tMix.live &&& ~~~tMix.exec = 0) :=
  ⟨ready_t _ _ (by decide +kernel), ⟨0, rfl, by decide +kernel⟩,
    ⟨ready_t _ _ (by decide +kernel), ⟨_, rfl, .inl ⟨rfl, rfl, rfl⟩⟩, .some_lane _ _ (by decide +kernel)⟩,
    ⟨_, _, _, rfl, .inr ⟨by decide +kernel, by decide +kernel, 0x18000, 7, by decide +kernel, by decide +kernel, rfl, rfl⟩⟩,
    .all_popped _ _ rfl rfl, ⟨ready_t _ _ (by decide +kernel), rfl, rfl⟩, ⟨ready_t _ _ (by decide +kernel), by decide +kernel, by decide +kernel⟩,
    ready_t _ _ (by decide +kernel), by decide +kernel, by decide +kernel⟩

/-- BRK under a PATH and a JOIN, and BRK whose JOIN is in the spill area. -/
theorem wit_break :
    let p : StackEntry := { kind := .path, pc := 0x10008, mask := 7, tm := false }
    let j : StackEntry := { kind := .join, pc := 0x10010, mask := 7, tm := false }
    let w := { tMix with stack := [p, j] }
    let v := { tMix with stack := [p], spilled := 1, spBase := 0x18000, spSize := 4 }
    (Ready (tState w) w (ctShape [src (.v 0) .w1]) ∧ w.stack = [p] ++ [j] ∧ (∀ e ∈ [p], e.kind = .path)) ∧
    IsMask 0x55555555 (fun l => active w l ∧ holds w (.v 0) false l) ∧
    (v.stack = [p] ++ [] ∧ spilledPaths (mState v) v v.spilled = .inl [] ∧
      rewriteSpilled (mState v) v 1 [] = .inl (mState v)) := by
  refine ⟨⟨ready_t _ _ (by decide +kernel), rfl, by decide +kernel⟩, ?_, rfl, by decide +kernel, rfl⟩
  · unfold IsMask active holds; decide

/-! ## Witnesses: masks, flags, requests, traps -/

theorem wit_MaskAndFlagInstructions :
    let um : Shape := { size := 4, uses := [src (.v 2) .w1], acts := true, lanes := uniMask }
    let fm : Shape := { size := 4, uses := [{ src (.v 2) .w1 with lead := true }, dst (.v 3) .w1] }
    let fw : Shape := { size := 4, uses := [{ src (.v 2) .w1 with lead := true }, { src (.v 4) .w1 with lead := true }] }
    let none := { tMix with exec := 0 }
    (Ready (tState tMix) tMix { size := 4, uses := [dst (.v 3) .w1] } ∧ DestHere tMix (.v 3) 1) ∧
    (Ready (tState tMix) tMix um ∧ Uniform tMix (.v 2) 1 ∧ Ready (tState none) none um ∧ Uniform none (.v 2) 1) ∧
    Ready (tState tMix) tMix { size := 4, uses := [src (.v 0) .w1] } ∧
    (Ready (tState tMix) tMix fm ∧ tMix.exec ≠ 0 ∧ Ready (tState none) none fm) ∧
    (Ready (tState tMix) tMix fw ∧ Uniform tMix (.v 4) 6 ∧ Ready (tState none) none fw) :=
  ⟨⟨ready_t _ _ (by decide), here_v _ _ _ (by decide)⟩,
    ⟨ready_t _ _ (by decide), ⟨0, rfl, by decide⟩, ready_t _ _ (by decide), 0, rfl, by decide⟩, ready_t _ _ (by decide),
    ⟨ready_t _ _ (by decide), by decide, ready_t _ _ (by decide)⟩,
    ready_t _ _ (by decide), ⟨0, rfl, by decide⟩, ready_t _ _ (by decide)⟩

/-- A lane's store to 0x18000, not yet performed. -/
def tStore : LaneAcc :=
  { lane := 0, addr := 0x18000, loc := .dev 0x18000 0 false, size := 8, op := .store, data := 5, data2 := 0, ser := 0
    done := false, val := 0, pois := false }

/-- A context in deterministic mode, its phase as given. -/
def tDet (w : Warp) (p : Nat) : State := modCtx (tState w) 0 fun c => { c with det := true, phase := p }

theorem tDet_ready (w : Warp) (p : Nat) (m : Shape) (h : readyB (tDet w p) w m = true) : Ready (tDet w p) w m :=
  ready_of _ _ _ rfl h

theorem wit_WarpAndPhaseRequests :
    let a : Shape := { size := 4, acts := true }
    let um : Shape := { size := 4, uses := [src (.v 1) .w1], acts := true, lanes := uniMask }
    let w6 := { tMix with main := put tMix.main 6 (every 16), alloc := 32 }
    let w16 := { tMix with main := put tMix.main 6 (every 32), alloc := 16 }
    let late := { tMix with run := { tMix.run with commit := some 4 } }
    let busy := tMix.addSlot .relaxed .warp .none (.access [tStore] false)
    (Ready (tState tMix) tMix a ∧ (∀ sl ∈ tMix.slots, sl.ret = true ∨ sl.idx = 6) ∧
      aflagBits tMix.aflags &&& (ctxAt (tState tMix) tMix.ctx).trapen = 0) ∧
    (Ready (modCtx (tState tMix) 0 fun c => { c with bke := false }) tMix a ∧
      (ctxAt (modCtx (tState tMix) 0 fun c => { c with bke := false }) tMix.ctx).bke = false) ∧
    (Ready (tState tMix) tMix um ∧ Uniform tMix (.v 1) 0 ∧ Uniform tMix (.v 4) 6) ∧
    Ready (tState tMix) tMix { size := 4, limm := true, isLimm := true } ∧
    (Ready (tState w6) w6 (regrsShape (.v 3) (.v 6)) ∧ DestHere w6 (.v 3) 1 ∧ Uniform w6 (.v 6) 16 ∧ 16 ≤ w6.alloc) ∧
    (Ready (tState w16) w16 (regrsShape (.v 3) (.v 6)) ∧ DestHere w16 (.v 3) 1 ∧ Uniform w16 (.v 6) 32 ∧ w16.alloc < 32 ∧
      regsFit (grantRegrs (tState w16)
        ((regrsWaiters (tState w16) w16.core w16.quarter).filter fun p => regrsBefore p (w16, 32))) w16 32 = true) ∧
    (ctxAt (tState tMix) tMix.ctx).det = false ∧
    (Ready (tDet tMix 4) tMix a ∧ (ctxAt (tDet tMix 4) tMix.ctx).det = true ∧ tMix.run.commit = none ∧
      earlierPerformed (tDet tMix 4) tMix tMix.nextSlot .package = true ∧ noCommands (tDet tMix 4) tMix = true) ∧
    (Ready (tDet busy 4) busy a ∧ earlierPerformed (tDet busy 4) busy busy.nextSlot .package = false) ∧
    (Ready (tDet late 4) late a ∧ (ctxAt (tDet late 4) late.ctx).phase ≤ 4) ∧
    (Ready (tDet late 5) late a ∧ 4 < (ctxAt (tDet late 5) late.ctx).phase) :=
  ⟨⟨ready_t _ _ (by decide), by decide, by decide⟩, ⟨ready_of _ _ _ rfl (by decide), by decide⟩,
    ⟨ready_t _ _ (by decide), ⟨0, rfl, by decide⟩, 0, rfl, by decide⟩, ready_t _ _ (by decide),
    ⟨ready_t _ _ (by decide), here_v _ _ _ (by decide), ⟨0, rfl, by decide⟩, by decide⟩,
    ⟨ready_t _ _ (by decide), here_v _ _ _ (by decide), ⟨0, rfl, by decide⟩, by decide, by decide⟩, by decide,
    ⟨tDet_ready _ _ _ (by decide), by decide, by decide, by decide, by decide⟩,
    ⟨tDet_ready _ _ _ (by decide), by decide⟩, ⟨tDet_ready _ _ _ (by decide), by decide⟩,
    tDet_ready _ _ _ (by decide), by decide⟩

/-- A package whose context has a handler. -/
def hState (w : Warp) : State := modCtx (tState w) 0 fun c => { c with tvec := 0x40000 }

theorem wit_TrapAndTrailerInstructions :
    let masked := { tMix with tm := true }
    let e : StackEntry := { kind := .trap, pc := thru tMix, mask := tMix.exec, tm := false }
    let waits := tMix.addSlot .relaxed .warp .none (.fence .sc)
    (Ready (hState masked) masked (ctShape []) ∧ masked.tm = true) ∧
    (Ready (tState tMix) tMix (ctShape []) ∧ (ctxAt (tState tMix) tMix.ctx).tvec = 0) ∧
    (Ready (hState tMix) tMix (ctShape []) ∧ (ctxAt (hState tMix) tMix.ctx).tvec ≠ 0 ∧
      Pushed (hState tMix) tMix e (hState tMix) { tMix with stack := [e] }) ∧
    (warpAt (tState tMix) (tState tMix).cur = some tMix ∧ mayIssue (tState tMix) tMix = true ∧ tMix.run.limm = [] ∧
      tMix.run.trp = none ∧ tMix.back = none ∧ ∀ sl ∈ tMix.slots, sl.ret = true) ∧
    (warpAt (tState waits) (tState waits).cur = some waits ∧ mayIssue (tState waits) waits = true ∧
      ∃ sl ∈ waits.slots, sl.ret = false ∧ sl.idx ≠ 6 ∧ (sl.run = waits.runNo ∧ (1 : BitVec 6).getLsbD sl.idx = true)) :=
  ⟨⟨ready_of _ _ _ rfl (by decide), rfl⟩, ⟨ready_t _ _ (by decide), by decide⟩,
    ⟨ready_of _ _ _ rfl (by decide), by decide, by decide, .inl ⟨by decide, rfl, by decide +kernel⟩⟩,
    ⟨rfl, by decide, rfl, rfl, rfl, by decide⟩, rfl, by decide, by decide⟩

theorem wit_ContextRegisters :
    let none := { tMix with exec := 0 }
    let m : Shape := { size := 4, priv := true, uses := [{ src (.v 4) .w1 with lead := true }] }
    (Ready (tState tMix) tMix { size := 4, priv := true, uses := [dst (.v 3) .w1] } ∧ DestHere tMix (.v 3) 1) ∧
    (Ready (tState tMix) tMix m ∧ tMix.exec ≠ 0 ∧ Uniform tMix (.v 4) 6) ∧ Ready (tState none) none m :=
  ⟨⟨ready_t _ _ (by decide), here_v _ _ _ (by decide)⟩, ⟨ready_t _ _ (by decide), by decide, 0, rfl, by decide⟩,
    ready_t _ _ (by decide)⟩

theorem mayEnter_of (s : State) (w : Warp)
    (h : (w.drained && !w.tm && (ctxAt s w.ctx).tvec != 0 && decide (w.stack.length < 16) && w.spilled == 0 &&
      startAllowed s w) = true) : MayEnter s w := by
  simp only [Bool.and_eq_true, Bool.not_eq_true', bne_iff_ne, decide_eq_true_eq, beq_iff_eq] at h
  exact ⟨h.1.1.1.1.1, h.1.1.1.1.2, h.1.1.1.2, h.1.1.2, h.1.2, fun _ => h.2⟩

theorem trappable_h (w : Warp) (h : (mayIssue (hState w) w && w.run.limm.isEmpty && w.drained && !w.tm &&
    (ctxAt (hState w) w.ctx).tvec != 0 && decide (w.stack.length < 16) && w.spilled == 0 && startAllowed (hState w) w) = true) :
    Trappable (hState w) w := by
  simp only [Bool.and_eq_true, Bool.not_eq_true', bne_iff_ne, decide_eq_true_eq, beq_iff_eq, List.isEmpty_iff] at h
  exact ⟨rfl, h.1.1.1.1.1.1.1, h.1.1.1.1.1.1.2, h.1.1.1.1.1.2, h.1.1.1.1.2, h.1.1.1.2, h.1.1.2, h.1.2, fun _ => h.2⟩

theorem wit_WhereInstructionsTrap :
    let long := { tMix with run := { tMix.run with pos := 24 } }
    let seven := { tMix with run := { tMix.run with taken := 6 } }
    let lone := { tMix with code := some [0x0831, 0x0000, 0x0831, 0] }
    let small := { tMix with alloc := 16 }
    let limm := { tMix with run := { tMix.run with limm := [1], pos := 1 } }
    let user := fun w => modCtx (hState w) 0 fun c => { c with prv := false }
    (Trappable (hState long) long ∧ 24 ≤ long.run.pos) ∧ (Trappable (hState seven) seven ∧ 6 ≤ seven.run.taken) ∧
    (Trappable (hState lone) lone ∧ nextIsTrl lone 4 = false) ∧
    (Trappable (user tMix) tMix ∧ (ctxAt (user tMix) tMix.ctx).prv = false) ∧
    (Trappable (hState small) small ∧ small.alloc ≤ (16 : Fin 32).val) ∧
    (limm.run.limm = 1 :: [] ∧ MayEnter (hState limm) limm) ∧
    (Trappable (hState tMix) tMix ∧ nextIsTrl tMix 4 = true ∧ tMix.stack = []) := by
  refine ⟨⟨trappable_h _ (by decide), by decide⟩, ⟨trappable_h _ (by decide), by decide⟩,
    ⟨trappable_h _ (by decide), by decide⟩, ⟨⟨rfl, by decide, rfl, mayEnter_of _ _ (by decide)⟩, by decide⟩,
    ⟨trappable_h _ (by decide), by decide⟩, ⟨rfl, mayEnter_of _ _ (by decide)⟩, trappable_h _ (by decide), by decide, rfl⟩

theorem wit_TrapEntryAndReturn :
    let t := tMix.trap cALIGN
    let waits := { tMix with pend := some t }
    let later := { waits with run := { tMix.run with trp := some (t, false) } }
    let held := { tMix with held := [t] }
    let masked := { tMix with pend := some t, tm := true }
    let back := { tMix with back := some (false, true), shadow := some { run := RunState.start, prog := 3, runNo := 0 } }
    (warpAt (hState waits) 0 = some waits ∧ waits.pend = some t ∧ waits.run.trp = none ∧ MayEnter (hState waits) waits) ∧
    (later.pend = some t ∧ later.run.trp = some (t, false) ∧ later.drained = true) ∧
    (held.held = [t] ∧ held.run.limm = [] ∧ held.st = .running ∧ MayEnter (hState held) held) ∧
    (masked.drained = true ∧ masked.tm = true) ∧
    (warpAt (hState back) (hState back).cur = some back ∧ mayIssue (hState back) back = true ∧ back.slots = []) := by
  exact ⟨⟨rfl, rfl, rfl, mayEnter_of _ _ (by decide)⟩, ⟨rfl, rfl, by decide⟩, ⟨rfl, rfl, rfl, mayEnter_of _ _ (by decide)⟩, ⟨by decide, rfl⟩, rfl,
    by decide, rfl⟩

/-! ## Witnesses: memory, special registers, messages, barriers, queues, records -/

/-- A warp whose v6 holds a scratchpad offset and v7 an address of memory, each lane its own. -/
def tAddr : Warp := { tMix with main := put (put tMix.main 6 (lanesBy fun l => 8 * l)) 7 (lanesBy fun l => 0x18000 + 8 * l) }

def tLoad (a : Fin 32) : LoadOp := { d := .v 3, a := .v a, imm := 0, w := .w1, t := .s64, ord := .relaxed, scope := .warp }
def tStoreOp (a : Fin 32) : StoreOp := { d := .v 4, a := .v a, imm := 0, w := .w1, t := .s64, ord := .relaxed, scope := .warp }

/-- A lane store of its own number into scratchpad and memory, and with no lane active. -/
theorem wit_LaneAccessesAtIssue :
    let none := { tAddr with exec := 0 }
    (Ready (mState tAddr) tAddr (loadShape (tLoad 7) false) ∧ tAddr.exec ≠ 0 ∧ tAddr.sample = .none ∧
      ∀ l < 32, checkLane (mState tAddr) tAddr (loadForm (tLoad 7) false) (addrOf tAddr (.v 7) 0 l) =
        .inl (.dev (0x18000 + 8 * l) 0 false)) ∧
    (Ready (mState tAddr) tAddr (storeShape (tStoreOp 6) true) ∧
      ∀ l < 32, checkLane (mState tAddr) tAddr (storeForm (tStoreOp 6) true) (addrOf tAddr (.v 6) 0 l) =
        .inl (.scratch 0 (8 * l) false) ∧ Free (mState tAddr) (Held tAddr) true 8 (.scratch 0 (8 * l) false)) ∧
    Ready (mState none) none (loadShape (tLoad 7) false) ∧
    (Ready (mState tAddr) tAddr { size := 4, long := true, weight := 64, uses := [src (.v 7) .w1, dstRead (.v 4) .w1, src (casNew (.v 4)) .w1] }) ∧
    (Ready (mState tAddr) tAddr { size := 4, long := true, weight := 64, uses := [{ src (.v 7) .w1 with lead := true }, src (.v 4) .w1] } ∧
      Uniform tAddr (.v 7) 0x18000 ∧ (lanesOf tAddr.exec).length = 32 ∧
      ∀ j < 32, checkLane (mState tAddr) tAddr (storeForm (tStoreOp 7) false) ((0x18000 + 0 + j * 8) % 2 ^ 64) =
        .inl (.dev (0x18000 + 8 * j) 0 false)) := by
  refine ⟨⟨ready_m _ _ (by decide +kernel), by decide, rfl, by decide +kernel⟩, ⟨ready_m _ _ (by decide +kernel), ?_⟩,
    ready_m _ _ (by decide +kernel), ready_m _ _ (by decide +kernel), ready_m _ _ (by decide +kernel), ⟨0, rfl, by decide⟩,
    by decide, by decide +kernel⟩
  unfold Free; decide +kernel

/-- A warp with a message in qi0 and a channel on qo1 to a second warp. -/
def tMsg : Msg := { src := 1, sr := 0, dst := 0, rr := 0, mask := 3, data := List.replicate 32 9, bind := 0, vc := [] }
def tSend : Warp :=
  { tMix with recv := [(0, [tMsg])], recvBound := 1, send := [(1, { dst := 1, rr := 2, credits := 1, bind := 7 })] }
def tTwo (w : Warp) : State := setWarp (tState w) 1 { tMix with idx := 1, slot := 1 }

theorem wit_SpecialRegistersAndMessages :
    let none := { tMix with exec := 0 }
    (Ready (tState tMix) tMix (rdsShape (.v 3) 0) ∧ Ready (tState tMix) tMix (rdsShape (.v 3) 19) ∧
      Ready (tState tMix) tMix (rdsShape (.v 3) 31) ∧ DestHere tMix (.v 3) 1) ∧
    (Ready (tState tSend) tSend (rdsShape (.v 3) 20) ∧ heldBack tSend tSend.nextSlot false = false ∧
      look tSend.recv (20 - 20) [] = tMsg :: []) ∧
    Ready (tState none) none (wrsShape (.v 4) 3) ∧
    (Ready (tState tMix) tMix (wrsShape (.v 4) 3) ∧ Ready (tState tMix) tMix (wrsShape (.v 4) 14) ∧
      Ready (tState tMix) tMix (wrsShape (.v 4) 15) ∧ Uniform tMix (.v 4) 6 ∧ Ready (tState tMix) tMix (wrsShape (.v 4) 8) ∧
      Ready (tState tMix) tMix (wrsShape (.v 4) 11)) ∧
    (Ready (tTwo tSend) tSend (wrsShape (.v 4) 25) ∧
      look? tSend.send (25 - 24) = some { dst := 1, rr := 2, credits := 1, bind := 7 } ∧ (warpAt (tTwo tSend) 1).isSome = true) ∧
    (let s := { tState tMix with links := { Links.reset with msgs := [tMsg] } }
     s.links.msgs[0]? = some tMsg ∧ (∀ x ∈ s.links.msgs.take 0, ¬ (x.src = tMsg.src ∧ x.sr = tMsg.sr)) ∧
       (warpAt s tMsg.dst).isSome = true) ∧
    (let s := { tState tSend with links := { Links.reset with credits := [(0, 1, 7)] } }
     s.links.credits[0]? = some (0, 1, 7) ∧ warpAt s 0 = some tSend) :=
  ⟨⟨ready_t _ _ (by decide), ready_t _ _ (by decide), ready_t _ _ (by decide), here_v _ _ _ (by decide)⟩,
    ⟨ready_t _ _ (by decide), by decide, rfl⟩, ready_t _ _ (by decide),
    ⟨ready_t _ _ (by decide), ready_t _ _ (by decide), ready_t _ _ (by decide), ⟨0, rfl, by decide⟩, ready_t _ _ (by decide),
      ready_t _ _ (by decide)⟩,
    ⟨ready_of _ _ _ rfl (by decide), rfl, rfl⟩, ⟨rfl, by decide, rfl⟩, rfl, rfl⟩

theorem wit_FencesAndTimelines :
    let none := { tMix with exec := 0 }
    let m : Shape := { size := 4, weight := 16, uses := [{ src (.v 1) .w1 with lead := true }] }
    let r : Shape := { size := 4, long := true, weight := 16, uses := [dst (.v 3) .w1] }
    Ready (tState tMix) tMix { size := 4, long := true, acts := true } ∧
    (Ready (tState tMix) tMix m ∧ Uniform tMix (.v 1) 0 ∧ 0 ≤ (warpTimeline (tState tMix) tMix .mx).t ∧
      (warpTimeline (tState tMix) tMix .mx).p = 0) ∧
    (Ready (tState none) none m ∧ none.exec = 0) ∧ (Ready (tState tMix) tMix r ∧ Ready (tState none) none r) :=
  ⟨ready_t _ _ (by decide), ⟨ready_t _ _ (by decide), ⟨0, rfl, by decide⟩, by decide, by decide⟩,
    ⟨ready_t _ _ (by decide), rfl⟩, ready_t _ _ (by decide), ready_t _ _ (by decide)⟩

/-- A warp whose octet v8:8 holds some words, v8 first. -/
def tOct (xs : List Nat) : Warp :=
  { tMix with main := tMix.main ++ xs.zipIdx.filterMap fun p => if p.1 = 0 then none else some (8 + p.2, every p.1) }

/-- A crew of the state with its barrier 3 changed. -/
def bState (w : Warp) (b : Barrier) : State := modBar (tState w) 0 3 fun _ => b
def tBar (n arrivals : Nat) (far : Bool) : Barrier :=
  { count := n, far := far, ph := false, arrivals := arrivals, farGot := [], farNext := [], posted := false }

theorem wit_BarriersAndFarArrivals :
    let w := tOct [3]
    let init := tOct [3 + 16 * 16]
    let none := { w with exec := 0 }
    let m := barShape 1 [] fun _ _ x => barWordBad x false
    let far : FarMsg := { dst := 0, src := 9, core := 1, bar := 3, ph := false, vc := [], ser := 0 }
    let fs := { bState w (tBar 2 0 true) with links := { Links.reset with far := [far] } }
    (Ready (tState init) init (barShape 1 [] fun s w x => barWordBad x true || barInitBad s w x) ∧ init.exec ≠ 0 ∧
      Word_ init 1 0 (3 + 16 * 16)) ∧
    (Ready (bState w (tBar 2 0 false)) w (barShape 1 [dst (.v 3) .w1] fun _ _ x => barWordBad x false) ∧ Word_ w 1 0 3 ∧
      (crewAt (bState w (tBar 2 0 false)) w.crewK).map (fun c => c.bars[3]?) = some (some (tBar 2 0 false)) ∧
      mayArrive (bState w (tBar 2 0 false)) w w.nextSlot (arriveScope (bState w (tBar 2 0 false)) w.crewK 3 .crew) = true ∧
      0 + 1 < (tBar 2 0 false).count ∧ 1 + 1 = (tBar 2 1 false).count) ∧
    (Ready (bState w (tBar 2 1 false)) w (barShape 1 [{ src (.v 2) .w1 with lead := true }] fun _ _ x => barWordBad x false) ∧
      Uniform w (.v 2) 1 ∧ (tBar 2 1 false).ph ≠ Nat.testBit 1 0) ∧
    (Ready (bState w (tBar 2 1 false)) w m ∧ w.run.arv = .none ∧
      ∀ y ∈ allWarps (bState w (tBar 2 1 false)), y.crewK = w.crewK → y.st ≠ .blocked (.barrier 3 false)) ∧
    (Ready (tState none) none m ∧ none.exec = 0) ∧
    (fs.links.far[0]? = some far ∧ (crewAt fs far.dst).map (fun c => c.bars[far.bar]?) = some (some (tBar 2 0 true)) ∧
      (∀ c, crewAt fs far.dst = some c → farBehindWrites fs far c.core = true) ∧ (tBar 2 0 true).far = true ∧
      (tBar 2 0 true).ph = far.ph ∧ (tBar 2 0 true).arrivals < (tBar 2 0 true).count) := by
  refine ⟨⟨ready_t _ _ (by decide), by decide, 0, rfl, by decide⟩,
    ⟨ready_of _ _ _ rfl (by decide), ⟨0, rfl, by decide⟩, by decide, by decide, by decide, by decide⟩,
    ⟨ready_of _ _ _ rfl (by decide), ⟨0, rfl, by decide⟩, by decide⟩, ⟨ready_of _ _ _ rfl (by decide), rfl, by decide⟩,
    ⟨ready_t _ _ (by decide), rfl⟩, rfl, by decide, ?_, rfl, rfl, by decide⟩
  intro c hc; injection hc with hc; subst hc; decide

/-- R294's four refusals and its acceptance. -/
theorem wit_BarrierInitialised :
    let m := { barShape 1 [] (fun s w x => barWordBad x true || barInitBad s w x) with check := noCheck }
    let some17 := tOct [3 + 16 * 17]
    let far := tOct [3 + 16 * 2 + 512]
    let ok := tOct [3 + 16 * 2]
    (Ready (tState some17) some17 m ∧ Word_ some17 1 0 (3 + 16 * 17) ∧ 16 < (3 + 16 * 17) / 16 % 32) ∧
    (Ready (tState far) far m ∧ Word_ far 1 0 (3 + 16 * 2 + 512) ∧ Nat.testBit (3 + 16 * 2 + 512) 9 = true ∧
      (crewAt (tState far) far.crewK).map (·.span) = some []) ∧
    (Ready (bState ok (tBar 2 1 false)) ok m ∧ (tBar 2 1 false).arrivals ≠ 0) ∧
    (Ready (tState ok) ok m ∧ Word_ ok 1 0 (3 + 16 * 2) ∧ ok.exec ≠ 0 ∧ 3 + 16 * 2 < 2 ^ 10 ∧
      ((crewAt (tState ok) ok.crewK).map fun c => c.bars[3]?.map (·.arrivals)) = some (some 0)) :=
  ⟨⟨ready_t _ _ (by decide), ⟨0, rfl, by decide⟩, by decide⟩,
    ⟨ready_t _ _ (by decide), ⟨0, rfl, by decide⟩, by decide, by decide⟩, ⟨ready_of _ _ _ rfl (by decide), by decide⟩,
    ready_t _ _ (by decide), ⟨0, rfl, by decide⟩, by decide, by decide, by decide⟩

/-! ## Witnesses: queues and records -/

/-- A context whose queue 2 is of a class, with some items, open or closed; its crew has a second warp. -/
def qState (w : Warp) (cls : Nat) (closed : Bool) (items : SMap (List Item)) : State :=
  modCrew (modCtx (tTwo w) 0 fun c => { c with
    queues := [(2, { Queue.empty with cls := cls, logcap := 1, closed := closed, items := items, tickets := [(0, 7)] })] })
    0 fun y => { y with wpc := 2 }

def tItem (n : Nat) : Item :=
  { data := [1, 2, 3, 4], tile := 0, seg := 0, num := n, ticket := n, phase := 0, vc := [] }

theorem ready_q (w : Warp) (cls : Nat) (cl : Bool) (it : SMap (List Item)) (m : Shape)
    (h : readyB (qState w cls cl it) w m = true) : Ready (qState w cls cl it) w m := ready_of _ _ _ rfl h

/-- An item in the own segment, in the cluster's subqueue, and in the last segment tried. -/
theorem wit_takes :
    let w := tOct [2, 0, 1, 2, 3, 4]
    Takes (qState w 2 false [(0, [tItem 0])]) w 2 0 (tItem 0) [] ∧ Takes (qState w 1 false [(0, [tItem 0])]) w 2 0 (tItem 0) [] ∧
    Takes (qState w 2 false [(4, [tItem 0])]) w 2 4 (tItem 0) [] :=
  ⟨⟨by decide, by decide, [], [1, 7, 2, 6, 3, 5, 4], by decide, by decide, by decide⟩,
    ⟨by decide, by decide, [], [], by decide, by decide, by decide⟩,
    ⟨by decide, by decide, [0, 1, 7, 2, 6, 3, 5], [], by decide, by decide, by decide⟩⟩

theorem wit_QueueInstructionsAndEvents :
    let w := tOct [2, 0, 1, 2, 3, 4]
    let none := { w with exec := 0 }
    let take := takeShape (.v 3) 1
    let enq := fun close => queueShape 1 (if close then 1 else 6) [dst (.v 3) .w1] fun s w => enqBad s w 1 close
    let qb : Shape :=
      { size := 4, weight := 16, octet := some (octBase 1), words := 1
        check := fun s w => trapIf (qbindBad s w (octWord w 1 0)) (w.trap cILLEGAL_OPERAND) }
    let b0 := tOct [84]
    let b1 := tOct [5]
    let b2 := tOct [2 + 2 ^ 29]
    let b3 := tOct [3 + 2 ^ 29]
    let deq := w.addSlot .relaxed .crew .none (.deq 2 false)
    let enw := w.addSlot .relaxed .crew .none (.enq 2 0 [1, 2, 3, 4] false)
    (Ready (qState none 2 false []) none take ∧ none.exec = 0) ∧
    (Ready (qState w 2 false [(0, [tItem 0])]) w take ∧ w.exec ≠ 0 ∧ w.sample = .none ∧ Word_ w 1 0 2 ∧
      queueOrphan (qState w 2 false [(0, [tItem 0])]) w 2 = false ∧ heldBack w w.nextSlot true = false) ∧
    (Ready (qState w 2 true []) w take ∧ SeesNone (qState w 2 true []) w 2 ∧ SeesNone (qState w 1 false [(5, [tItem 0])]) w 2) ∧
    ((∀ c, Ready (qState w 2 false []) w (enq c)) ∧ mayEnq (qState w 2 false []) w w.nextSlot 2 .crew = true ∧
      Word_ w 1 2 1 ∧ Word_ w 1 5 4 ∧
      2 ^ 1 ≤ (look (queueOf (qState w 2 false [(0, [tItem 0, tItem 1])]) w.ctx 2).items 0 []).length ∧
      (look (queueOf (qState w 2 false [(0, [tItem 0])]) w.ctx 2).items 0 []).length < 2 ^ 1) ∧
    (Ready (qState b0 2 false []) b0 qb ∧ Ready (qState b1 2 false []) b1 qb ∧ Ready (qState b2 2 false []) b2 qb ∧
      Ready (qState b3 2 false []) b3 qb ∧ (warpAt (qState b0 2 false []) 1).isSome = true) ∧
    (deq.key = 0 ∧ (deq.slotAt w.nextSlot).map (·.body) = some (.deq 2 false) ∧ heldBack deq w.nextSlot true = false) ∧
    (mayEnq (qState enw 2 false []) enw w.nextSlot 2 .crew = true ∧
      (enw.slotAt w.nextSlot).map (·.body) = some (.enq 2 0 [1, 2, 3, 4] false)) ∧
    (let s := modCtx (tState deq) 0 fun c => { c with queues := [(2, { Queue.empty with cls := 1, everProd := true })] }
     s.warps = [(0, deq)] ∧ queueOrphan s deq 2 = true) := by
  refine ⟨⟨ready_q _ _ _ _ _ (by decide), rfl⟩,
    ⟨ready_q _ _ _ _ _ (by decide), by decide, rfl, ⟨0, rfl, by decide⟩, by decide, by decide⟩,
    ⟨ready_q _ _ _ _ _ (by decide), ⟨by decide, by decide⟩, by decide, by decide⟩,
    ⟨?_, by decide, ⟨0, rfl, by decide⟩, ⟨0, rfl, by decide⟩, by decide, by decide⟩,
    ⟨ready_q _ _ _ _ _ (by decide), ready_q _ _ _ _ _ (by decide), ready_q _ _ _ _ _ (by decide),
      ready_q _ _ _ _ _ (by decide), by decide⟩, ⟨by decide, by decide, by decide⟩, ⟨by decide, by decide⟩, rfl, by decide⟩
  intro c; cases c <;> exact ready_q _ _ _ _ _ (by decide)

/-- A record of 4 × 16 FP32 elements at scratchpad 0, of 64 × 16 FP8 elements, of a vector of 1024 FP32 elements, of an
unsigned 4-bit code plane, and of FP8 weights in memory at 0x18000. -/
def recF : List Word := [0x1020A, 0, 0, 0, 4 + 16 * 2 ^ 24, 0, 16, 0]
def recE : List Word := [0x1020B, 0, 0, 0, 64 + 16 * 2 ^ 24, 0, 64, 0]
def recV : List Word := [0x1010A, 0, 0, 0, 1024, 0, 0, 0]
def recC : List Word := [0x1021B, 0, 0, 0, 256 + 8 * 2 ^ 24, 0, 256, 0]
def recW : List Word := [0x0020B, 0x18000, 0, 0, 192 + 16 * 2 ^ 24, 0, 192, 0]

/-- The record of a vector of 4 FP32 elements in memory at 0x18000, which copies use. -/
def recM : List Word := [0x0010A, 0x18000, 0, 0, 4, 0, 0, 0]

/-- A record of 4 rows of 8 FP32 elements in memory, of an entropy-coded stream of 64 bytes. -/
def recR : List Word := [0x0020A, 0x18000, 0, 0, 8 + 4 * 2 ^ 24, 0, 32, 0]
def recX : List Word := [0x2011F, 0x18000, 0, 0x18400, 64, 0, 0, 0]

/-- A crew with shares of every engine unit, a valid region 0 of FP8 weights and a built table 0. -/
def eCrew : Crew :=
  { newCrew 0 0 0 0 0 fetchLaunch with
    nFirn := 32, nAcc := 2
    firn := [(0, { Firn.invalid with st := .valid, fmt := 0x0B, ng := 1 })]
    tables := [(0, { Table.empty with built := true })] }

/-- The package with that crew and these records cached, handles 0 to 7; the fetch of record 9 is under way. -/
def eState (w : Warp) : State :=
  { setCrew (mState w) 0 eCrew with
    recs := [recF, recE, recV, recC, recW, recM, recR, recX].zipIdx.map fun p => { core := 0, ctx := 0, handle := p.2, words := p.1 }
    fetches := [(0, 0, 9)] }

theorem ready_e (w : Warp) (m : Shape) (h : readyB (eState w) w m = true) : Ready (eState w) w m :=
  ready_of _ _ _ rfl h

theorem wit_RecordInstructionsAndFetch :
    let m := fun (n : Nat) => ({ size := 4, weight := 16, octet := some (octBase 1), words := 1
                                 check := fun _ w => trapIf (octWord w 1 0 / 2 ^ n != 0) (w.trap cILLEGAL_OPERAND) } : Shape)
    (Ready (eState (tOct [8])) (tOct [8]) (m 12) ∧ Word_ (tOct [8]) 1 0 8 ∧ ∀ r ∈ (eState (tOct [8])).recs, r.handle ≠ 8) ∧
    (Ready (eState (tOct [1])) (tOct [1]) (m 12) ∧ (cachedRec (eState (tOct [1])) 0 0 1).map (·.words) = some recE) ∧
    Ready (eState (tOct [4096])) (tOct [4096]) (m 13) ∧
    (∀ x ∈ [0, 1, 2 + 16 * 3], readyB (eState (tOct [x])) (tOct [x]) (recqShape (.v 3) 1) = true) ∧
    ((0, 0, 9) ∈ (eState tMix).fetches ∧
      translate (modCtx (eState tMix) 0 fun c => { c with recBase := 0x300000 }) 0 0 (0x300000 + 64 * 9) 64 .read = .bad cPAGE ∧
      translate (modCtx (eState tMix) 0 fun c => { c with recBase := 0x18000 }) 0 0 (0x18000 + 64 * 9) 64 .read = .ok 0x18240 7 ∧
      (homeLoad { (modCtx (eState tMix) 0 fun c => { c with recBase := 0x18000 }) with fetches := [] } 0 0 0x18240 64
        (pteMt 7 != 0) false).map (·.2.2) = some false) :=
  ⟨⟨ready_e _ _ (by decide +kernel), ⟨0, rfl, by decide⟩, by decide +kernel⟩, ⟨ready_e _ _ (by decide +kernel), by decide +kernel⟩,
    ready_e _ _ (by decide +kernel), by decide +kernel, by decide +kernel, by decide +kernel, by decide +kernel, by decide +kernel⟩

/-! ## Witnesses: engine commands -/

theorem eState_crew (w : Warp) : crewAt (eState w) 0 = some eCrew := rfl

theorem named_e (w : Warp) (h : Nat) (ws : List Word) (hw : w.crewK = 0)
    (hr : cachedRec (eState w) w.core w.ctx h = some { core := 0, ctx := 0, handle := h, words := ws })
    (hm : recMalformed ws eCrew.bytes = false) : Named (eState w) w h eCrew (recOf ws) :=
  ⟨_, hr, by rw [hw]; rfl, hm, rfl⟩

theorem roomy_e (w : Warp) (eng n : Nat)
    (hw : w.core = 0 ∧ w.ctx = 0 ∧ scratchQuiet w = true ∧ heldBack w w.nextSlot false = false ∧ w.sample = none) (hn : n ≤ 64) :
    Roomy (eState w) w eng n := by
  obtain ⟨h1, h2, h3, h4, h5⟩ := hw
  refine ⟨by rw [h2]; rfl, ?_, ?_, h3, h4, h5⟩
  · rw [h1]; exact Nat.succ_pos 15
  · rw [h1]; exact (Nat.zero_add n).symm ▸ hn

theorem roomy_o (xs : List Nat) (eng n : Nat) (hn : n ≤ 64) : Roomy (eState (tOct xs)) (tOct xs) eng n :=
  roomy_e _ _ _ ⟨rfl, rfl, rfl, rfl, rfl⟩ hn

/-- MMA of 4 rows, 2 columns and 16 elements; ACCZ of set 1; ACCRD and ACCWR of 4 × 2 elements; WBLD of one group into region
1 at unit 3; WBQ of regions 0 (valid) and 2 (invalid). -/
def xMma : Nat × Nat := (1 + 2 ^ 38, 16 * 2 ^ 32 + 4 * 2 ^ 48 + 2 * 2 ^ 56)
def xAcc : Nat × Nat := (0, 4 + 2 * 2 ^ 8)
def xWbld : Nat × Nat := (4 + 2 ^ 16 + 3 * 2 ^ 24 + 2 ^ 33, 0)

theorem wit_MatrixCommands :
    let mma := tOct [xMma.1, xMma.2]
    let acc := tOct [xAcc.1, xAcc.2]
    let wb := tOct [xWbld.1, xWbld.2]
    let none := { mma with exec := 0 }
    let mm := cmdShape 1 2 false [] fun _ w => mmaWordsBad (octWord w 1 0) (octWord w 1 1)
    let wq : Shape :=
      { size := 4, long := true, weight := 8, octet := some (octBase 1), words := 1, uses := [dst (.v 3) .w1]
        check := fun _ w => trapIf (octWord w 1 0 / 8 != 0) (w.trap cILLEGAL_OPERAND) }
    (Ready (eState mma) mma mm ∧ mma.exec ≠ 0 ∧ Word_ mma 1 0 xMma.1 ∧ Word_ mma 1 1 xMma.2 ∧
      Named (eState mma) mma (bits xMma.1 0 12) eCrew (recOf recE) ∧ MmaFits eCrew (recOf recE) xMma.1 xMma.2 ∧
      Roomy (eState mma) mma 4 2) ∧
    (Ready (eState none) none mm ∧ none.exec = 0) ∧
    (Ready (eState (tOct [1])) (tOct [1]) (cmdShape 1 1 false [] fun _ w => octWord w 1 0 / 4 != 0) ∧ 1 < eCrew.nAcc) ∧
    (Ready (eState acc) acc (cmdShape 1 2 true [dst (.v 3) .w1] fun _ w => accWordsBad (octWord w 1 0) (octWord w 1 1)) ∧
      Ready (eState acc) acc (cmdShape 1 2 false [] fun _ w => accWordsBad (octWord w 1 0) (octWord w 1 1)) ∧
      Named (eState acc) acc (bits xAcc.1 0 12) eCrew (recOf recF) ∧ AccFits eCrew (recOf recF) xAcc.1 xAcc.2 true ∧
      acc.key = (eState acc).cur) ∧
    (Ready (eState wb) wb (cmdShape 1 2 false [] fun _ w => wbldWordsBad (octWord w 1 0) (octWord w 1 1)) ∧
      Named (eState wb) wb (bits xWbld.1 0 12) eCrew (recOf recW) ∧ (recOf recW).sp = false ∧ mulFmt (recOf recW).fmt = true ∧
      bits xWbld.1 24 9 + regionUnits (recOf recW).fmt (bits xWbld.1 33 9) ≤ eCrew.nFirn ∧
      (timelineAt (eState wb) (tlKey wb.core wb.ctx 4)).p = 0) ∧
    (Ready (eState (tOct [0])) (tOct [0]) wq ∧ Ready (eState (tOct [2])) (tOct [2]) wq ∧
      (look eCrew.firn 0 Firn.invalid).st ≠ .invalid ∧ (look eCrew.firn 2 Firn.invalid).st = .invalid) := by
  refine ⟨⟨ready_e _ _ (by decide +kernel), by decide, ⟨0, rfl, by decide⟩, ⟨0, rfl, by decide⟩,
      named_e _ _ _ rfl (by decide +kernel) (by decide +kernel), ?_, roomy_o _ _ _ (by decide)⟩,
    ⟨ready_e _ _ (by decide +kernel), rfl⟩, ⟨ready_e _ _ (by decide +kernel), by decide⟩,
    ⟨ready_e _ _ (by decide +kernel), ready_e _ _ (by decide +kernel), named_e _ _ _ rfl (by decide +kernel) (by decide +kernel), ?_, rfl⟩,
    ⟨ready_e _ _ (by decide +kernel), named_e _ _ _ rfl (by decide +kernel) (by decide +kernel), by decide, by decide, by decide, rfl⟩,
    ready_e _ _ (by decide +kernel), ready_e _ _ (by decide +kernel), by decide, by decide⟩
  · unfold MmaFits; decide +kernel
  · unfold AccFits; decide +kernel

/-- TLOOK of group 0, 2 rows; TFIN of 2 values. -/
def xLook : Nat × Nat × Nat := (3, 2 ^ 9, 2 * 2 ^ 16)
def xFin : Nat × Nat := (2 + 2 ^ 44, 2 * 2 ^ 32)

theorem wit_LookupCommands :
    let tb := tOct [2]
    let lk := tOct [xLook.1, xLook.2.1, xLook.2.2]
    let fin := tOct [xFin.1, xFin.2]
    let q : Shape :=
      { size := 4, long := true, weight := 8, octet := some (octBase 1), words := 1, uses := [dst (.v 3) .w1]
        check := fun _ w => trapIf (octWord w 1 0 / 16 != 0) (w.trap cILLEGAL_OPERAND) }
    let y := eCrew
    let none := { tb with exec := 0 }
    (Ready (eState tb) tb (cmdShape 1 1 false [] fun _ w => bits (octWord w 1 0) 42 22 != 0 || bits (octWord w 1 0) 12 4 != 0) ∧
      Named (eState tb) tb (bits 2 0 12) y (recOf recV) ∧ ((recOf recV).at (bits 2 16 22) 0).offBad = false ∧
      (∀ p ∈ ((recOf recV).at (bits 2 16 22) 0).foot [0] [1024], p.2 ≤ y.bytes) ∧ bits 2 38 4 < y.nTbl ∧
      (recOf recV).sp = true ∧ (recOf recV).rank = 1 ∧ (recOf recV).fmt = 0x0A ∧ Roomy (eState tb) tb 5 1) ∧
    Ready (eState none) none
      (cmdShape 1 1 false [] fun _ w => bits (octWord w 1 0) 42 22 != 0 || bits (octWord w 1 0) 12 4 != 0) ∧
    (Ready (eState lk) lk (cmdShape 1 3 false [] fun _ w => tlookWordsBad (octWord w 1 0) (octWord w 1 1) (octWord w 1 2)) ∧
      Named (eState lk) lk (bits xLook.1 0 12) y (recOf recC) ∧ (recOf recC).rank = 2 ∧ (recOf recC).fmt = 0x1B ∧
      (∀ p ∈ ((recOf recC).at 0 0).foot [0, 0] [(1 * 4 - 1) / 2 + 1 - 0, bits xLook.2.2 16 14], p.2 ≤ y.bytes) ∧
      TableReady (eState lk) lk y 0 ∧ (look y.tables 0 Table.empty).built = true ∧
      tableStale (eState lk) y (look y.tables 0 Table.empty) = false) ∧
    (Ready (eState fin) fin (cmdShape 1 2 false [] fun _ w => tfinWordsBad (octWord w 1 0) (octWord w 1 1)) ∧
      Named (eState fin) fin (bits xFin.1 0 12) y (recOf recV) ∧
      (∀ p ∈ ((recOf recV).at (bits xFin.1 16 22) 0).foot [0] [bits xFin.2 32 14], p.2 ≤ y.bytes) ∧
      bits xFin.1 44 2 < y.nAcc ∧ bits xFin.2 16 15 + bits xFin.2 32 14 ≤ 24576 ∧ TableReady (eState fin) fin y 0) ∧
    (Ready (eState (tOct [0])) (tOct [0]) q ∧ TableReady (eState (tOct [0])) (tOct [0]) y 0) ∧
    Ready (eState (tOct [0x18000])) (tOct [0x18000]) (cmdShape 1 1 false [] fun _ w => spillWordBad (octWord w 1 0)) ∧
    (Ready (eState (tOct [1])) (tOct [1]) (cmdShape 1 1 false [] fun _ w => octWord w 1 0 / 2 ^ 16 != 0) ∧ 1 < 2 ^ y.nTbl) := by
  refine ⟨⟨ready_e _ _ (by decide +kernel), named_e _ _ _ rfl (by decide +kernel) (by decide +kernel), by decide, by decide, by decide,
      by decide, by decide, by decide, roomy_o _ _ _ (by decide)⟩, ready_e _ _ (by decide +kernel),
    ⟨ready_e _ _ (by decide +kernel), named_e _ _ _ rfl (by decide +kernel) (by decide +kernel), by decide, by decide, by decide +kernel, ?_,
      by decide, by decide +kernel⟩,
    ⟨ready_e _ _ (by decide +kernel), named_e _ _ _ rfl (by decide +kernel) (by decide +kernel), by decide +kernel, by decide, by decide, ?_⟩,
    ⟨ready_e _ _ (by decide +kernel), ?_⟩, ready_e _ _ (by decide +kernel), ready_e _ _ (by decide +kernel), by decide⟩
  all_goals unfold TableReady; decide +kernel

def xOp (chain : Bool) : CopyOp :=
  { q := 0, c := 1, c2 := 2, scope := .crew, chain := chain, cw := false, st := false, mman := false }

/-- The blocks of a CPY, a CPYT, a CPYP, a CPYG, a CPYR and a CPYE. -/
def xCopies : List (CopyKind × List Word × List Nat) :=
  [(.cpy, recM, [5, 0, 0, 4 * 2 ^ 32, 0, 0]), (.cpyt, recW, [4 + 4 * 2 ^ 40, 0, 0, 4 * 2 ^ 32, 4, 0]),
    (.cpyp, recW, [4 + 4 * 2 ^ 40, 0, 0, 4 * 2 ^ 32, 4, 0]), (.cpyg, recW, [4 + 4 * 2 ^ 40, 0, 0, 4 * 2 ^ 32, 1024 + 2 * 2 ^ 24, 0]),
    (.cpyr, recR, [6, 0, 0, 2 * 2 ^ 32, 512 + 1024 * 2 ^ 22, 2048 + 2 ^ 24]), (.cpye, recX, [7, 0, 0, 8 * 2 ^ 32, 0, 0]),
    (.pfch, recM, [5, 0, 0, 4 * 2 ^ 32, 0, 0])]

theorem wit_copies : ∀ p ∈ xCopies,
    let w := tOct p.2.2
    readyB (eState w) w (copyShape p.1 (xOp false)) = true ∧
    (cachedRec (eState w) w.core w.ctx (bits (octWord w 1 0) 0 12)).map (·.words) = some p.2.1 ∧
    recMalformed p.2.1 eCrew.bytes = false ∧
    (copyOf p.1 false (octWord w 1) false .crew (recOf p.2.1)).recBad = false ∧
    (copyOf p.1 false (octWord w 1) false .crew (recOf p.2.1)).rangesBad eCrew.bytes = false := by decide +kernel

/-- A CPY with a chained MMA, whose block stands at v16. -/
theorem wit_CopyCommands :
    let w0 := tOct [5, 0, 0, 4 * 2 ^ 32, 0, 0]
    let w := { w0 with main := w0.main ++ [(16, every xMma.1), (17, every xMma.2)] }
    let none := { w with exec := 0 }
    let k := copyShape .cpy (xOp true)
    let x := fun n => ([5, 0, 0, 4 * 2 ^ 32, 0, 0] : List Nat).getD n 0
    (Ready (eState none) none k ∧ none.exec = 0) ∧
    (Ready (eState w) w k ∧ w.exec ≠ 0 ∧ (∀ n < 8, Word_ w 1 n (x n)) ∧ Named (eState w) w (bits (x 0) 0 12) eCrew (recOf recM) ∧
      CopyFits eCrew (copyOf .cpy false x false .crew (recOf recM)) ∧ Roomy (eState w) w 0 8) ∧
    (Word_ w 2 0 xMma.1 ∧ Word_ w 2 1 xMma.2 ∧ Named (eState w) w (bits xMma.1 0 12) eCrew (recOf recE) ∧
      MmaFits eCrew (recOf recE) xMma.1 xMma.2 ∧ (queueAt (eState w) (queueKey w.core 4)).length < 16 ∧
      ((eState w).recs.filter fun e => e.core == w.core).length ≤ 64 ∧ (timelineAt (eState w) (tlKey w.core w.ctx 0)).p = 0) := by
  refine ⟨⟨ready_e _ _ (by decide +kernel), rfl⟩, ⟨ready_e _ _ (by decide +kernel), by decide, ?_, named_e _ _ _ rfl (by decide +kernel) (by decide +kernel),
    ?_, roomy_e _ _ _ ⟨rfl, rfl, rfl, rfl, rfl⟩ (by decide)⟩, ⟨0, rfl, by decide⟩, ⟨0, rfl, by decide⟩,
    named_e _ _ _ rfl (by decide +kernel) (by decide +kernel), ?_, by decide, by decide, rfl⟩
  · intro n hn
    exact ⟨0, rfl, by revert n; decide⟩
  · unfold CopyFits; decide +kernel
  · unfold MmaFits; decide +kernel

/-! ## Witnesses: engine events -/

/-- A command of the crew's warp. -/
def tCmd (seq : Nat) (body : CmdBody) : Cmd :=
  { seq := seq, ctx := 0, crew := 0, warp := 0, body := body, entries := [], accNo := seq, discard := false, fault := none
    waitChain := false, chain := none, fp := none, stream := 4, phase := 0, shadow := false }

/-- The package with one command under way on a queue; 0x400000 is a page of host memory. -/
def cState (eng : Nat) (c : Cmd) : State :=
  modMem (setQueue (eState tMix) (queueKey 0 eng) [c]) fun m => { m with
    tlb := { unit := 0, ctx := 0, va := 0x400000, size := 0x200000, pte := 0x8000000000007 } :: m.tlb }

/-- What a step asks of the head of a queue. -/
def headOk (eng : Nat) (c : Cmd) : Prop :=
  queueAt (cState eng c) (queueKey 0 eng) = [c] ∧ mayStart (cState eng c) 0 c = true ∧ c.discard = false ∧
    crewAt (cState eng c) c.crew = some eCrew ∧ cmdWritesDone (cState eng c) 0 eng c.seq 5 = true

theorem cState_crew (eng : Nat) (c : Cmd) (k : Nat) : crewAt (cState eng c) k = crewAt (eState tMix) k := by
  simp only [cState, modMem, setQueue, crewAt]

/-- The cluster of that package runs. -/
theorem cState_runs (eng : Nat) (c : Cmd) : clusterRuns (cState eng c) (clusterOfCore 0) = true := rfl

theorem headOk_of (eng : Nat) (c : Cmd) (hc : c.crew = 0)
    (h : (decide (queueAt (cState eng c) (queueKey 0 eng) = [c]) && mayStart (cState eng c) 0 c && !c.discard &&
      cmdWritesDone (cState eng c) 0 eng c.seq 5) = true) : headOk eng c := by
  simp only [Bool.and_eq_true, Bool.not_eq_true', decide_eq_true_eq] at h
  exact ⟨h.1.1.1, h.1.1.2, h.1.2, hc ▸ (cState_crew eng c 0).trans (eState_crew tMix), h.2⟩

/-- An access that is done and leaves a state with a property. -/
def doneAnd (g : Got Unit) (p : State → Bool) : Bool :=
  match g with
  | .ok s _ => p s
  | _ => false

theorem wit_EngineRetirement :
    headOk 4 (tCmd 1 (.accz 1)) ∧ headOk 4 (tCmd 1 (.mma false (recOf recE) 0 0 0 0 0x0B 0 192 128 16)) ∧
    headOk 5 (tCmd 1 (.tbuild (recOf recV) 0 0)) ∧ headOk 5 (tCmd 1 (.tlook (recOf recC) 0 0 0 0 1 0 0 2 12286)) ∧
    headOk 5 (tCmd 1 (.tfin (recOf recV) 0 0 1 0 2 24574 12286 true)) ∧ headOk 5 (tCmd 1 (.tinv 1)) ∧
    headOk 5 { tCmd 1 (.tspill 0 0x18000) with phase := 1 } ∧
    (headOk 5 (tCmd 1 (.tfill 0 0x400000)) ∧
      doneAnd (runTfill 0 (tCmd 1 (.tfill 0 0x400000)) 0 0x400000 (cState 5 (tCmd 1 (.tfill 0 0x400000)))) (fun _ => true) =
        true) ∧
    ∀ eng c, clusterRuns (cState eng c) (clusterOfCore 0) = true := by
  refine ⟨?_, ?_, ?_, ?_, ?_, ?_, ?_, ⟨?_, ?_⟩, cState_runs⟩
  all_goals first
    | exact headOk_of _ _ rfl (by decide +kernel)
    | decide +kernel

theorem wit_AccumulatorZero :
    let w := tOct [1]
    let m := cmdShape 1 1 false [] fun _ w => octWord w 1 0 / 4 != 0
    (Word_ w 1 0 1 ∧ w.exec ≠ 0 ∧ Ready (eState w) w m ∧ crewAt (eState w) w.crewK = some eCrew ∧ 1 % 4 < eCrew.nAcc ∧
      Roomy (eState w) w 4 0) ∧
    (Word_ (tOct [4]) 1 0 4 ∧ 4 / 4 ≠ 0 ∧ Ready (eState (tOct [4])) (tOct [4]) { m with check := noCheck }) ∧
    headOk 4 (tCmd 1 (.accz 1)) ∧ clusterRuns (cState 4 (tCmd 1 (.accz 1))) (clusterOfCore 0) = true :=
  ⟨⟨⟨0, rfl, by decide⟩, by decide, ready_e _ _ (by decide +kernel), eState_crew _, by decide, roomy_o _ _ _ (by decide)⟩,
    ⟨⟨0, rfl, by decide⟩, by decide, ready_e _ _ (by decide +kernel)⟩, wit_EngineRetirement.1, cState_runs _ _⟩

theorem wit_TablesInvalidated :
    let m := cmdShape 1 1 false [] fun _ w => octWord w 1 0 / 2 ^ 16 != 0
    (Word_ (tOct [1]) 1 0 1 ∧ Ready (eState (tOct [1])) (tOct [1]) m ∧ crewAt (eState (tOct [1])) 0 = some eCrew ∧
      (∀ t, Nat.testBit 1 t = true → t < eCrew.nTbl) ∧ Roomy (eState (tOct [1])) (tOct [1]) 5 0) ∧
    (Word_ (tOct [2]) 1 0 2 ∧ Ready (eState (tOct [2])) (tOct [2]) m ∧ ∃ t, Nat.testBit 2 t = true ∧ eCrew.nTbl ≤ t) ∧
    (Word_ (tOct [2 ^ 16]) 1 0 (2 ^ 16) ∧ Ready (eState (tOct [2 ^ 16])) (tOct [2 ^ 16]) { m with check := noCheck }) ∧
    headOk 5 (tCmd 1 (.tinv 1)) ∧ clusterRuns (cState 5 (tCmd 1 (.tinv 1))) (clusterOfCore 0) = true := by
  refine ⟨⟨⟨0, rfl, by decide⟩, ready_e _ _ (by decide +kernel), eState_crew _, ?_, roomy_o _ _ _ (by decide)⟩,
    ⟨⟨0, rfl, by decide⟩, ready_e _ _ (by decide +kernel), 1, by decide, by decide⟩,
    ⟨⟨0, rfl, by decide⟩, ready_e _ _ (by decide +kernel)⟩, wit_EngineRetirement.2.2.2.2.2.1, cState_runs _ _⟩
  intro t ht
  cases t with
  | zero => decide
  | succ n => simp [Nat.testBit_succ] at ht

/-- A load of four elements, from memory that can be read and from memory that is not mapped, and a chained command. -/
def tLoadCmd (va : Nat) : CopyCmd :=
  copyOf .cpy false (fun n => ([5, 0, 0, 4 * 2 ^ 32, 0, 0] : List Nat).getD n 0) false .crew { recOf recM with base := va }

theorem wit_CopyEngineEvents :
    let ok := tCmd 1 (.copy (tLoadCmd 0x18000))
    let bad := tCmd 1 (.copy (tLoadCmd 0x800000))
    let late := { tCmd 1 (.copy (tLoadCmd 0x18000)) with phase := 2 }
    let ch := { tCmd 1 (.accz 0) with waitChain := true, stream := 0 }
    (headOk 0 ok ∧ doneAnd (runCopy 0 0 ok (tLoadCmd 0x18000) (cState 0 ok))
      (fun u => decide (queueAt u (queueKey 0 0) = [ok]) && cmdWritesDone u 0 0 1 5 &&
        clusterRuns u (clusterOfCore 0)) = true) ∧
    ((∀ eng c, clusterRuns (cState eng c) (clusterOfCore 0) = true) ∧
      clusterRuns (modCluster (cState 0 ok) 0 fun c => { c with step := 0 }) (clusterOfCore 0) = false) ∧
    (headOk 0 late ∧ late.fault = none) ∧
    (firstOf (fun c => c.waitChain && c.stream == 0) (queueAt (cState 4 ch) (queueKey 0 4)) = some ch ∧
      ∀ c ∈ queueAt (cState 4 ch) (queueKey 0 0), c.ctx = ch.ctx → c.chain = some ch.seq → c.phase ≠ 0) ∧
    (headOk 0 bad ∧ (match runCopy 0 0 bad (tLoadCmd 0x800000) (cState 0 bad) with
      | .fault va cause => decide (va = 0x800000 ∧ cause = cPAGE)
      | _ => false) = true) := by
  refine ⟨⟨?_, by decide +kernel⟩, ⟨cState_runs, by decide +kernel⟩, ⟨?_, rfl⟩, ⟨rfl, fun _ h => nomatch h⟩, ?_, by decide +kernel⟩
  all_goals exact headOk_of _ _ rfl (by decide +kernel)

/-! ## Witnesses: returns, ends, resolve actions -/

/-- An outstanding instruction of a warp, and that warp. -/
def tSlot (d : SlotDst) (b : SlotBody) : Slot :=
  { id := 0, run := tMix.runNo, idx := 0, pos := 0, ord := .relaxed, scope := .crew, dst := d, mask := tMix.exec, body := b
    ret := false }
def tOut (sl : Slot) : Warp := { tMix with slots := [sl], nextSlot := 1 }

theorem tOut_key (sl : Slot) : (tOut sl).key = 0 := by
  show tMix.key = 0
  decide

theorem outstanding_t (s : State) (sl : Slot) (hw : warpAt s 0 = some (tOut sl)) (hr : sl.ret = false) :
    Outstanding s 0 (tOut sl) sl := by
  refine ⟨hw, tOut_key _, List.mem_singleton.2 rfl, hr, ?_, ?_, ?_⟩
  · intro x hx _; exact List.mem_singleton.1 hx
  · intro x hx; rw [List.mem_singleton.1 hx]; exact hr
  · intro n _ x hx hl; rw [List.mem_singleton.1 hx] at hl; exact absurd hl (Nat.lt_irrefl _)

/-- A lane access, to be performed or done. -/
def tAcc (op : AccOp) (loc : Loc) (done pois : Bool) : LaneAcc :=
  { lane := 31, addr := 0x18000, loc := loc, size := 8, op := op, data := 5, data2 := 0, ser := 0, done := done, val := 9
    pois := pois }

/-- What a package with one outstanding instruction asks. -/
def outOk (d : SlotDst) (b : SlotBody) : Prop :=
  Outstanding (mState (tOut (tSlot d b))) 0 (tOut (tSlot d b)) (tSlot d b)

theorem outOk_t (d : SlotDst) (b : SlotBody) : outOk d b := outstanding_t _ _ rfl rfl

theorem wit_ResultReturn :
    let r := SlotDst.regs (List.replicate 32 3) 1
    let load := tAcc .load (.dev 0x18000 0 false)
    let store := tAcc .store (.dev 0x18000 0 false) true false
    outOk r (.value (List.replicate 32 1) 0) ∧ outOk (.ofile 5) (.value (List.replicate 32 1) 0) ∧
    (outOk r (.access [load true false] true) ∧ accessReturns (mState (tOut (tSlot r (.access [load true false] true))))
      (tOut (tSlot r (.access [load true false] true))) (tSlot r (.access [load true false] true)) = true ∧
      (tSlot r (.access [load true false] true)).stores = false) ∧
    (outOk r (.access [load true true] false) ∧ (tSlot r (.access [load true true] false)).loads = true ∧
      (load true true).lane < 32 ∧ (load true true).pois = true) ∧
    (outOk .none (.access [store] false) ∧ (tSlot .none (.access [store] false)).stores = true) ∧
    (outOk .none (.fence .sc) ∧ fenceDone (mState (tOut (tSlot .none (.fence .acq)))) (tOut (tSlot .none (.fence .acq))) 0
      .acq .crew = true) ∧ outOk r (.recv (List.replicate 32 2)) ∧ outOk r (.status 0 none [] true) ∧
    (outOk .none (.arrive 3) ∧
      mayArrive (mState (tOut (tSlot .none (.arrive 3)))) (tOut (tSlot .none (.arrive 3))) 0 .crew = true) ∧
    (outOk .none (.send tMsg) ∧ heldBack (tOut (tSlot .none (.send tMsg))) 0 false = false) := by
  refine ⟨outOk_t _ _, outOk_t _ _, ⟨outOk_t _ _, ?_, by decide⟩, ⟨outOk_t _ _, ?_, ?_, ?_⟩, ⟨outOk_t _ _, ?_⟩,
    ⟨outOk_t _ _, ?_⟩, outOk_t _ _, outOk_t _ _, ⟨outOk_t _ _, ?_⟩, outOk_t _ _, ?_⟩
  all_goals decide +kernel

/-- A context with a fault record of each kind that waits or has been written, and a stalled host ring of die 0. -/
def tRec (kind eng : Nat) : FaultRec :=
  { kind := kind, crew := 0, vcore := 0, warp := 0, eng := eng, cause := 7, addr := 0x18000, seq := 1, info := 0 }
def tRing : CeRing :=
  { base := 0, logn := 6, tail := 0, head := 0, stat := 2, tl := Timeline.init
    fault := some { addr := 0x18000, cause := 7, recorded := true }, cmd := some [], phase := 0 }
def rState (w : Warp) : State :=
  modCtx (mState w) 0 fun c => { c with
    frBase := 0x18000, waiting := [tRec 1 0], pendRecs := [tRec 1 0, tRec 2 4, tRec 2 6], rings := [(0, tRing)] }

theorem wit_EndsAndRecords :
    let w := { tMix with st := .ended }
    let two := setWarp (tState w) 1 { tMix with idx := 1, slot := 1 }
    let full := modCtx (rState tMix) 0 fun c => { c with tail := 255, head := 0 }
    (warpAt (tState w) 0 = some w ∧ w.key = 0 ∧ w.slots = [] ∧ w.held = [] ∧ stagedBefore (tState w) 0 w.nextSlot 5 = false ∧
      w.sampleOpen = false ∧ keysRise (tState w).warps = true ∧ (∀ e ∈ (tState w).warps, e.2.key = e.1) ∧
      (∀ x ∈ quarterWarps (tState w) w.core w.quarter, ∀ n, x.st ≠ .blocked (.regrs n)) ∧
      (∀ e ∈ (tState w).warps, e.1 ≠ 0 → e.2.crewK ≠ w.crewK) ∧ (ctxAt (tState w) 0).livec ≤ 1) ∧
    (∃ e ∈ two.warps, e.1 ≠ 0 ∧ e.2.crewK = w.crewK) ∧
    ((ctxAt full 0).recHeld = false ∧ (ctxAt full 0).waiting ≠ [] ∧ ((ctxAt full 0).tail + 1) % 256 = (ctxAt full 0).head) ∧
    ((ctxAt (rState tMix) 0).recHeld = false ∧ (ctxAt (rState tMix) 0).waiting = tRec 1 0 :: [] ∧ ((ctxAt (rState tMix) 0).tail + 1) % 256 ≠ (ctxAt (rState tMix) 0).head ∧
      sysTranslate (rState tMix) 0 ((ctxAt (rState tMix) 0).frBase + 64 * (ctxAt (rState tMix) 0).tail) 64 .write true =
        .ok 0x18000 7) ∧ mayPage (rState tMix) .fw 0 = true := by
  refine ⟨⟨rfl, rfl, rfl, rfl, by decide, rfl, by decide, by decide, ?_, by decide, by decide⟩, by decide, ⟨by decide +kernel, by decide +kernel, by decide +kernel⟩,
    ⟨by decide +kernel, by decide +kernel, by decide +kernel, by decide +kernel⟩, by decide +kernel⟩
  intro x hx n
  rw [List.mem_singleton.1 hx]
  exact nofun

theorem mayResolve_r (w : Warp) (p : FaultRec → Bool)
    (h : (mayPage (rState w) .fw 0 && (ctxAt (rState w) 0).pendRecs.any p) = true) : MayResolve (rState w) .fw 0 p := by
  simp only [Bool.and_eq_true, List.any_eq_true] at h
  exact h

theorem wit_ResolveActions :
    let w := { tMix with st := .stopped }
    let wl := { w with run := { w.run with pos := 25 } }
    let val4 : Word := 4 * 2 ^ 32
    let val6 : Word := 6 * 2 ^ 32
    let bad := { tCmd 1 (.copy (tLoadCmd 0x800000)) with fault := some { addr := 0x800000, cause := 7, recorded := true } }
    let s4 := setQueue (rState w) (queueKey 0 4) [bad]
    (MayResolve (rState w) .fw 0 (fun r => r.kind == 1 && r.crew == rsCrew 0 && r.vcore == rsVcore 0 && r.warp == rsWarp 0) ∧
      warpAt (rState w) (warpKey (crewKey 0 (rsCrew 0)) (rsWarp 0)) = some w ∧ w.st = .stopped ∧
      (readFrame (takeRecord (noteResolve (rState w) 0 0 1) 0 (stopRecord 0)) w).run.pos ≤ 24 ∧
      (readFrame (takeRecord (noteResolve (modCtx (rState wl) 0 fun c => { c with caBase := 2 ^ 40 }) 0 0 1) 0 (stopRecord 0)) wl).run.pos = 25 ∧
      keysRise (rState w).warps = true ∧ ∀ e ∈ (rState w).warps, e.2.key = e.1) ∧
    (MayResolve (rState w) .fw 0 (fun r => r.kind == 2 && r.vcore == rsVcore val4 && r.eng == rsEng val4) ∧ rsEng val4 < 6 ∧
      vcoreCore s4 0 (rsVcore val4) = some 0 ∧ queueAt s4 (queueKey 0 (rsEng val4)) = bad :: [] ∧ bad.ctx = 0 ∧ bad.fault.isSome = true) ∧
    (MayResolve (rState w) .fw 0 (fun r => r.kind == 2 && r.vcore == rsVcore val6 && r.eng == rsEng val6) ∧ rsEng val6 = 6 ∧
      look? (ctxAt (rState w) 0).rings (rsVcore val6) = some tRing ∧ tRing.fault.isSome = true) := by
  refine ⟨⟨mayResolve_r _ _ (by decide +kernel), by decide +kernel, rfl, by decide +kernel, by decide +kernel,
      by decide +kernel, by decide +kernel⟩,
    ⟨mayResolve_r _ _ (by decide +kernel), by decide, by decide +kernel, by decide +kernel, rfl, rfl⟩,
    mayResolve_r _ _ (by decide +kernel), by decide, by decide +kernel, by decide⟩

/-! ## Witnesses: accesses performed -/

/-- The package with one lane access outstanding, and links to another package over port 0. -/
def aState (d : SlotDst) (a : LaneAcc) : State :=
  modLinks (mState (tOut (tSlot d (.access [a] false)))) fun l => { l with
    fabId := 0x80, routes := [(1, 0x80)], ports := [(0, { portAt State.reset 0 with up := true })] }

theorem due_a (d : SlotDst) (a : LaneAcc)
    (h : laneRequest (aState d a) 0 (tSlot d (.access [a] false)).id a.lane =
      some (tOut (tSlot d (.access [a] false)), tSlot d (.access [a] false), a)) :
    Due (aState d a) 0 (tOut (tSlot d (.access [a] false))) (tSlot d (.access [a] false)) a :=
  ⟨h, tOut_key _, Eq.refl false⟩

/-- A remote package's address 0x18000 of package 1. -/
def tFab : Nat := 0x4000000000000 + 2 ^ 43 + 0x18000

theorem wit_ScratchpadAndRemoteAccesses :
    let r := SlotDst.regs (List.replicate 32 3) 1
    let far := tAcc (.atomG true .add) (.scratch 1 64 true) false false
    let fab := tAcc (.atomG true .maxn) (.fabric tFab) false false
    let own := tAcc .load (.scratch 0 64 false) false false
    let sto := tAcc .store (.scratch 0 64 false) false false
    (Due (aState r far) 0 (tOut (tSlot r (.access [far] false))) (tSlot r (.access [far] false)) far ∧
      remoteInOrder (tOut (tSlot r (.access [far] false))) (tSlot r (.access [far] false)) 31 = true ∧
      sbStalls (aState r far) 1 64 (64 + 8) true = false) ∧
    (Due (aState r fab) 0 (tOut (tSlot r (.access [fab] false))) (tSlot r (.access [fab] false)) fab ∧
      portOf (aState r fab) (fabricPkg tFab) = some 0 ∧ fabricAccs (aState r fab) = [(0, 0, fab, fabricPkg tFab)] ∧
      privateVa (aState r fab) 0 fab.addr = false) ∧
    (Outstanding (aState r own) 0 (tOut (tSlot r (.access [own] false))) (tSlot r (.access [own] false)) ∧
      Due (aState r own) 0 (tOut (tSlot r (.access [own] false))) (tSlot r (.access [own] false)) own ∧
      scrAnyPoison (aState r own) 0 64 8 = false) ∧
    Due (aState .none sto) 0 (tOut (tSlot .none (.access [sto] false))) (tSlot .none (.access [sto] false)) sto :=
  ⟨⟨due_a _ _ (by decide +kernel), by decide, by decide +kernel⟩,
    ⟨due_a _ _ (by decide +kernel), by decide +kernel, by decide +kernel, by decide +kernel⟩,
    ⟨outstanding_t _ _ rfl rfl, due_a _ _ (by decide +kernel), by decide +kernel⟩, due_a _ _ (by decide +kernel)⟩

/-- A staged write of eight bytes at 0x18000, and a line there with the replica of die 1. -/
def tStaged (accepted collapsing : Bool) : Staged :=
  { num := 1, stamp := [(0, 1)], prev := 0, pa := 0x18000, size := 8, data := 7, pois := false, mt := 0
    warp := 0, slot := 0, accepted := accepted, collapsing := collapsing }
def sState (s : State) (x : List Staged) (vec : BitVec 8) (cs : List Collapse) : State :=
  modMem s fun m => { m with
    stages := [(0, x)], lines := [(0x300, { data := 0, pois := 0, dirty := true, vec := vec })], collapses := cs }

theorem wit_HomeSliceAccesses :
    let r := SlotDst.regs (List.replicate 32 3) 1
    let load := tAcc .load (.dev 0x18000 0 false) false false
    let sto := tAcc .store (.dev 0x18000 0 false) false false
    let atm := tAcc (.atomX .cas64) (.dev 0x18000 0 false) false false
    let lit := sState (aState r load) [tStaged false false] 0 []
    let col := sState (aState r load) [tStaged true true] 0 []
    (Due (aState .none sto) 0 (tOut (tSlot .none (.access [sto] false))) (tSlot .none (.access [sto] false)) sto) ∧
    (laneRequest lit 0 0 31 = some (tOut (tSlot r (.access [load] false)), tSlot r (.access [load] false), load) ∧
      privateVa lit 0 0x18000 = false ∧ newestTouching lit 0 0x18000 8 = some (tStaged false false) ∧
      (tStaged false false).atom = none) ∧
    (∃ e ∈ allStaged col, e.2.collapsing = true ∧ e.2.pa / 128 = 0x18000 / 128) ∧
    (Due (aState r load) 0 (tOut (tSlot r (.access [load] false))) (tSlot r (.access [load] false)) load ∧
      newestTouching (aState r load) 0 0x18000 8 = none ∧ collapsingOn (aState r load) 0x300 = false ∧
      allStaged (aState r load) = []) ∧
    (Due (aState r atm) 0 (tOut (tSlot r (.access [atm] false))) (tSlot r (.access [atm] false)) atm ∧
      (tOut (tSlot r (.access [atm] false))).sample = none) ∧
    (stagedAt lit 0 1 = some (tStaged false false) ∧ collapsingOn lit 0x300 = false ∧
      ∀ e ∈ allStaged lit, e.2.pa / 128 = 0x300 → e.2.collapsing = false) := by
  refine ⟨due_a _ _ (by decide +kernel), ⟨?_, ?_, ?_, rfl⟩, ?_, ⟨due_a _ _ (by decide +kernel), ?_, ?_, ?_⟩,
    ⟨due_a _ _ (by decide +kernel), rfl⟩, ?_, ?_, ?_⟩
  all_goals decide +kernel

/-- A staged atomic of lane 31 of slot 0 of the current warp. -/
def tStagedAtom (a : LaneAcc) : Staged := { tStaged true false with atom := some (a, false), data := 0 }

theorem wit_CollapseAndApply :
    let c1 := sState (mState tMix) [tStaged false true] 2 [{ line := 0x300, wait := 2 }]
    let c0 := sState (mState tMix) [tStaged false true] 2 [{ line := 0x300, wait := 0 }]
    let ap := sState (mState tMix) [tStaged true false] 0 []
    let r := SlotDst.regs (List.replicate 32 3) 1
    let atm := { tAcc (.atomG true .add) (.dev 0x18000 0 false) false false with entered := true }
    let at_ := sState (aState r atm) [tStagedAtom atm] 0 []
    (∃ c ∈ c1.mem.collapses, c.line = 0x300 ∧ c.wait.getLsbD 1 = true) ∧
    ((∃ c ∈ c0.mem.collapses, c.line = 0x300 ∧ c.wait = 0) ∧
      ∃ e ∈ allStaged c0, e.2.pa / 128 = 0x300 ∧ e.2.collapsing = true) ∧
    (stagedAt ap 0 1 = some (tStaged true false) ∧ passes ap 0x18000 ((tStaged true false).mt != 0) = false ∧
      ∀ e ∈ allStaged ap, homeSlice ap e.2.pa = homeSlice ap 0x18000 →
        if e.1 = 0 then 1 ≤ e.2.num else vcAt (tStaged true false).stamp e.1 < e.2.num) ∧
    (stagedAt at_ 0 1 = some (tStagedAtom atm) ∧ atm.size = (tStagedAtom atm).size ∧ privateVa at_ 0 atm.addr = false ∧
      passes at_ 0x18000 ((tStagedAtom atm).mt != 0) = false ∧
      warpAt at_ 0 = some (tOut (tSlot r (.access [atm] false))) ∧
      (homeRead at_ 0x18000 8).2 = false) :=
  ⟨⟨_, .head _, rfl, rfl⟩, ⟨⟨_, .head _, rfl, rfl⟩, _, .head _, by decide, rfl⟩,
    ⟨by decide +kernel, by decide +kernel, by decide +kernel⟩,
    by decide +kernel, by decide, by decide +kernel, by decide +kernel, by decide +kernel, by decide +kernel⟩

/-! ## Witnesses: translations, channels, lines, the host -/

/-- The context of `mState` with the shoot-down register as given. -/
def shState (lsz : Nat) (all busy : Bool) : State :=
  modCtx (mState tMix) 0 fun c => { c with shootVa := 0x10000, shootLsz := lsz, shootAll := all, shootBusy := busy }

theorem wit_Translations :
    let s := modMem (mState tMix) fun m => { m with tlb := [] }
    let d := modMem s fun m => { m with dieTlb := [{ unit := 0, ctx := 0, va := 0, size := 0x200000, pte := 7 }] }
    (s.mem.tlb.isEmpty = true ∧ s.mem.dieTlb.isEmpty = true ∧ (walk s 0 0x18000).isLeft = true) ∧
    (d.mem.tlb.isEmpty = true ∧ firstOf (·.covers (dieOfCore 0) 0 0x18000) d.mem.dieTlb =
      some { unit := 0, ctx := 0, va := 0, size := 0x200000, pte := 7 }) ∧
    (mayPage s .fw 0 = true ∧ (ctxAt s 0).shootBusy = false) ∧
    (∀ l ∈ [16, 21, 15, 56], ∀ all, (ctxAt (shState l all true) 0).shootBusy = true ∧
      rangePerformed (shState l all true) 0 0 (2 ^ 56) = true ∧ rangePerformed (shState l all true) 0 0x10000 0x10000 = true) := by
  refine ⟨⟨?_, ?_, ?_⟩, ⟨?_, ?_⟩, ⟨?_, ?_⟩, ?_⟩
  all_goals decide +kernel

/-- Set 0 with reserve ranks; the granules of channel 5 move, one is under way, and one is the last. -/
def vSet (f : ISet → ISet) : State :=
  modMem (mState tMix) fun m => { m with sets := put m.sets 0 (f { ISet.reset 0 with n := 32, rsv := true }) }
def vMoving (pos : Nat) (busy : Bool) (x : ISet) : ISet :=
  { x with stat := 1, evch := 5, moving := [(5, (5, 0))], remap := [(5, (6, 8))], evpos := pos, busy := busy }

theorem wit_SetEvacuation :
    (evacRefused 0 (setAtIdx (vSet id) 0) 31 = false ∧ ∃ e < setT 0, (remapEntry (setAtIdx (vSet id) 0) e).1 = 31) ∧
    (evacRefused 0 (setAtIdx (vSet (vMoving 0 false)) 0) 5 = true ∧ evacRefused 0 (setAtIdx (vSet id) 0) 32 = true) ∧
    Agent.host ≠ .fw ∧
    ((setAtIdx (vSet id) 0).stat ≠ 1 ∧ (setAtIdx (vSet id) 0).moving = [] ∧ chanLive (setAtIdx (vSet id) 0) 31 = true) ∧
    ((setAtIdx (vSet (vMoving 458751 false)) 0).moving ≠ [] ∧ (setAtIdx (vSet (vMoving 458751 false)) 0).busy = false ∧
      (setAtIdx (vSet (vMoving 458751 false)) 0).evpos + 1 =
        evacTotal (vSet (vMoving 458751 false)) 0 (setAtIdx (vSet (vMoving 458751 false)) 0)) ∧
    ((setAtIdx (vSet (vMoving 0 true)) 0).busy = true ∧ (setAtIdx (vSet (vMoving 0 true)) 0).stalled = [] ∧
      granuleAt (setAtIdx (vSet (vMoving 0 true)) 0) 0 = (0, 5)) := by
  refine ⟨⟨?_, ?_⟩, ⟨?_, ?_⟩, ?_, ⟨?_, ?_, ?_⟩, ⟨?_, ?_, ?_⟩, ?_, ?_, ?_⟩
  all_goals decide +kernel

/-- A dirty line without replicas at 0x18000, and one held nowhere. -/
theorem wit_LinesAndSlices :
    let s := sState (mState tMix) [] 0 []
    let x : Line := { data := 0, pois := 0, dirty := true, vec := 0 }
    let mv := modMem (mState tMix) fun m => { m with slices := { m.slices with moving := [(511, 7)], stat := 1 } }
    (lineAt s 0x301 = none ∧ (paKind (0x301 * 128)).homed = true ∧ present s (0x301 * 128) = true ∧
      sliceFull s 0x301 = false) ∧
    (lineAt s 0x300 = some x ∧ x.dirty = true ∧ LineSettled s 0x300 ∧ mayRelease s 0x300 x = true) ∧
    look s.mem.chanPois (399 * 2 ^ 33 + 5) false = false ∧ sliceRefused s.mem.slices 63 = false ∧
    (mv.mem.slices.moving = (511, 7) :: [] ∧ entryQuiet mv 511 = true) := by
  refine ⟨⟨?_, ?_, ?_, ?_⟩, ⟨?_, ?_, ⟨?_, 0, 0, ((chanOf (sState (mState tMix) [] 0 []) (0x300 * 128)).map (·.2.2)).getD 0, ?_, ?_⟩, ?_⟩,
    ?_, ?_, ?_, ?_⟩
  all_goals decide +kernel

theorem wit_HostAccesses :
    let s := mState tMix
    let det := fun (e : BitVec 32) => modCtx s 0 fun c => { c with det := true, wbase := 0, detHeld := [(0, e)] }
    (Nat.testBit 0x10 4 = true ∧ Nat.testBit 0x80 7 = true) ∧
    (modGlob State.reset fun g => { g with spdmReady := true }).glob.spdmReady = true ∧
    (bar2Reaches s 0x18000 8 = true ∧ homeQuiet s 0x18000 8 = true ∧ bar2Reaches s (2 ^ 30 - 8) 8 = true ∧
      passes s 0x18000 false = false) ∧
    bar2Reaches s (2 ^ 30) 8 = false ∧
    ((ctxAt s 0).det = false ∧ sysTranslate s 0 0x18018 1 .write true = .ok 0x18018 7 ∧ homeQuiet s 0x18018 8 = true ∧
      portFree s 0x18018 = true ∧ lineMoving s (0x18018 / 128) = false ∧ passes s 0x18018 (pteMt 7 != 0) = false) ∧
    ((ctxAt (det 0x1001) 0).det = true ∧ sysTranslate (det 0x1001) 0 0x18018 1 .write true = .ok 0x18018 7 ∧
      homeQuiet (det 0x1001) 0x18018 8 = true ∧
      look? (ctxAt (det 0x1001) 0).detHeld ((0x18018 / 32 * 32 - (ctxAt (det 0x1001) 0).wbase) / 2 ^ 21) = some 0x1001 ∧
      bits (0x1001 : BitVec 32).toNat 0 12 ≠ 0) ∧
    sysTranslate s 0 0x18018 1 .read true = .ok 0x18018 7 := by
  refine ⟨⟨?_, ?_⟩, ?_, ⟨?_, ?_, ?_, ?_⟩, ?_, ⟨?_, ?_, ?_, ?_, ?_, ?_⟩, ⟨?_, ?_, ?_, ?_, ?_⟩, ?_⟩
  all_goals decide +kernel

/-! ## Witnesses: links, routes, launches -/

def tPacket (ds : List Nat) (h : Option Nat) : Packet :=
  { id := 5, router := 0, ring := 1, up := true, resp := false, flits := 9, dests := ds, holding := h }

/-- Three packets in the input that output 0 of router 0 leads to, and four in its holding buffer. -/
def tCrowd : List Packet :=
  ((List.range 3).map fun i => { tPacket [1] none with id := 10 + i, router := 1, ring := 0 }) ++
    (List.range 4).map fun i => { tPacket [1] (some 0) with id := 20 + i }

theorem wit_TorusAndOpticalPorts :
    let up := modLinks State.reset fun l => { l with
      ports := [(0, { portAt State.reset 0 with up := true }), (5, { portAt State.reset 5 with partner := true })] }
    let wave := fun (st : BitVec 2) (f : Nat) => modLinks up fun l => { l with
      waves := [((5 * 2 + 1) * 64 + 63, { waveAt State.reset 5 1 63 with state := st, fails := f })] }
    (1 ≤ 9 ∧ ∀ d ∈ [63], d < 64) ∧
    ((∀ d ∈ (tPacket [3] none).dests, outputOf 0 d = 0) ∧ heldAt [tPacket [3] none] 0 0 false = [] ∧
      inputUsed [tPacket [3] none] (nextRouter 0 0) 0 true false + 2 ≤ 4 ∧ ∀ d ∈ (tPacket [0] none).dests, outputOf 0 d = 4) ∧
    (2 ≤ (branches (tPacket [1, 8] none)).length ∧
      (∃ b ∈ branches (tPacket [1, 8] none), branchGoes (tPacket [1, 8] none :: tCrowd) (tPacket [1, 8] none) b.1 = false ∧
        branchHolds (tPacket [1, 8] none :: tCrowd) (tPacket [1, 8] none) b.1 = false) ∧
      ∀ b ∈ branches (tPacket [1, 8] none), branchGoes [tPacket [1, 8] none] (tPacket [1, 8] none) b.1 = true ∨
        branchHolds [tPacket [1, 8] none] (tPacket [1, 8] none) b.1 = true) ∧
    releasable [tPacket [1] (some 0)] 0 0 = some (tPacket [1] (some 0)) ∧
    ((portAt up 0).up = true ∧ (portAt up 0).partner = false ∧ (portAt up 5).partner = true) ∧
    ((waveAt (wave 0 0) 5 1 63).state = 0 ∧ (waveAt (wave 1 2) 5 1 63).state = 1 ∧ (waveAt (wave 2 0) 5 1 63).state = 2 ∧
      (0 : Word).getLsbD 2 = false ∧ (4 : Word).getLsbD 2 = true) := by
  refine ⟨⟨?_, ?_⟩, ⟨?_, ?_, ?_, ?_⟩, ⟨?_, ?_, ?_⟩, ?_, ⟨?_, ?_, ?_⟩, ?_, ?_, ?_, ?_, ?_⟩
  all_goals decide +kernel

/-- A crew of a span on die 0. -/
def spanState : State := setCrew (tState tMix) 0 { newCrew 0 0 0 0 0 fetchLaunch with span := [0, 1] }

theorem wit_RoutesAndDieMap :
    let r := SlotDst.regs (List.replicate 32 3) 1
    let s := aState r (tAcc (.atomG true .maxn) (.fabric tFab) false false)
    let pend := modGlob State.reset fun g => { g with dmStat := 3, dmPend := some (false, 1) }
    State.reset.glob.bootSt = 0 ∧
    (mayPriv s .fw = true ∧ portOf s 1 = some 0 ∧ routeBusy s 1 = true) ∧ mayPriv s .host = false ∧
    (pend.glob.dmStat = 3 ∧ State.reset.glob.dmStat ≠ 3 ∧ State.reset.glob.refl = false ∧ State.reset.glob.rot = 0 ∧
      spanBlocks spanState false 1 = true ∧ spanBlocks (tState tMix) false 1 = false) ∧
    (pend.glob.dmPend = some (false, 1) ∧ ∀ w ∈ allWarps pend, w.st.resident = true → dieMoves pend false 1 (dieOfCore w.core) = false) := by
  refine ⟨?_, ⟨?_, ?_, ?_⟩, ?_, ⟨?_, ?_, ?_, ?_, ?_, ?_⟩, ?_, ?_⟩
  all_goals decide +kernel

/-- A launch record at 0x18400: entry 0x10000, one crew of one warp, a page of scratchpad; zeros at 0x18800. -/
def lState (raddr : Nat) (clusters : BitVec 24) : State :=
  let s := modCtx (tMem State.reset) 0 fun c => { c with
    ptRoot := 0x100000, state := 1, raddr := raddr, clusters := clusters, prv := true }
  let s := modGlob s fun g => { g with ready := BitVec.allOnes 64 }
  [(0x18402, 0x01), (0x18409, 0x30), (0x18413, 0x02), (0x18414, 0x90), (0x18422, 0x20), (0x18428, 0x01), (0x18429, 0x01),
    (0x1842A, 0x01), (0x18430, 0x02), (0x18431, 0x01), (0x18432, 0x01)].foldl
    (fun s (e : Nat × Byte) => memWriteByte s e.1 e.2) s

def lPlaced (s : State) (ws : List Nat) : Bool :=
  (placeAll 0 (launchOf ws) (List.range (crewCount (launchOf ws)))
    { st := clearContext s 0, n := [], fixed := [], other := [] }).isSome

theorem wit_Launches :
    let ok := lState 0x18400 1
    let full := lState 0x18400 0
    (mayPage ok .fw 0 = true ∧ (ctxAt State.reset 0).state = 0 ∧ (ctxAt ok 0).state = 1 ∧ (ctxAt ok 0).state ≠ 0) ∧
    (∀ q ∈ ok.queues, ∀ c ∈ q.2, c.ctx ≠ 0) ∧ recordWords (lState 0x40000000 1) 0 = none ∧
    ((recordWords (lState 0x18800 1) 0).map recordBad = some true) ∧
    ((recordWords full 0).map fun ws => (recordBad ws, lPlaced full ws)) = some (false, false) ∧
    ((recordWords ok 0).map fun ws => (recordBad ws, lPlaced ok ws)) = some (false, true) ∧
    ({ ok with stream := [.launch 0 fetchLaunch 1] } : State).stream[look ok.versions 7 0]? = some (.launch 0 fetchLaunch 1) := by
  refine ⟨⟨?_, ?_, ?_, ?_⟩, ?_, ?_, ?_, ?_, ?_, ?_⟩
  all_goals decide +kernel

/-! ## Witnesses: calving, steering, power -/

/-- A running package with a calving request as given. -/
def kState (w : Warp) (f : Ctx → Ctx) : State := modGlob (modCtx (tState w) 0 f) fun g => { g with ready := BitVec.allOnes 64 }

/-- Its crew saved, with a return command given. -/
def savedState : State :=
  setCrew (kState { tMix with st := .saved false } fun c => { c with returning := [[0]], clusters := 1 }) 0
    { newCrew 0 0 0 0 0 { fetchLaunch with spages := 0 } with st := .saved }

theorem wit_CalvingRequests :
    let s := kState tMix id
    let grace := kState { tMix with calveWait := true } fun c => { c with grace := 0 }
    let full := modCtx savedState 0 fun c => { c with clusters := 0 }
    let vac := kState { tMix with st := .ready } fun c => { c with vacating := [0], cstat := 1 }
    (mayPriv s .fw = true ∧ (ctxAt s 0).cstat ≠ 1 ∧ 255 % 256 ≠ 0 ∧ (ctxAt s 0).state = 2 ∧ keysRise s.warps = true ∧
      (∀ e ∈ s.warps, e.2.key = e.1) ∧ 0 ∈ closeSpans s 0 192 ((runningCores s 0).take 1)) ∧
    ((ctxAt vac 0).cstat = 1 ∧ 256 % 256 = 0 ∧ (ctxAt State.reset 0).state ≠ 2) ∧
    ((warpAt grace 0).map (fun w => (w.calveWait, w.st)) = some (true, .running) ∧
      (ctxAt grace 0).calveAt + 1000 * min (ctxAt grace 0).grace 1000 ≤ grace.time) ∧
    ((ctxAt vac 0).vacating ≠ [] ∧ saveReady vac 0 = true ∧ keysRise vac.warps = true ∧ (∀ e ∈ vac.warps, e.2.key = e.1) ∧
      keysRise vac.crews = true ∧ (∀ e ∈ vac.crews, crewKey e.2.ctx e.2.id = e.1) ∧ (vacatedCrews vac 0).length = 1) ∧
    ((ctxAt savedState 0).returning[0]? = some [0] ∧
      (seatGroup savedState 0 (savedOf savedState 0 [0])).isSome = true ∧ (savedOf savedState 0 [0]) ≠ []) ∧
    ((ctxAt full 0).returning[0]? = some [0] ∧ savedOf full 0 [0] ≠ [] ∧
      (seatGroup full 0 (savedOf full 0 [0])).isNone = true) := by
  refine ⟨⟨?_, ?_, ?_, ?_, ?_, ?_, ?_⟩, ⟨?_, ?_, ?_⟩, ⟨?_, ?_⟩, ⟨?_, ?_, ?_, ?_, ?_, ?_, ?_⟩, ⟨?_, ?_, ?_⟩, ?_, ?_, ?_⟩
  all_goals decide +kernel

/-- Core 191 with fields changed. -/
def gState (f : Core → Core) : State := modCore (tState tMix) 191 f

theorem wit_Steering :
    let s := gState id
    let re := gState fun c => { c with quarters := modAt c.quarters 3 fun q => { q with pendLive := some 0x0FFFFFFF, stat := 1 } }
    let off := gState fun c => { c with quarters := c.quarters.map fun q => { q with pendLive := some 0, live := 0 } }
    let two := gState fun c => { c with pendCols := 0xFFFFFFFFFFFFFFFFFFFFFFFFF }
    ((coreAt s 191).inService = true ∧ unitLive (coreAt s 191) (.column 195) = true ∧
      (coreAt s 191).failing.contains (.column 195) = false) ∧
    ((quarterAt (coreAt s 191) 3).pendLive = none ∧ BitVec.ofNat 32 0x0FFFFFFF ≠ (quarterAt (coreAt s 191) 3).live ∧
      3 < (coreAt s 191).quarters.length ∧ BitVec.ofNat 32 0xFFFFFFFF = (quarterAt (coreAt s 191) 3).live ∧
      (quarterAt (coreAt s 191) 3).pendRows = none ∧ BitVec.ofNat 32 0xFFFFFFFE ≠ (quarterAt (coreAt s 191) 3).rows ∧
      steerRefused s 191 3 { quarterAt (coreAt s 191) 3 with pendLive := some 0x0FFFFFFF } = false) ∧
    (rewriting re 191 3 = true ∧ (∀ w ∈ quarterWarps re 191 3, w.inHolder = false) ∧ (coreAt re 191).inService = true) ∧
    (rewriting off 191 3 = true ∧ (∀ w ∈ quarterWarps off 191 3, w.inHolder = false)) ∧
    ((coreAt s 191).deadBanks.contains 63 = false ∧
      (steerBanks (served (coreAt s 191) 63) { coreAt s 191 with deadBanks := (coreAt s 191).deadBanks ++ [63] }).isSome = true) ∧
    ((coreAt two 191).pendCols ≠ (coreAt two 191).cols ∧ 96 ≤ liveCols (coreAt two 191).pendCols ∧
      liveCols (coreAt two 191).pendCols < 192) := by
  refine ⟨⟨?_, ?_, ?_⟩, ⟨?_, ?_, ?_, ?_, ?_, ?_, ?_⟩, ⟨?_, ?_, ?_⟩, ⟨?_, ?_⟩, ⟨?_, ?_⟩, ?_, ?_, ?_⟩
  all_goals decide +kernel

/-- Power state changed; the one warp is ready on cluster 0. -/
def pState (f : Power → Power) (time : Nat) : State :=
  { modPower (tState { tMix with st := .ready }) f with time := time }

theorem wit_PowerGrantsTokensAndPace :
    let s := pState (fun p => { p with clusters := modAt p.clusters 23 fun c => { c with idle := 1280 } }) 0
    let q := pState (fun p => { p with clusters := modAt p.clusters 0 fun c => { c with quiet := true } }) 500
    let b := pState (fun p => { p with sampleCnt := 100 }) 100000
    let m := pState (fun p => { p with paced := true, sampleCnt := 99 }) 100000
    let tok := pState (fun p => { p with tokenMode := true }) 2000
    let pc := pState (fun p => { p with paces := [(7, { Pace.init with stat := 1, step := 4, stamp := 10 })] }) 11
    let site := pState (fun p => { p with group := 1, eff := 3000 }) 0
    (s.power.clusters.length = 24 ∧ (clusterAt s 23).quiet = false ∧ 1280 ≤ (clusterAt s 23).idle ∧
      ∀ w ∈ allWarps s, clusterOfCore w.core = 23 → w.inHolder = false) ∧
    (q.power.clusters.length = 24 ∧ pendingSet q ≠ [] ∧ q.power.episode = none ∧ q.time % (10 * max 1 q.power.win) = 0 ∧
      q.power.slewAt ≠ some q.time) ∧
    ((b.power.boundary + 1) * 100000 ≤ b.time ∧ 100 ≤ b.power.sampleCnt ∧ 2 ≤ min 3 ((2 : Nat) + 1) ∧ paceGroups b 0 = [] ∧ b.power.overEff = false) ∧
    (m.power.sampleCnt < 100 ∧ m.power.boundary * 100000 + 1000 * (m.power.sampleCnt + 1) ≤ m.time) ∧
    (tok.power.tokenMode = true ∧ look tok.power.lastTok 7 0 + 2000 ≤ tok.time) ∧
    (mayPriv s .fw = true ∧ mayPriv s .host = false) ∧
    ((paceAt pc 7).stat = 1 ∧ (paceAt pc 7).late = false ∧ stampPassed pc.time (paceAt pc 7).stamp = true ∧
      (∀ n < 24, 7 ∉ paceGroups pc n) ∧
      paceGroups (modCtx pc 0 fun c => { c with launch := some { fetchLaunch with pace := 7 } }) 0 = [7]) ∧
    (site.power.group ≠ 0 ∧ 2400 ≤ site.power.eff + pendingEff site.power false - (600 : Nat) ∧
      site.power.eff + pendingEff site.power true + (1000 : Nat) ≤ 4000) := by
  refine ⟨⟨?_, ?_, ?_, ?_⟩, ⟨?_, ?_, ?_, ?_, ?_⟩, ⟨?_, ?_, ?_, ?_, ?_⟩, ⟨?_, ?_⟩, ⟨?_, ?_⟩, ⟨?_, ?_⟩, ⟨?_, ?_, ?_, ?_, ?_⟩, ?_, ?_, ?_⟩
  all_goals decide +kernel

/-! ## Witnesses: collectives, the host port, registers -/

/-- The package with the ring of die 0 as given; 0x200000 is a page of host memory in the tables. -/
def dState (cmd : List Word) (p : Nat) : State :=
  [(0x103008, 0x07), (0x10300E, 0x08)].foldl (fun s (e : Nat × Byte) => memWriteByte s e.1 e.2)
    (modCtx (mState { tMix with committed := 1 }) 0 fun c => { c with
      det := true
      rings := [(0, { tRing with fault := none, stat := 1, cmd := some cmd, tl := { Timeline.init with p := p } })] })

/-- A copy of 32 bytes from 0x18000 to 0x200000. -/
def tCopyEntry : List Word := [0x200000, 0x18000, 0, 0, 0, 0x2000001000, 0, 0]

def tDigest (shadow : Bool) (crew : Nat) (h : List Byte) : Digest := { qb := 2, num := 9, shadow := shadow, crew := crew, hash := h }

theorem wit_CollectivesAndPhases :
    let s := dState tCopyEntry 0
    let g := modCtx s 0 fun c => { c with digests := [tDigest true 1 [1], tDigest false 0 [2]] }
    (mayPage s .fw 0 = true ∧
      (BitVec.ofNat 16 64 - (ringAt s 0 0).head).toNat ≤ 2 ^ (ringAt s 0 0).logn) ∧
    ((ringAt s 0 0).fault = none ∧ (ringAt s 0 0).cmd = some tCopyEntry ∧ (ringAt s 0 0).head = (ringAt s 0 0).tail ∧
      (ringAt s 0 0).phase = 0 ∧ (ringAt s 0 0).discards = false ∧ ceMalformed tCopyEntry = false ∧ ceWord tCopyEntry 6 = 0 ∧
      (ringAt s 0 0).pos = 0 ∧
      (match ceFlits 0 0 ((ringAt s 0 0).tl.t + 1) tCopyEntry (ceLen tCopyEntry / 32) s 0 with
       | .all u => decide (ringAt u 0 0 = ringAt s 0 0) &&
           ceDone (setRing (chargeCe u 0 tCopyEntry) 0 0 { ringAt s 0 0 with phase := 1 }) 0 0 1 tCopyEntry
       | _ => false) = true) ∧
    ((ringAt (dState tCopyEntry 1) 0 0).tl.p ≠ 0 ∧ Timeline.init.t = 0 ∧
      (let r := { ringAt (dState tCopyEntry 1) 0 0 with tl := { t := 1, p := 1, next := 2 } }
       r.tl.p ≤ r.tl.t)) ∧
    (ceMalformed [] = true ∧ (ringAt (dState [] 0) 0 0).discards = false) ∧
    ((ctxAt s 0).det = true ∧ (ctxAt s 0).state = 2 ∧ (∃ w ∈ allWarps s, w.ctx = 0 ∧ w.st ≠ .ended) ∧
      (∀ w ∈ allWarps s, w.ctx = 0 → w.st ≠ .ended → (ctxAt s 0).phase < w.committed) ∧ privilegedPending s 0 = false) ∧
    ((ctxAt g 0).digests[0]? = some (tDigest true 1 [1]) ∧
      firstOf (fun (x : Digest) => x.qb == 2 && x.num == 9 && x.shadow != true) (ctxAt g 0).digests = some (tDigest false 0 [2])) := by
  refine ⟨⟨?_, ?_⟩, ⟨?_, ?_, ?_, ?_, ?_, ?_, ?_, ?_, ?_⟩, ⟨?_, ?_, ?_⟩, ⟨?_, ?_⟩, ⟨?_, ?_, ?_, ?_, ?_⟩, ?_, ?_⟩
  all_goals decide +kernel

def tBoot (img : Bool) : BootIn :=
  { imageA := false, imageB := img, failRing := 0, failSpoke := 2, failEdge := 0, pool := false, rsv := 0
    ddrGiB := List.replicate 16 16, hbmUp := 0xFFF, trained := true }

/-- R18, R427: with the boundaries of edge die 0 failing the boot sets ready bit 9 all the same. -/
theorem test_boot_edge_ready :
    (match exec (.boot { tBoot true with failEdge := 1, failSpoke := 0 }) State.reset with
     | .next t => (t.glob.ready.getLsbD 9, t.glob.ready.getLsbD 23, t.glob.bootSt, t.links.edge)
     | _ => (false, true, 0, 0)) = (true, false, 1, 2) := by decide +kernel

/-- The boot maps region 0 where set 0 has a frame. -/
theorem boot_region_zero (b : BootIn) (s : State) (h : 0 < setFrames s 0 (setAtIdx s 0)) :
    look? (bootRegions b s) 0 = some (mapped 0 0) := by
  have h0 : bootRegion b 0 = (0, 0) := by simp [bootRegion]
  simp [bootRegions, List.range_succ_eq_map (n := 767), h0, h, look?]

theorem update_no_port (s : State) (p : Nat) (h : s.links.ports = []) : updatePort s p = s := by
  simp [updatePort, portMayServe, portAt, h, look, look?, Port.init]

theorem update_no_ports (s : State) (h : s.links.ports = []) : ∀ l : List Nat, l.foldl updatePort s = s
  | [] => rfl
  | p :: l => by rw [List.foldl_cons, update_no_port s p h, update_no_ports s h l]

theorem modMem_links (s : State) (f : Mem → Mem) : (modMem s f).links = s.links := rfl

theorem modLinks_links (s : State) (f : Links → Links) : (modLinks s f).links = f s.links := rfl

theorem modGlob_links (s : State) (f : Glob → Glob) : (modGlob s f).links = s.links := rfl

theorem boot_regions_last (b : BootIn) (img : Bool) (s : State) (hq : b.quarters = []) (hp : s.links.ports = []) :
    ∃ u l, l = bootRegions b u ∧ bootWith b img s = modMem u fun m => { m with regions := l } := by
  obtain ⟨u, hu, e⟩ : ∃ u : State, u.links.ports = [] ∧
      bootWith b img s = (List.range 6).foldl updatePort (modMem u fun m => { m with regions := bootRegions b u }) := by
    simp only [bootWith, hq, List.foldl_nil]
    refine ⟨_, ?_, rfl⟩
    rw [modMem_links, modLinks_links, modGlob_links]; exact hp
  rw [e, update_no_ports _ (by rw [modMem_links]; exact hu)]
  exact ⟨u, _, rfl, rfl⟩

theorem boot_maps_zero (b : BootIn) (img : Bool) (s : State) (hq : b.quarters = []) (hp : s.links.ports = [])
    (h : 0 < setFrames (bootWith b img s) 0 (setAtIdx (bootWith b img s) 0)) :
    look? (bootWith b img s).mem.regions 0 = some (mapped 0 0) := by
  obtain ⟨u, l, hl, e⟩ := boot_regions_last b img s hq hp
  rw [e] at h ⊢
  have h' : 0 < setFrames u 0 (setAtIdx u 0) := h
  have k := boot_region_zero b u h'
  rw [← hl] at k
  exact k

theorem wit_boot_region : (regionSet (bootWith (tBoot true) true State.reset) 0).isSome = true := by
  have hf : setFrames (bootWith (tBoot true) true State.reset) 0
      (setAtIdx (bootWith (tBoot true) true State.reset) 0) = 64 := by decide +kernel
  have h := boot_maps_zero (tBoot true) true State.reset rfl rfl (by rw [hf]; decide)
  have hm : (mapped 0 0).toNat = 2 ^ 30 := by decide +kernel
  simp only [regionSet, regionDesc, look, h, Option.getD_some, hm]
  rw [show bits (2 ^ 30) 16 4 = 0 by decide +kernel, show bits (2 ^ 30) 0 12 = 0 by decide +kernel, hf]
  decide +kernel

theorem wit_HostPort :
    let door := modCtx (mState tMix) 0 fun c => { c with
      door0 := 0x18000, queues := [(2, { Queue.empty with cls := 2, logcap := 1 })] }
    (State.reset.glob.bootSt = 0 ∧ ((tBoot true).imageA = true ∨ (tBoot true).imageB = true) ∧
      (tBoot false).imageA = false ∧ (tBoot false).imageB = false ∧ bootN (tBoot true) 1 = 0 ∧
      (regionSet (bootWith (tBoot true) true State.reset) 0).isSome = true) ∧
    (mayPage door .fw 0 = true ∧ (ctxAt door 0).door1 = 0 ∧
      bits (ctxAt door 0).door0.toNat 5 51 * 32 = 0x18000 ∧ sysTranslate door 0 0x18000 32 .read true = .ok 0x18000 7 ∧
      bits (0xFFFFFFFFFFFFFFB2 : Word).toNat 0 4 = 2 ∧ bits (0xFFFFFFFFFFFFFFB2 : Word).toNat 4 3 = 3 ∧
      (queueOf door 0 2).cls = 2 ∧ (queueOf door 0 2).closed = false ∧ ((queueOf door 0 2).sub 3).length = 0 ∧
      (queueOf door 0 2).logcap = 1) := by
  refine ⟨⟨?_, ?_, ?_, ?_, ?_, wit_boot_region⟩, ?_, ?_, ?_, ?_, ?_, ?_, ?_, ?_, ?_, ?_⟩
  all_goals decide +kernel

theorem wit_RegisterWrites :
    let own := modGlob State.reset fun g => { g with owner := 1, succ := 2, hpend := true }
    let late := { own with time := 100000000 }
    (ownerCode .fm ≠ 0 ∧ State.reset.glob.owner = 0 ∧ State.reset.glob.hpend = false) ∧
    (ownerCode .bmc ≠ 0 ∧ own.glob.owner ≠ 0 ∧ own.glob.hpend = true ∧ own.glob.succ.toNat = ownerCode .bmc ∧
      late.time ≤ late.glob.hpendAt + 100000000) ∧
    (modGlob own fun g => { g with hpend := false }).glob.hpend = false ∧
    isOwner own .host = true ∧ (late.glob.hpend = true ∧ late.glob.hpendAt + 100000000 ≤ late.time) ∧
    (mayPage own .host 63 = true ∧ isOwner own .fw = false ∧ (ctxAt own 63).state = 0) ∧
    mayPage own (.vf 5) 0 = false ∧ (767 < 768 ∧ 1024 ≤ 5119 ∧ 5119 < 5120) ∧ Agent.host ≠ .fw ∧ mayPriv own .bmc = false ∧
    (mayPriv own .host = true ∧ own.power.clusters.length = 24) := by
  refine ⟨⟨?_, ?_, ?_⟩, ⟨?_, ?_, ?_, ?_, ?_⟩, ?_, ?_, ⟨?_, ?_⟩, ⟨?_, ?_, ?_⟩, ?_, ⟨?_, ?_, ?_⟩, ?_, ?_, ?_, ?_⟩
  all_goals decide +kernel

/-! ## Witnesses: scheduling, the step -/

theorem nextUp_one (s : State) (core q : Nat) (w : Warp) (h1 : holderFree s core q = true) (h2 : readyWarps s core q = [w]) :
    NextUp s core q w := by
  refine ⟨h1, by rw [h2]; exact List.mem_singleton.2 rfl, ?_⟩
  intro x hx
  rw [h2] at hx
  exact .inl (List.mem_singleton.1 hx)

/-- A warp that waits in REGRS for n registers. -/
def tRegrsAt (n : Nat) : Warp := { tMix with st := .blocked (.regrs n), code := some [0xC477, 0x0040, 0x7F, 0] }

theorem waits_regrs (n : Nat) : WaitsRegrs (tState (tRegrsAt n)) (tRegrsAt n) n (.v 3) := by
  have hk : (tRegrsAt n).key = 0 := by
    show tMix.key = 0
    decide
  refine ⟨hk ▸ tState_warp (tRegrsAt n), Eq.refl _, Eq.refl false, 0xC477, 0x0040, [0x7F, 0], .v 4, Eq.refl _, by decide⟩

theorem wit_SchedulingAndRegisterRequests :
    let ready := { tMix with st := .ready }
    let old := { tMix with st := .ready, readyClk := 40960 }
    let park := { tMix with st := .parked 0x3F true }
    let susp := { tMix with st := .blocked .done }
    let slp := { tMix with st := .blocked (.sleep 0) }
    let rq := tRegrsAt
    (NextUp (tState ready) 0 0 ready ∧ ready.st = .ready) ∧
    (NextUp (tState park) 0 0 park ∧ park.run.trp = none ∧ park.back = none) ∧
    (NextUp (tState susp) 0 0 susp ∧ warpAt (tState susp) 0 = some susp ∧ susp.key = 0) ∧
    (readyFor (tState old) old = true ∧ old.inHolder = false ∧ 40960 ≤ old.readyClk) ∧ (slp.st = .blocked (.sleep 0) ∧ 0 ≤ (tState slp).time) ∧
    (WaitsRegrs (tState (rq 32)) (rq 32) 32 (.v 3) ∧ (rq 32).exec ≠ 0 ∧ DestHere (rq 32) (.v 3) 1 ∧
      regrsWaiters (tState (rq 32)) 0 0 = [(rq 32, 32)] ∧ regsFit (tState (rq 32)) (rq 32) 32 = true) ∧
    (WaitsRegrs (tState (rq 4096)) (rq 4096) 4096 (.v 3) ∧ (rq 4096, 4096) ∈ regrsWaiters (tState (rq 4096)) 0 0 ∧
      ∀ x ∈ quarterWarps (tState (rq 4096)) 0 0, x.st = .blocked (.regrs 4096) ∧ regsFit (tState (rq 4096)) x 4096 = false ∧
        calveHolds (tState (rq 4096)) x = false) := by
  refine ⟨⟨nextUp_one _ _ _ _ ?_ ?_, rfl⟩, ⟨nextUp_one _ _ _ _ ?_ ?_, rfl, rfl⟩, ⟨nextUp_one _ _ _ _ ?_ ?_, rfl, ?_⟩,
    ⟨?_, ?_, ?_⟩, ⟨rfl, ?_⟩, ⟨waits_regrs 32, ?_, here_v _ _ _ (by decide), ?_, ?_⟩, waits_regrs 4096, ?_, ?_⟩
  all_goals decide +kernel

theorem wit_IssueAdvances :
    warpAt (tState tMix) 0 = some tMix ∧ ¬ (tMix.calveWait = true ∧ tMix.tm = false) ∧
    tMix.core / 8 < (tState tMix).power.clusters.length ∧
    look (ctxAt (tState tMix) tMix.ctx).energy 0 0 + 8 < 2 ^ 64 * 1000000 := by
  refine ⟨rfl, ?_, ?_, ?_⟩
  all_goals decide +kernel

theorem wit_RegisterFormsFrame :
    registerForm (.iadd (tAlu .s64)) = true ∧ warpAt (tState tMix) (tState tMix).cur = some tMix ∧
    (∃ t, exec (.iadd (tAlu .s64)) (tState tMix) = .next t) ∧
    (match exec (.iadd (tAlu .s64)) (tState tMix) with
     | .next t => (warpAt t 0).map fun w => w.run.pos
     | _ => none) = some (tMix.run.pos + 1) :=
  ⟨rfl, rfl, ⟨_, rfl⟩, by decide +kernel⟩

/-- NOP, placed where the step fetches. -/
theorem wit_StepRunsDecoded :
    let s := State.reset.withFetchWord 32 (encode .nop)
    let hs := wordHalves (encode .nop) ++ [0x7F, 0]
    s.turns = .warp 0 :: [] ∧ (warpAt s 0).map (fun w => (mayIssue { s with turns := [] } w, w.code)) = some (true, none) ∧
    (warpAt s 0).map (fun w => (rival { s with turns := [] } w).isNone) = some true ∧
    (warpAt s 0).map (fun w => decide (fetchRun { s with turns := [] } w (25 - w.run.pos) w.pc = .inl hs)) = some true ∧
    decode hs = some (.nop, [0x7F, 0]) ∧ Instr.isEvent .grantBoundary = true ∧ Instr.wf .grantBoundary = false := by
  refine ⟨?_, ?_, ?_, ?_, ?_, ?_, ?_⟩
  all_goals decide +kernel

/-- The step that fetches and runs it stands at the trailer after. -/
theorem test_step_fetches :
    (match step (State.reset.withFetchWord 32 (encode .nop)) with
     | .next t => (warpAt t 0).map fun w => (w.pc, w.run.pos)
     | _ => none) = some (0x10004, 1) := by decide +kernel

theorem wit_StepKeepsMemoryCanonical :
    State.reset.memWf = true ∧
    (match step State.reset with
     | .next _ => true
     | _ => false) = true := by
  refine ⟨?_, ?_⟩
  all_goals decide +kernel

theorem wit_EncodeThenDecode :
    Instr.wf (.imad (tAlu .n8)) = true ∧ Instr.wf .zeroHalfword = true ∧ Instr.wf (.limm 0xFFFFFF) = true := by decide

theorem wit_DecodeThenEncode : decode [0x0833, 0x0020, 0x7F] = some (.mskand (.v 2), [0x7F]) := by decide

/-! ## The tools (R144 to R146, R162 to R166) -/

/-- R162's example: lds.s64 v12, sp[v24+0] is emitted as 0x619C. -/
theorem test_emitted_lds :
    encode (emitted (.lds { d := .v 12, a := .v 24, imm := 0, w := .w1, t := .s64, ord := .relaxed, scope := .warp }) false
      false) = 0x619C := by decide +kernel

/-- R307's worked run: iadd.s32 v2, v2, v2 is emitted as 0x0842. -/
theorem test_emitted_iadd :
    encode (emitted (.iadd { d := .v 2, a := .v 2, b := .v 2, w := .w1, t := .s32 }) false false) = 0x0842 := by decide +kernel

/-- R145's example: 0x12_3456_7890 takes two LIMM words and the field 0x090. -/
theorem test_imm_chain : immChain 10 false false 0x1234567890 = some ([0x2, 0x8D159E], 0x090) := by decide +kernel

/-- A file with a data halfword 0xF000, one record symbol and one relocation of type 3 at it (R164, R165). -/
def tObject (magic : Byte) : List Byte :=
  [magic, 0x5A, 0x4F, 0x00] ++ leBytes 2 1 ++ leBytes 2 0 ++ leBytes 4 64 ++ leBytes 4 0 ++ leBytes 4 64 ++ leBytes 4 2 ++
    leBytes 4 72 ++ leBytes 4 1 ++ leBytes 4 96 ++ leBytes 4 1 ++ leBytes 4 104 ++ leBytes 4 0 ++ leBytes 4 104 ++ leBytes 4 1 ++
    leBytes 8 1 ++ leBytes 8 0xF000 ++ (leBytes 4 0 ++ leBytes 4 4 ++ leBytes 8 0 ++ leBytes 8 0) ++ leBytes 8 0 ++
    (leBytes 8 0 ++ leBytes 2 3 ++ leBytes 2 2 ++ leBytes 4 0 ++ leBytes 8 0)

/-- R164, R166: the record takes the lowest free handle, which goes into bits [11:0] of the halfword. -/
theorem test_fzld_handle :
    fzld (tObject 0x46) { codeVa := 0, dataVa := 0, free := [0x021, 0x022], cores := 192 } = some ([], [0x21, 0xF0]) := by
  decide +kernel

/-- R165: a file of another magic is rejected. -/
theorem test_fzld_magic : fzld (tObject 0x47) { codeVa := 0, dataVa := 0, free := [1], cores := 192 } = none := by
  decide +kernel

/-- R166: with no free handle the load fails. -/
theorem test_fzld_no_handle : fzld (tObject 0x46) { codeVa := 0, dataVa := 0, free := [], cores := 192 } = none := by
  decide +kernel

/-! ## Witnesses: the checks before an instruction issues -/

/-- A check of an address fails where it gives no location. -/
theorem fails_of_check (s : State) (w : Warp) (m : MemForm) (a c : Nat) :
    AddressFails s w m a c ↔ checkLane s w m a = .inr c := by
  unfold AddressFails checkLane
  split
  · unfold scratchCheck
    split
    · rename_i h
      simp [h, cALIGN, eq_comm]
    · rename_i h
      have h0 : a % m.size = 0 := by simpa using h
      split
      · simp [h0, cPROT, eq_comm]; omega
      · rename_i hlt
        have hlt' : a < 2 ^ 23 := by omega
        cases hc : halfCrew s w a with
        | none => simp [h0, cPROT, eq_comm]
        | some p =>
          obtain ⟨k, x⟩ := p
          simp only [h0, hlt', cPROT]
          split <;> simp [eq_comm] <;> omega
  · cases translate s w.core w.ctx a m.size (if m.op.writes = true then .write else .read) with
    | bad k => simp
    | ok pa pte =>
      simp only [cPROT]
      by_cases hh : paKind pa = .host <;> cases hostAtomic m.op <;> simp [hh, eq_comm (a := c)]

/-- x0 as in the table of R105: lane 3 alone names no group of two. -/
def tIndexed : Warp :=
  { tMix with xr := [(0, (List.range 32).map fun l => if l = 3 then 0x000F1020 else if l = 2 then 0x000E1020 else 0x00001020)] }

theorem wit_operand_checks :
    let x := [((.x 0 : Opnd), 2)]
    let lane2 := { tIndexed with exec := 7 }
    let ue := { tMix with ue := [(4, 0xFFFFFFF0)] }
    let sl := tSlot (.regs (List.replicate 32 4) 2) (.value [] 0)
    let hz := tOut sl
    (Trappable (hState tMix) tMix ∧ Missing tMix [((.o 2 : Opnd), 1)] ∧ Missing tMix [((.l0 : Opnd), 1)] ∧
      ¬ Beyond tMix [((.v 31 : Opnd), 8)] ∧ Beyond { tMix with alloc := 38 } [((.v 31 : Opnd), 8)]) ∧
    (Trappable (hState tIndexed) tIndexed ∧ LowestLane tIndexed (IndexFails tIndexed x) 3 ∧ ¬ Beyond tIndexed x ∧
      ¬ Missing tIndexed x) ∧
    (∀ l, active lane2 l → ¬ IndexFails lane2 x l) ∧
    (Trappable (hState ue) ue ∧ LowestLane ue (fun l => ∃ r, BadWord ue [((.v 4 : Opnd), 1)] l r) 4) ∧
    ((ctxAt (modCtx (hState hz) 0 fun c => { c with hc := true }) 0).hc = true ∧ active hz 0 ∧ PendingWrite hz 5 ∧
      ∃ o ∈ [((.v 5 : Opnd), 1)], NamesIn hz o 0 5) := by
  refine ⟨⟨trappable_h _ (by decide), ⟨_, .head _, .inl ⟨2, rfl, by decide⟩⟩, ⟨_, .head _, .inr (.inl ⟨rfl, rfl⟩)⟩, ?_,
      ⟨_, .head _, 31, rfl, by decide⟩⟩,
    ⟨trappable_h _ (by decide), ⟨⟨by decide, by decide⟩, ⟨_, .head _, 0, rfl, by unfold BadIndex; decide⟩, ?_⟩, ?_, ?_⟩, ?_,
    ⟨trappable_h _ (by decide), ⟨by decide, by decide⟩, ⟨4, _, .head _, ⟨by decide, by decide⟩, by decide⟩, ?_⟩,
    by decide, ⟨by decide, by decide⟩, ⟨_, .head _, rfl, _, 2, rfl, 0, by decide, by decide, by decide, by decide⟩,
    _, .head _, by decide, by decide⟩
  · rintro ⟨o, ho, n, hn, h⟩
    rw [List.mem_singleton.1 ho] at hn h
    injection hn with hn
    subst hn
    exact absurd h (by decide)
  · rintro k hk - ⟨o, ho, j, hj, h⟩
    rw [List.mem_singleton.1 ho] at hj h
    injection hj with hj
    subst hj
    revert h
    revert k
    unfold BadIndex
    decide
  · rintro ⟨o, ho, n, hn, -⟩
    rw [List.mem_singleton.1 ho] at hn
    exact nomatch hn
  · rintro ⟨o, ho, h⟩
    rw [List.mem_singleton.1 ho] at h
    rcases h with ⟨n, hn, -⟩ | ⟨hn, -⟩ | ⟨hn, -⟩ <;> exact nomatch hn
  · rintro l ⟨hl, ha⟩ ⟨o, ho, j, hj, h⟩
    rw [List.mem_singleton.1 ho] at hj h
    injection hj with hj
    subst hj
    revert h ha
    revert l
    unfold BadIndex
    decide
  · rintro k hk - ⟨r, o, ho, hr, h⟩
    rw [List.mem_singleton.1 ho] at hr
    have hr4 : r = 4 := Nat.le_antisymm (Nat.lt_succ_iff.1 hr.2) hr.1
    subst hr4
    clear hr ho
    revert h
    revert k
    decide

/-- A load of memory whose lane 5 is misaligned, and a scratchpad store whose lane 31 lies beyond the allocation. -/
theorem wit_address_checks :
    let w := { tMix with main := put tMix.main 7 (lanesBy fun l => if l = 5 then 0x18004 else 0x18000 + 8 * l) }
    let v := { tMix with main := put tMix.main 6 (lanesBy fun l => if l = 31 then 2 ^ 22 - 8 else 8 * l) }
    let h := fun w => modCtx (mState w) 0 fun c => { c with tvec := 0x40000 }
    (Ready (h w) w (loadShape (tLoad 7) false) ∧ MayEnter (h w) w ∧
      (∀ k < 32, transWaits (h w) 0 0 (addrOf w (.v 7) 0 k) = false) ∧ active w 5 ∧
      AddressFails (h w) w (loadForm (tLoad 7) false) (addrOf w (.v 7) 0 5) cALIGN ∧
      ∀ k < 5, ∀ c, ¬ AddressFails (h w) w (loadForm (tLoad 7) false) (addrOf w (.v 7) 0 k) c) ∧
    (Ready (h v) v (storeShape (tStoreOp 6) true) ∧ MayEnter (h v) v ∧ active v 31 ∧
      AddressFails (h v) v (storeForm (tStoreOp 6) true) (addrOf v (.v 6) 0 31) cPROT ∧
      ∀ k < 31, ∀ c, ¬ AddressFails (h v) v (storeForm (tStoreOp 6) true) (addrOf v (.v 6) 0 k) c) := by
  refine ⟨⟨ready_of _ _ _ rfl (by decide +kernel), mayEnter_of _ _ (by decide +kernel), by decide +kernel, ⟨by decide, by decide⟩,
      (fails_of_check _ _ _ _ _).2 (by decide +kernel), ?_⟩,
    ready_of _ _ _ rfl (by decide +kernel), mayEnter_of _ _ (by decide +kernel), ⟨by decide, by decide⟩,
      (fails_of_check _ _ _ _ _).2 (by decide +kernel), ?_⟩
  · intro k hk c hc
    have h := (fails_of_check _ _ _ _ _).1 hc
    have : ∀ k < 5, (checkLane (modCtx (mState { tMix with main := put tMix.main 7 (lanesBy fun l => if l = 5 then 0x18004 else 0x18000 + 8 * l) }) 0 fun c => { c with tvec := 0x40000 })
      { tMix with main := put tMix.main 7 (lanesBy fun l => if l = 5 then 0x18004 else 0x18000 + 8 * l) } (loadForm (tLoad 7) false)
      (addrOf { tMix with main := put tMix.main 7 (lanesBy fun l => if l = 5 then 0x18004 else 0x18000 + 8 * l) } (.v 7) 0 k)).isLeft = true := by
      decide +kernel
    have e := this k hk
    rw [h] at e
    exact nomatch e
  · intro k hk c hc
    have h := (fails_of_check _ _ _ _ _).1 hc
    have : ∀ k < 31, (checkLane (modCtx (mState { tMix with main := put tMix.main 6 (lanesBy fun l => if l = 31 then 2 ^ 22 - 8 else 8 * l) }) 0 fun c => { c with tvec := 0x40000 })
      { tMix with main := put tMix.main 6 (lanesBy fun l => if l = 31 then 2 ^ 22 - 8 else 8 * l) } (storeForm (tStoreOp 6) true)
      (addrOf { tMix with main := put tMix.main 6 (lanesBy fun l => if l = 31 then 2 ^ 22 - 8 else 8 * l) } (.v 6) 0 k)).isLeft = true := by
      decide +kernel
    have e := this k hk
    rw [h] at e
    exact nomatch e

/-! ## Witnesses: walks and what the engines move -/

/-- The tables of `mState`, by level: at level 1 stands a leaf of 2 MiB. -/
def tTables (n : Nat) : Nat := if n = 4 then 0x100000 else if n = 3 then 0x101000 else if n = 2 then 0x102000 else 0x103000

theorem reaches_of (s : State) (ctx va lv : Nat) (tbl : Nat → Nat) (hr : tbl 4 = (ctxAt s ctx).ptRoot) (hl : lv ≤ 4)
    (h : ∀ n ∈ [1, 2, 3, 4], lv < n → present s (entryAddr va n (tbl n)) = true ∧ (entryRead s va n (tbl n)).2 = false ∧
      GoodEntry n (entryRead s va n (tbl n)).1 ∧ (entryRead s va n (tbl n)).1 / 2 % 2 = 0 ∧
      tbl (n - 1) = pteBase (entryRead s va n (tbl n)).1) : WalkReaches s ctx va lv tbl := by
  refine ⟨hr, hl, fun n h1 h2 => h n ?_ h1⟩
  have : n = 1 ∨ n = 2 ∨ n = 3 ∨ n = 4 := by omega
  rcases this with h | h | h | h <;> subst h <;> decide

/-- Walks that end in a leaf, at an entry that is not valid, at a poisoned one, and beyond the mapped memory. -/
theorem wit_walks :
    let s := mState tMix
    let odd := modMem s fun m => { m with lines := [(0x103000 / 128, { data := 7, pois := 0xF, dirty := true, vec := 0 })] }
    let out := modCtx s 0 fun c => { c with ptRoot := 2 ^ 39 }
    (∀ lv ∈ [4, 3, 2, 1], WalkReaches s 0 0x18000 lv tTables) ∧
    (present s (entryAddr 0x18000 1 0x103000) = true ∧ entryRead s 0x18000 1 0x103000 = (7, false) ∧ GoodEntry 1 7) ∧
    (WalkReaches s 0 0x400000 1 tTables ∧ entryRead s 0x400000 1 0x103000 = (0, false) ∧ ¬ GoodEntry 1 0) ∧
    (WalkReaches odd 0 0x18000 1 tTables ∧ (entryRead odd 0x18000 1 0x103000).2 = true) ∧
    (WalkReaches out 0 0 4 (fun _ => 2 ^ 39) ∧ present out (entryAddr 0 4 (2 ^ 39)) = false) ∧
    (firstOf (·.covers 0 0 0x18000) s.mem.tlb).isSome = true ∧
    (lookupVa s 0 0 0x18000).isLeft = true ∧ LeafAllows 7 .write false ∧ ¬ LeafAllows 7 .fetch true ∧ ¬ LeafAllows 0x17 .read false := by
  have h : WalkReaches (mState tMix) 0 0x18000 1 tTables :=
    reaches_of _ _ _ _ _ (by decide +kernel) (by decide) (by unfold GoodEntry; decide +kernel)
  refine ⟨fun lv hl => ⟨h.1, ?_, fun n a b => h.2.2 n ?_ b⟩, ⟨?_, ?_, ?_⟩, ⟨reaches_of _ _ _ _ _ ?_ ?_ ?_, ?_, ?_⟩,
    ⟨reaches_of _ _ _ _ _ ?_ ?_ ?_, ?_⟩, ⟨reaches_of _ _ _ _ _ ?_ ?_ ?_, ?_⟩, ?_, ?_, ?_, ?_, ?_⟩
  · simp only [List.mem_cons, List.not_mem_nil, or_false] at hl; omega
  · simp only [List.mem_cons, List.not_mem_nil, or_false] at hl; omega
  all_goals try unfold GoodEntry
  all_goals try unfold LeafAllows
  all_goals decide +kernel

/-- The reads of `FlitsRead`, made one after the other. -/
def readFlits (core ctx : Nat) (copy : Bool) : List (Nat × Nat) → State → Option (List (List Byte × Bool) × State)
  | [], s => some ([], s)
  | (a, n) :: ps, s =>
    if transWaits s core ctx a then none
    else match translate s core ctx a 1 .read with
    | .bad _ => none
    | .ok pa pte =>
      match homeLoad s ctx core pa n (pteMt pte != 0) copy with
      | none => none
      | some (u, v, p) => (readFlits core ctx copy ps u).map fun r => ((leBytes n v, p) :: r.1, r.2)

theorem readFlits_spec (core ctx : Nat) (copy : Bool) : ∀ ps s l t, readFlits core ctx copy ps s = some (l, t) →
    FlitsRead core ctx copy ps s l t := by
  intro ps
  induction ps with
  | nil => intro s l t h; injection h with h; injection h with h1 h2; exact ⟨h1.symm, h2.symm⟩
  | cons p ps ih =>
    obtain ⟨a, n⟩ := p
    intro s l t h
    unfold readFlits at h
    split at h
    · exact nomatch h
    · rename_i hw
      split at h
      · exact nomatch h
      · rename_i pa pte ht
        split at h
        · exact nomatch h
        · rename_i u v p hl
          cases hr : readFlits core ctx copy ps u with
          | none => rw [hr] at h; exact nomatch h
          | some r =>
            obtain ⟨l', t'⟩ := r
            rw [hr] at h
            injection h with h
            injection h with h1 h2
            exact ⟨u, v, p, l', pa, pte, h1.symm, by simpa using hw, ht, hl, h2 ▸ ih u l' t' hr⟩

/-- The reads of `SourcesRead` from memory, made one after the other. -/
def readSources (core ctx : Nat) (copy : Bool) : List (Option Nat × Nat × List Byte) → State →
    Option (List (List (Byte × Bool)) × State)
  | [], s => some ([], s)
  | (none, n, pad) :: xs, s => (readSources core ctx copy xs s).map fun r => (pad.map (·, false) :: r.1, r.2)
  | (some a, n, _) :: xs, s =>
    match readFlits core ctx copy ((cut32 a n).map fun p => (a + p.1, p.2)) s with
    | none => none
    | some (l, u) => (readSources core ctx copy xs u).map fun r => (l.flatMap (fun p => p.1.map (·, p.2)) :: r.1, r.2)

theorem readSources_spec (core ctx : Nat) (copy : Bool) (y : Crew) : ∀ xs s l t,
    readSources core ctx copy xs s = some (l, t) → SourcesRead core ctx copy y false xs s l t := by
  intro xs
  induction xs with
  | nil => intro s l t h; injection h with h; injection h with h1 h2; exact ⟨h1.symm, h2.symm⟩
  | cons x xs ih =>
    obtain ⟨a, n, pad⟩ := x
    intro s l t h
    cases a with
    | none =>
      simp only [readSources] at h
      cases hr : readSources core ctx copy xs s with
      | none => rw [hr] at h; exact nomatch h
      | some r =>
        obtain ⟨l', t'⟩ := r
        rw [hr] at h
        injection h with h
        injection h with h1 h2
        exact ⟨s, _, l', h1.symm, ⟨rfl, rfl⟩, h2 ▸ ih s l' t' hr⟩
    | some a =>
      simp only [readSources] at h
      split at h
      · exact nomatch h
      · rename_i k u hk
        cases hr : readSources core ctx copy xs u with
        | none => rw [hr] at h; exact nomatch h
        | some r =>
          obtain ⟨l', t'⟩ := r
          rw [hr] at h
          injection h with h
          injection h with h1 h2
          exact ⟨u, _, l', h1.symm, ⟨k, readFlits_spec _ _ _ _ _ _ _ hk, rfl⟩, h2 ▸ ih u l' t' hr⟩

/-- Sources in the scratchpad are read whatever they are. -/
theorem sources_here (core ctx : Nat) (copy : Bool) (y : Crew) : ∀ xs s, ∃ l, SourcesRead core ctx copy y true xs s l s := by
  intro xs
  induction xs with
  | nil => exact fun s => ⟨[], rfl, rfl⟩
  | cons x xs ih =>
    intro s
    obtain ⟨a, n, pad⟩ := x
    obtain ⟨l, hl⟩ := ih s
    cases a with
    | none => exact ⟨_, s, _, l, rfl, ⟨rfl, rfl⟩, hl⟩
    | some a => exact ⟨_, s, _, l, rfl, ⟨rfl, rfl⟩, hl⟩

/-- The writes of `PiecesWritten`, made one after the other. -/
def putPieces (core ctx eng seq : Nat) (copy : Bool) : List (Nat × List Byte × Bool) → State → Option State
  | [], s => some s
  | (a, d) :: ws, s =>
    if transWaits s core ctx a then none
    else match translate s core ctx a 1 .write with
    | .bad _ => none
    | .ok pa pte =>
      if (paKind pa).homed then
        putPieces core ctx eng seq copy ws (chargeHome (stageWrite s ctx (dieOfCore core) pa d.1.length (leNat d.1) d.2
          (BitVec.ofNat 2 (pteMt pte)) (cmdOwner core eng) seq) ctx (some (dieOfCore core)) pa d.1.length (pteMt pte != 0) copy)
      else if paKind pa = .host then
        putPieces core ctx eng seq copy ws
          (chargeOut (modMem s fun m => { m with hostMem := wrBytes m.hostMem pa d.1 }) ctx pa d.1.length)
      else none

theorem putPieces_spec (core ctx eng seq : Nat) (copy : Bool) : ∀ ws s t, putPieces core ctx eng seq copy ws s = some t →
    PiecesWritten core ctx eng seq copy ws s t := by
  intro ws
  induction ws with
  | nil => intro s t h; injection h with h; exact h.symm
  | cons x ws ih =>
    obtain ⟨a, d⟩ := x
    intro s t h
    unfold putPieces at h
    split at h
    · exact nomatch h
    · rename_i hw
      split at h
      · exact nomatch h
      · rename_i pa pte ht
        split at h
        · rename_i hh
          exact ⟨pa, pte, _, by simpa using hw, ht, .inl ⟨hh, rfl⟩, ih _ _ h⟩
        · split at h
          · rename_i hh
            exact ⟨pa, pte, _, by simpa using hw, ht, .inr (.inl ⟨hh, rfl⟩), ih _ _ h⟩
          · exact nomatch h

theorem exists_of_isSome {α : Type} {x : Option α} (h : x.isSome = true) : ∃ a, x = some a := Option.isSome_iff_exists.1 h

/-- Some command of the crew at the head of a queue may make its accesses. -/
theorem works_c (eng : Nat) (c : Cmd) (hp : c.phase = 0) (h : headOk eng c) (hy : c.crew = 0) :
    Works (cState eng c) 0 eng c [] eCrew :=
  ⟨h.1, cState_runs _ _, h.2.1, h.2.2.1, hp, h.2.2.2.1, rfl⟩

/-- A copy of the four elements at 0x18000 into the scratchpad, out of it, and between two places in it. -/
def tStoreCmd : CopyCmd := { tLoadCmd 0x18000 with st := true }
def tWithin : CopyCmd :=
  { copyOf .cpy true (fun n => ([0, 512, 0, 4 * 2 ^ 32, 0, 0] : List Nat).getD n 0) false .crew (recOf recF) with spoff := 512 }

theorem wit_copies_moved :
    let ld := tCmd 1 (.copy (tLoadCmd 0x18000))
    let st := tCmd 1 (.copy tStoreCmd)
    let sp := tCmd 1 (.copy tWithin)
    let pf := tCmd 1 (.copy { tLoadCmd 0x18000 with kind := .pfch })
    (Works (cState 0 ld) 0 0 ld [] eCrew ∧ CopyFits eCrew (tLoadCmd 0x18000) ∧ (tLoadCmd 0x18000).st = false ∧
      (tLoadCmd 0x18000).kind = .cpy ∧ ∃ l v, SourcesRead 0 0 true eCrew false
        ((List.range (boxUnits (tLoadCmd 0x18000))).flatMap fun q =>
          unitSources (tLoadCmd 0x18000).trec (boxCo (tLoadCmd 0x18000) (boxIx (cState 0 ld) 0 eCrew (tLoadCmd 0x18000)) q))
        (cState 0 ld) l v) ∧
    (Works (cState 0 st) 0 0 st [] eCrew ∧ CopyFits eCrew tStoreCmd ∧ tStoreCmd.trec.sp = false ∧ st.shadow = false ∧
      ∃ v, PiecesWritten 0 0 0 1 true ((List.range (boxUnits tStoreCmd)).flatMap fun q =>
        unitPieces (cState 0 st) 0 eCrew tStoreCmd (boxCo tStoreCmd (boxIx (cState 0 st) 0 eCrew tStoreCmd) q) q)
        (cState 0 st) v) ∧
    (Works (cState 0 sp) 0 0 sp [] eCrew ∧ CopyFits eCrew tWithin ∧ tWithin.trec.sp = true ∧ tWithin.st = true ∧
      boxUnits tWithin = 4 ∧ unitBytes tWithin = 4 ∧
      ((List.range 4).flatMap fun q => (List.range 4).map fun i =>
        recSide tWithin.trec (boxCo tWithin (fun _ => 0) q) i) = (List.range 16).map (2048 + ·)) ∧
    Works (cState 0 pf) 0 0 pf [] eCrew := by
  refine ⟨⟨works_c _ _ rfl ?_ rfl, ⟨?_, ?_⟩, rfl, rfl, ?_⟩, ⟨works_c _ _ rfl ?_ rfl, ⟨?_, ?_⟩, rfl, rfl, ?_⟩,
    ⟨works_c _ _ rfl ?_ rfl, ⟨?_, ?_⟩, ?_, rfl, ?_, ?_, ?_⟩, works_c _ _ rfl ?_ rfl⟩
  all_goals first
    | exact headOk_of _ _ rfl (by decide +kernel)
    | decide +kernel
    | skip
  · obtain ⟨⟨l, v⟩, h⟩ := exists_of_isSome (x := readSources 0 0 true ((List.range (boxUnits (tLoadCmd 0x18000))).flatMap fun q =>
      unitSources (tLoadCmd 0x18000).trec (boxCo (tLoadCmd 0x18000)
        (boxIx (cState 0 (tCmd 1 (.copy (tLoadCmd 0x18000)))) 0 eCrew (tLoadCmd 0x18000)) q))
        (cState 0 (tCmd 1 (.copy (tLoadCmd 0x18000))))) (by decide +kernel)
    exact ⟨l, v, readSources_spec _ _ _ _ _ _ _ _ h⟩
  · obtain ⟨v, h⟩ := exists_of_isSome (x := putPieces 0 0 0 1 true ((List.range (boxUnits tStoreCmd)).flatMap fun q =>
      unitPieces (cState 0 (tCmd 1 (.copy tStoreCmd))) 0 eCrew tStoreCmd
        (boxCo tStoreCmd (boxIx (cState 0 (tCmd 1 (.copy tStoreCmd))) 0 eCrew tStoreCmd) q) q)
        (cState 0 (tCmd 1 (.copy tStoreCmd)))) (by decide +kernel)
    exact ⟨v, putPieces_spec _ _ _ _ _ _ _ _ h⟩

/-- One row of one element and none of the next, from memory. -/
def tRagged : CopyCmd :=
  copyOf .cpyr false (fun n => ([6, 0, 0, 2 * 2 ^ 32, 512 + 1024 * 2 ^ 22, 2048 + 2 ^ 24] : List Nat).getD n 0) false .crew (recOf recR)
def tEntropy : CopyCmd :=
  copyOf .cpye false (fun n => ([7, 0, 0, 8 * 2 ^ 32, 0, 0] : List Nat).getD n 0) false .crew (recOf recX)

/-- The state of a command with a byte of the index list and bytes of the code table and the stream in memory. -/
def rgState (c : Cmd) (table stream : Byte) : State :=
  memWriteByte (memWriteByte { cState 0 c with scr := [(scrKey 0 (eCrew.addr tRagged.idxOff), 1)] } 0x18400 table) 0x18000 stream

theorem works_rg (k : Cmd) (a b : Byte) (hk : k.crew = 0)
    (h : (decide (queueAt (rgState k a b) (queueKey 0 0) = [k]) && clusterRuns (rgState k a b) (clusterOfCore 0) &&
      mayStart (rgState k a b) 0 k && !k.discard && decide (k.phase = 0) &&
      decide ((crewAt (rgState k a b) 0) = some eCrew)) = true) : Works (rgState k a b) 0 0 k [] eCrew := by
  simp only [Bool.and_eq_true, Bool.not_eq_true', decide_eq_true_eq] at h
  exact ⟨h.1.1.1.1.1, h.1.1.1.1.2, h.1.1.1.2, h.1.1.2, h.1.2, hk ▸ h.2, rfl⟩

theorem wit_ragged :
    let k := tCmd 1 (.copy tRagged)
    let s := rgState k 0 0
    Works s 0 0 k [] eCrew ∧ CopyFits eCrew tRagged ∧ tRagged.kind = .cpyr ∧
    (List.range tRagged.n).map (fun t => leNat (scrRead s 0 (eCrew.addr (tRagged.idxOff + 4 * t)) 4)) = [1, 0] ∧
    fmtUnit tRagged.trec.fmt = 4 ∧ 0 < tRagged.limit ∧
    ∃ l v, SourcesRead 0 0 true eCrew false ((List.range 1).map fun f =>
      let co := [coord tRagged.c 0 + ((rowAt [1, 0] f).2 : Int), coord tRagged.c 1 + ((rowAt [1, 0] f).1 : Int),
        coord tRagged.c 2, coord tRagged.c 3, coord tRagged.c 4]
      (if tRagged.trec.inBounds co = true then some (tRagged.trec.elemAddr co) else none, 4, leBytes 4 tRagged.trec.padVal)) s
      l v := by
  refine ⟨works_rg _ _ _ rfl (by decide +kernel), ⟨by decide +kernel, by decide +kernel⟩, rfl, by decide +kernel, by decide +kernel,
    by decide +kernel, ?_⟩
  obtain ⟨⟨l, v⟩, h⟩ := exists_of_isSome (x := readSources 0 0 true ((List.range 1).map fun f =>
      let co := [coord tRagged.c 0 + ((rowAt [1, 0] f).2 : Int), coord tRagged.c 1 + ((rowAt [1, 0] f).1 : Int),
        coord tRagged.c 2, coord tRagged.c 3, coord tRagged.c 4]
      (if tRagged.trec.inBounds co = true then some (tRagged.trec.elemAddr co) else none, 4, leBytes 4 tRagged.trec.padVal))
      (rgState (tCmd 1 (.copy tRagged)) 0 0)) (by decide +kernel)
  exact ⟨l, v, readSources_spec _ _ _ _ _ _ _ _ h⟩

/-- What the code table and the stream of `tEntropy` are with one code of length 1 or none, and the first bits of the stream. -/
def tCodes (table stream : Byte) : Option (List Nat × Bool × Nat) :=
  match readSources 0 0 false [(some tEntropy.trec.ctab, 288, [])] (rgState (tCmd 1 (.copy tEntropy)) table stream) with
  | some ([tb], v) =>
    match readSources 0 0 true [(some (tEntropy.trec.base + 0), 16, [])] v with
    | some ([st], _) => some ((List.range 16).map (fun i => leNat (((tb.map (·.1)).drop (2 * i)).take 2)),
        tb.any (·.2) || st.any (·.2), streamBits (st.map (·.1)) 0 16)
    | _ => none
  | _ => none

/-- A malformed table, a code for every bit of the stream, and a stream whose first bit no code has. -/
theorem wit_entropy :
    let k := tCmd 1 (.copy tEntropy)
    (∀ p ∈ [((0 : Byte), (0 : Byte)), (1, 0), (1, 0x80)], Works (rgState k p.1 p.2) 0 0 k [] eCrew) ∧ CopyFits eCrew tEntropy ∧
    tEntropy.kind = .cpye ∧ tEntropy.e.getD 0 0 = 8 ∧ coord tEntropy.c 0 = 0 ∧ tEntropy.trec.dim 0 = 64 ∧
    tCodes 0 0 = some (List.replicate 16 0, false, 0) ∧ tCodes 1 0 = some (1 :: List.replicate 15 0, false, 0) ∧
    tCodes 1 0x80 = some (1 :: List.replicate 15 0, false, 2 ^ 15) ∧ firstCode (1 :: List.replicate 15 0) 0 = 0 := by
  refine ⟨fun p hp => works_rg _ _ _ rfl ?_, ⟨?_, ?_⟩, rfl, ?_, ?_, ?_, ?_, ?_, ?_, rfl⟩
  · simp only [List.mem_cons, List.not_mem_nil, or_false] at hp
    obtain rfl | rfl | rfl := hp <;> decide +kernel
  all_goals decide +kernel

theorem wit_accumulators :
    let rd := tCmd 1 (.accrd (recOf recF) 0 1 127 190 1 2 false)
    let wr := tCmd 1 (.accwr (recOf recF) 0 0 0 0 1 1)
    let a := (recOf recF).at 0 0
    Works (cState 4 rd) 0 4 rd [] eCrew ∧ Works (cState 4 wr) 0 4 wr [] eCrew ∧ fmtNum (recOf recF).fmt = some (.flt .f) ∧
    (∀ i j i' j' : Nat, i < 1 ∧ j < 2 ∧ a.inBounds [(j : Int), (i : Int)] = true →
      i' < 1 ∧ j' < 2 ∧ a.inBounds [(j' : Int), (i' : Int)] = true → (i, j) ≠ (i', j') →
      a.elemAddr [(j : Int), (i : Int)] + 4 ≤ a.elemAddr [(j' : Int), (i' : Int)] ∨
        a.elemAddr [(j' : Int), (i' : Int)] + 4 ≤ a.elemAddr [(j : Int), (i : Int)]) := by
  refine ⟨works_c _ _ rfl (headOk_of _ _ rfl (by decide +kernel)) rfl, works_c _ _ rfl (headOk_of _ _ rfl (by decide +kernel)) rfl,
    by decide, ?_⟩
  rintro i j i' j' ⟨hi, hj, -⟩ ⟨hi', hj', -⟩ hne
  have : (j = 0 ∧ j' = 1) ∨ (j = 1 ∧ j' = 0) := by
    have : j ≠ j' := fun h => hne (by rw [h, show i = i' by omega])
    omega
  obtain rfl : i = 0 := by omega
  obtain rfl : i' = 0 := by omega
  rcases this with ⟨rfl, rfl⟩ | ⟨rfl, rfl⟩ <;> decide

/-- Loads of a region from the scratchpad, of FP8 weights and of an SE format. -/
theorem wit_regions :
    let se := { recOf recE with fmt := 0x11 }
    let k := tCmd 1 (.wbld (recOf recE) 0 1 0 0)
    let ks := tCmd 1 (.wbld se 0 1 16 0)
    Works (cState 4 k) 0 4 k [] eCrew ∧ Works (cState 4 ks) 0 4 ks [] eCrew ∧ fmtNum (recOf recE).fmt = some (.flt .e4) ∧
    fmtSe se.fmt = some .se5 ∧ (recOf recE).sp = true ∧ (16 : Int) % 16 = 0 ∧
    ∀ xs s, ∃ l, SourcesRead 0 0 false eCrew true xs s l s :=
  ⟨works_c _ _ rfl (headOk_of _ _ rfl (by decide +kernel)) rfl, works_c _ _ rfl (headOk_of _ _ rfl (by decide +kernel)) rfl,
    by decide, by decide, by decide, by decide, sources_here _ _ _ _⟩

theorem keccakRound_length (a : List (BitVec 64)) (rc : BitVec 64) : (keccakRound a rc).length = 25 := by
  unfold keccakRound
  simp only
  split
  · rename_i h
    exact absurd (congrArg List.length h) (by simp)
  · rename_i h
    have := congrArg List.length h
    simp at this
    simp; omega

theorem keccakF_length (a : List (BitVec 64)) : (keccakF a).length = 25 := by
  unfold keccakF
  show (List.foldl keccakRound a (keccakRounds.dropLast ++ [0x8000000080008008])).length = 25
  rw [List.foldl_append]
  exact keccakRound_length _ _

theorem absorb_length : ∀ (n : Nat) (a : List (BitVec 64)) (bs : List Byte), a.length = 25 → (absorb n a bs).length = 25
  | 0, _, _, h => h
  | n + 1, _, _, _ => absorb_length n _ _ (keccakF_length _)

theorem shake_length (m : List Byte) : (shake256 m 8).length = 8 := by
  have h := absorb_length ((shakePad m).length / 136) (List.replicate 25 0) (shakePad m) (by simp)
  have e : shake256 m 8 = (((absorb ((shakePad m).length / 136) (List.replicate 25 0) (shakePad m)).take 17).flatMap
    fun w => leBytes 8 w.toNat).take 8 := rfl
  rw [e]
  generalize absorb ((shakePad m).length / 136) (List.replicate 25 0) (shakePad m) = a at h
  match a, h with
  | w :: r, _ =>
    show (List.take 8 ((List.take 17 (w :: r)).flatMap fun w => leBytes 8 w.toNat)).length = 8
    simp only [List.take_succ_cons, List.flatMap_cons, List.length_take, List.length_append]
    have : (leBytes 8 w.toNat).length = 8 := rfl
    omega

/-- The image of the built table of the crew, all zeros, under the tag that the key gives. -/
def tImage (s : State) : List Byte :=
  List.replicate 8248 0 ++ shake256 (leBytes 32 (ctxAt s 0).spillKey.toNat ++ List.replicate 8248 0) 8

theorem image_word (s : State) (o : Nat) (h : o + 8 ≤ 8248) : leNat (((tImage s).drop o).take 8) = 0 := by
  have : ((tImage s).drop o).take 8 = List.replicate 8 0 := by
    unfold tImage
    rw [List.drop_append_of_le_length (by rw [List.length_replicate]; omega), List.take_append_of_le_length (by rw [List.length_drop, List.length_replicate]; omega), List.drop_replicate,
      List.take_replicate]
    congr 1; omega
  rw [this]; decide

theorem image_ent (s : State) (i : Nat) (h : i < 2048) : leNat (((tImage s).drop (4 * i)).take 4) = 0 := by
  have : ((tImage s).drop (4 * i)).take 4 = List.replicate 4 0 := by
    unfold tImage
    rw [List.drop_append_of_le_length (by rw [List.length_replicate]; omega), List.take_append_of_le_length (by rw [List.length_drop, List.length_replicate]; omega), List.drop_replicate,
      List.take_replicate]
    congr 1; omega
  rw [this]; decide

theorem image_head (s : State) : (tImage s).take 8248 = List.replicate 8248 0 := by
  unfold tImage
  rw [List.take_append_of_le_length (Nat.le_of_eq (List.length_replicate).symm), List.take_replicate]
  congr 1

theorem image_tag (s : State) : ((tImage s).drop 8248).take 8 =
    shake256 (leBytes 32 (ctxAt s 0).spillKey.toNat ++ (tImage s).take 8248) 8 := by
  rw [image_head]
  unfold tImage
  rw [List.drop_append_of_le_length (Nat.le_of_eq (List.length_replicate).symm), List.drop_replicate, Nat.sub_self, List.replicate_zero,
    List.nil_append, List.take_of_length_le (Nat.le_of_eq (shake_length _))]

theorem image_zero (s : State) (i d : Nat) (h : i < 32) : (tImage s).getD (8216 + i) d = 0 := by
  unfold tImage
  rw [List.getD_eq_getElem?_getD, List.getElem?_append_left (by rw [List.length_replicate]; omega), List.getElem?_replicate, if_pos (by omega)]
  rfl

/-- A spill to host memory, whose image is `tImage`, and a fill from there, with an image whose tag does not fit and with
`tImage`. -/
theorem wit_spills :
    let sp := tCmd 1 (.tspill 0 0x400000)
    let fl := tCmd 1 (.tfill 0 0x400000)
    let b := look eCrew.tables 0 Table.empty
    (Works (cState 5 sp) 0 5 sp [] eCrew ∧ b.src = [] ∧ SpillImage (cState 5 sp) 0 eCrew b (tImage (cState 5 sp)) ∧
      ∃ v, PiecesWritten 0 0 5 1 false ((cut32 0x400000 8256).map fun p =>
        (0x400000 + p.1, ((tImage (cState 5 sp)).drop p.1).take p.2, false)) (cState 5 sp) v) ∧
    Works (cState 5 fl) 0 5 fl [] eCrew ∧
    ((match readSources 0 0 false [(some 0x400000, 8256, [])] (cState 5 fl) with
      | some ([l], v) => cmdWritesDone v 0 5 1 5 && l.all (fun x => x.1 == 0 && !x.2)
      | _ => false) = true) ∧
    (let img := tImage (cState 5 fl)
     let word := fun (o : Nat) => leNat ((img.drop o).take 8)
     word 8192 = 0 ∧ word 8200 = 0 ∧ word 8208 = 0 ∧ (∀ i < 32, img.getD (8216 + i) 0 = 0) ∧
       (img.drop 8248).take 8 = shake256 (leBytes 32 (ctxAt (cState 5 fl) 0).spillKey.toNat ++ img.take 8248) 8) := by
  have hb : look eCrew.tables 0 Table.empty = { Table.empty with built := true } := rfl
  have hw : eCrew.wrap.toNat = 0 := rfl
  refine ⟨⟨works_c _ _ rfl (headOk_of _ _ rfl (by decide +kernel)) rfl, rfl, ?_, ?_⟩,
    works_c _ _ rfl (headOk_of _ _ rfl (by decide +kernel)) rfl, by decide +kernel, image_word _ _ (by decide), image_word _ _ (by decide),
    image_word _ _ (by decide), fun i h => image_zero _ _ _ h, image_tag _⟩
  · unfold SpillImage
    simp only [image_word _ 8192 (by decide), image_word _ 8200 (by decide), image_word _ 8208 (by decide), hb, hw]
    refine ⟨?_, fun i h => ?_, by decide, by decide, by decide, by decide, by decide, by decide, by decide, by decide, by decide,
      by decide, by decide, by decide, by decide, by decide, trivial, fun i h => image_zero _ _ _ h, image_tag _⟩
    · unfold tImage
      rw [List.length_append, List.length_replicate, shake_length]
    · rw [image_ent _ i h]; rfl
  · obtain ⟨v, h⟩ := exists_of_isSome (x := putPieces 0 0 5 1 false ((cut32 0x400000 8256).map fun p =>
        (0x400000 + p.1, ((tImage (cState 5 (tCmd 1 (.tspill 0 0x400000)))).drop p.1).take p.2, false))
        (cState 5 (tCmd 1 (.tspill 0 0x400000)))) (by decide +kernel)
    exact ⟨v, putPieces_spec _ _ _ _ _ _ _ _ h⟩

/-! ## Witnesses: waiting agents, own-core accesses, served ports -/

theorem wit_own_accesses :
    let r := SlotDst.regs (List.replicate 32 3) 1
    let at_ := fun (op : AccOp) (i j : Nat) => { tAcc op (.scratch 0 j false) false false with lane := i }
    let three := fun (op : AccOp) => [at_ op 3 64, at_ op 7 64, at_ op 31 72]
    let st := fun (op : AccOp) (d : SlotDst) => aState d (at_ op 31 64)
    let two := fun (op : AccOp) (d : SlotDst) => mState (tOut (tSlot d (.access (three op) false)))
    (∀ op ∈ [AccOp.load, .store, .atomG true .add], Outstanding (two op r) 0 (tOut (tSlot r (.access (three op) false)))
        (tSlot r (.access (three op) false)) ∧
      (∀ a ∈ three op, CleanLocal (two op r) 0 op a) ∧ (three op).Pairwise fun a b => a.lane < b.lane) ∧
    (Outstanding (st (.atomG true .add) r) 0 (tOut (tSlot r (.access [at_ (.atomG true .add) 31 64] false)))
        (tSlot r (.access [at_ (.atomG true .add) 31 64] false)) ∧
      Due (st (.atomG true .add) r) 0 (tOut (tSlot r (.access [at_ (.atomG true .add) 31 64] false)))
        (tSlot r (.access [at_ (.atomG true .add) 31 64] false)) (at_ (.atomG true .add) 31 64) ∧
      sbStalls (st (.atomG true .add) r) 0 64 72 true = false) := by
  refine ⟨fun op ho => ⟨outstanding_t _ _ rfl rfl, fun a ha => ?_, ?_⟩, outstanding_t _ _ rfl rfl, due_a _ _ (by decide +kernel),
    by decide +kernel⟩
  · simp only [List.mem_cons, List.not_mem_nil, or_false] at ho ha
    obtain rfl | rfl | rfl := ho <;> obtain rfl | rfl | rfl := ha <;>
      exact ⟨rfl, rfl, rfl, by decide, by decide, _, rfl, by decide +kernel, by decide +kernel⟩
  · decide +revert

/-- A waiting write of a Cirque agent to the package of tFab. -/
theorem wit_agent_waits :
    let r := SlotDst.regs (List.replicate 32 3) 1
    let load := tAcc .load (.dev 0x18000 0 false) false false
    let fab := tAcc (.atomG true .maxn) (.fabric tFab) false false
    let held : Posted := { pa := tFab, data := [1], pois := false, thru := false, ser := 1 }
    let late := modMem (aState r fab) fun m => { m with posted := [held] }
    let lit := sState (aState r load) [tStaged false false] 0 []
    (held.onPort late (fabricPkg tFab) = true ∧ fab.ser < held.ser ∧ (∀ x ∈ late.mem.posted, x.onPort late (fabricPkg tFab) = true →
      fab.ser < x.ser) ∧ fabricAccs late = [(0, 0, fab, fabricPkg tFab)]) ∧
    staleStage lit 0 (tStaged false false) 0x18000 8 = false ∧
    ((rState tMix).mem.posted = [] ∧ walkWaits (rState tMix) 0 ((ctxAt (rState tMix) 0).frBase + 64 * (ctxAt (rState tMix) 0).tail) = false ∧
      writeWaits (rState tMix) 0x18000 64 (pteMt 7 != 0) = false) ∧
    frameWaits (rState { tMix with st := .stopped }) { tMix with st := .stopped } = false := by
  decide +kernel

theorem wit_host_waits :
    let s := mState tMix
    (writeWaits s 0x18000 8 false = false ∧ writeWaits s (2 ^ 30 - 8) 8 false = false) ∧
    readWaits s 0x18000 8 = false ∧
    (walkWaits s 0 0x18018 = false ∧ portFree s 0x18018 = true ∧ writeWaits s 0x18018 8 false = false) ∧
    (sysTranslate s 0 0x18018 1 .read true = .ok 0x18018 7 ∧ vaWaits s 0 0x18018 8 = false) := by
  decide +kernel

/-- The ring of die 0 with an entry that copies 32 bytes from 0x18000 to 0x18040. -/
def ceState : State :=
  modCtx (mState tMix) 0 fun c => { c with
    rings := [(0, { tRing with fault := none, stat := 1, cmd := some [0x18040, 0x18000, 0, 0, 0, 0x2000001000, 0, 0] })] }

theorem wit_collective_flit :
    ∃ l u, CeReads 0 0 [0x18000] ceState l u ∧ (ctxAt u 0).det = false ∧ walkWaits u 0 0x18040 = false ∧
      flitWaits u 0 0x18040 = false ∧ sysTranslate u 0 0x18040 1 .write true = .ok 0x18040 7 := by
  have h : (dieLoad ceState 0 0 0x18000 32 false false true).map (fun x => ((ctxAt x.1 0).det, walkWaits x.1 0 0x18040,
      flitWaits x.1 0 0x18040, decide (sysTranslate x.1 0 0x18040 1 .write true = .ok 0x18040 7))) =
      some (false, false, false, true) := by decide +kernel
  obtain ⟨⟨u, v, p⟩, hr⟩ : ∃ x, dieLoad ceState 0 0 0x18000 32 false false true = some x := by
    cases hd : dieLoad ceState 0 0 0x18000 32 false false true with
    | none => rw [hd] at h; exact nomatch h
    | some x => exact ⟨x, rfl⟩
  rw [hr] at h
  simp only [Option.map_some, Option.some.injEq, Prod.mk.injEq, decide_eq_true_eq] at h
  refine ⟨[(leBytes 32 v, p)], u, ⟨u, _, [], 0x18000, 7, rfl, by decide +kernel, by decide +kernel, ?_, rfl, rfl⟩, h⟩
  have hm : (pteMt 7 != 0) = false := by decide
  rw [if_pos (by decide), hm]
  exact ⟨v, p, hr, Eq.refl _⟩

theorem wit_links_more :
    let up := modLinks (mState tMix) fun l => { l with
      ports := [(0, { portAt State.reset 0 with up := true })], inbound := [(0, 0x18000, .load 8), (0, 0x18000, .store [1, 2] false)]
      waves := [((0 * 2 + 1) * 64 + 63, { waveAt State.reset 0 1 63 with winErrs := 10738 })] }
    let sec := modLinks up fun l => { l with inbound := l.inbound.drop 1 }
    ((waveAt up 0 1 63).state = 0 ∧ (waveAt up 0 1 63).thresh.toNat < (waveAt up 0 1 63).winErrs ∧
      (waveAt up 0 0 63).state = 0 ∧ (waveAt up 0 0 63).thresh.toNat < 10738) ∧
    ((∀ e ∈ fabricAccs up, portOf up e.2.2.2 ≠ some 0) ∧
      firstOf (fun e => e.1 == 0) up.links.inbound = some (0, 0x18000, .load 8) ∧ present up 0x18000 = true ∧
      readWaits up 0x18000 8 = false) ∧
    (firstOf (fun e => e.1 == 0) sec.links.inbound = some (0, 0x18000, .store [1, 2] false) ∧
      readWaits sec 0x18000 2 = false ∧ passes sec 0x18000 false = false) ∧
    (let rec_ := modGlob State.reset fun g => { g with bootSt := 3, newImage := true }
     rec_.glob.bootSt = 3 ∧ rec_.glob.newImage = true ∧ (tBoot true).imageB = true ∧ (portAt rec_ 5).up = false) := by
  decide +kernel

theorem wit_requests_more :
    launchWaits (lState 0x18400 1) 0 = false ∧
    (∀ e ∈ savedOf savedState 0 [0], recordUnread savedState e.2 = false) ∧
    (let out := modCore (kState { tMix with st := .ready } fun c => { c with vacating := [0], cstat := 1 }) 0 fun c =>
        { c with inService := false }
     saveReady out 0 = true ∧ ∃ e ∈ vacatedCrews out 0, (coreAt out e.2.core).inService = false) ∧
    (let tok := pState (fun p => { p with tokenMode := true, lastPass := [(7, 1000)] }) 2000
     look tok.power.lastPass 7 0 + 1000 ≤ tok.time ∧ { tok with time := 1999 }.time < look tok.power.lastPass 7 0 + 1000) ∧
    (let few := pState (fun p => { p with
        tokenMode := true, units := [(0, 1)], clusters := modAt p.clusters 0 fun c => { c with rate := 17 } }) 0
     (clusterAt few 0).gstate ≠ 1 ∧ 16 * look few.power.units (dieOfCluster 0) 0 <
       ((List.range (dieClusters (dieOfCluster 0))).map fun i => (clusterAt few (dieFirstCluster (dieOfCluster 0) + i)).rate).sum) ∧
    (let door := modCtx (mState tMix) 0 fun c => { c with door0 := 0x18000 }
     vaWaits door 0 0x18000 32 = false) ∧
    (let own := modGlob State.reset fun g => { g with owner := 3, claimAt := some 0 }
     own.glob.owner ≠ 0 ∧ own.glob.hpend = false ∧ own.glob.claimAt = some own.time ∧ ownerCode .bmc < own.glob.owner.toNat ∧
       { own with time := 1 }.glob.claimAt ≠ some { own with time := 1 }.time ∧ own.glob.owner.toNat ≠ ownerCode .host ∧
       own.glob.owner.toNat = ownerCode .fm ∧ isOwner own .host = false) ∧
    (let s := State.reset.withFetchWord 32 (encode .nop)
     (warpAt s 0).map (fun w => codeWaits { s with turns := [] } w) = some false) := by
  decide +kernel

/-- A warp resumed from its frame, whose launch is known, at a compress store that starts at element 3; and one in a handler
away from its resume point. -/
def tResumed : Warp := { tAddr with prog := 3, framed := true }
def tAway : Warp := { tAddr with prog := 3, progHeld := true }

theorem wit_compress_more :
    let bare := modCtx (mState tResumed) 0 fun c => { c with launch := none }
    (Starts tResumed 3 ∧ FrameCleared bare tResumed bare) ∧
    (frameWalks (mState tResumed) tResumed = false ∧ (frameVa (mState tResumed) tResumed).isSome = true) ∧
    (Starts tAway 0 ∧ FrameCleared (mState tAway) tAway (mState tAway)) ∧
    (∀ j < 32, 3 ≤ j → transWaits (mState tResumed) tResumed.core tResumed.ctx ((0x18000 + 0 + j * 8) % 2 ^ 64) = false) ∧
    ∀ l < 32, transWaits (mState tAddr) tAddr.core tAddr.ctx (addrOf tAddr (.v 7) 0 l) = false := by
  refine ⟨⟨.inr ⟨.inl rfl, rfl⟩, .inr ⟨rfl, by decide +kernel, .inl ⟨by decide +kernel, rfl⟩⟩⟩, ⟨by decide +kernel, by decide +kernel⟩,
    ⟨.inl ⟨rfl, ?_, rfl⟩, .inl ⟨rfl, rfl⟩⟩, by decide +kernel, by decide +kernel⟩
  rintro ⟨above, e, below, h, -⟩
  have : tAway.stack = [] := by decide
  rw [this] at h
  exact absurd h.symm (by simp)

theorem wit_rounding :
    let one := ratOf (.fin false 1 0)
    let mode : NumMode := { rm := .rne, ftz := false }
    (one = 1 ∧ (-149 : Int) ≤ 0 ∧ one < (2 : Rat) ^ (128 : Int) ∧ one = ((1 : Int) : Rat) ∧ one = (2 : Rat) ^ (0 : Int) ∧
      one < (2 : Rat) ^ (0 + 1 : Int)) ∧ (2 : Rat) ^ (15 : Int) < (ratOf (.fin false 1 16)).abs ∧
    operand .f mode 0x3F800000 = .fin false 8388608 (-23) ∧ operand .f mode 0xFF800000 = .inf true ∧
    (operand .f mode 0x7F800001).isNan = true ∧ unpack (fmtOf .h) false 0x3C00 = .fin false 1024 (-10) ∧
    (f32Val (fnF32 .rcp (operand .f mode 0x3F800000)).1).isNan = false := by
  decide +kernel

end Sys2Proof.Tests
end

/-! SUPPORT. Acceptance of an engine command, the checks before it, the retirement of a matrix command, and ACCZ
(R155, R239, R242, R253). -/

namespace Sys2Proof.Proofs

open Sys2Proof Sys2Proof.Machine Sys2Proof.Claims Sys2Proof.Laws

/-! ## Sparse maps -/

/-- Keeping the entries whose keys have a property. -/
theorem look?_filter_key {α : Type} (m : SMap α) (p : Nat → Bool) (k : Nat) :
    look? (m.filter fun e => p e.1) k = if p k then look? m k else none := by
  induction m with
  | nil => simp [look?]
  | cons e m ih =>
    obtain ⟨j, v⟩ := e
    by_cases hjk : j = k
    · subst hjk
      cases hp : p j <;> simp [look?, hp, ih]
    · cases hp : p j <;> simp [look?, hp, ih, hjk]

/-- A key that is filtered out reads the default. -/
theorem look_filter_dropped {α : Type} (m : SMap α) (p : Nat → Bool) (k : Nat) (d : α) (h : p k = false) :
    look (m.filter fun e => p e.1) k d = d := by
  simp [look, look?_filter_key, h]

/-! ## First values -/

theorem firstSome_id_cons_of_none {α : Type} {x : Option α} (h : x = none) (l : List (Option α)) :
    firstSome id (x :: l) = firstSome id l := by
  subst h; rfl

theorem firstSome_id_cons_eq_none {α : Type} (x : Option α) (l : List (Option α)) :
    firstSome id (x :: l) = none ↔ x = none ∧ firstSome id l = none := by
  cases x <;> simp [firstSome]

/-! ## What charging and replacing a warp leave (R160) -/

theorem chargeCtx_eq (s : State) (ctx pj : Nat) : ∃ xs, chargeCtx s ctx pj = { s with ctxs := xs } := by
  dsimp only [chargeCtx]
  split <;> exact ⟨_, rfl⟩

/-- A charge changes the contexts and the clusters only. -/
theorem charge_eq (s : State) (core ctx pj : Nat) :
    ∃ xs cls, charge s core ctx pj = { s with ctxs := xs, power := { s.power with clusters := cls } } := by
  unfold charge
  split
  · exact ⟨s.ctxs, s.power.clusters, rfl⟩
  · obtain ⟨xs, hxs⟩ := chargeCtx_eq (modCluster s (clusterOfCore core) fun c => { c with cnt := c.cnt - pj }) ctx pj
    exact ⟨xs, _, hxs⟩

@[simp] theorem queueAt_charge (s : State) (core ctx pj j : Nat) : queueAt (charge s core ctx pj) j = queueAt s j := by
  obtain ⟨xs, cls, h⟩ := charge_eq s core ctx pj
  rw [h]; rfl

@[simp] theorem timelineAt_charge (s : State) (core ctx pj j : Nat) :
    timelineAt (charge s core ctx pj) j = timelineAt s j := by
  obtain ⟨xs, cls, h⟩ := charge_eq s core ctx pj
  rw [h]; rfl

@[simp] theorem crewAt_charge (s : State) (core ctx pj j : Nat) : crewAt (charge s core ctx pj) j = crewAt s j := by
  obtain ⟨xs, cls, h⟩ := charge_eq s core ctx pj
  rw [h]; rfl

@[simp] theorem warpAt_charge (s : State) (core ctx pj j : Nat) : warpAt (charge s core ctx pj) j = warpAt s j := by
  obtain ⟨xs, cls, h⟩ := charge_eq s core ctx pj
  rw [h]; rfl

@[simp] theorem crewAt_modWarp (s : State) (k : Nat) (f : Warp → Warp) (j : Nat) :
    crewAt (modWarp s k f) j = crewAt s j := by
  unfold modWarp; split <;> simp

@[simp] theorem queueAt_modWarp (s : State) (k : Nat) (f : Warp → Warp) (j : Nat) :
    queueAt (modWarp s k f) j = queueAt s j := by
  unfold modWarp; split <;> simp

@[simp] theorem timelineAt_modWarp (s : State) (k : Nat) (f : Warp → Warp) (j : Nat) :
    timelineAt (modWarp s k f) j = timelineAt s j := by
  unfold modWarp; split <;> simp

/-- A change that leaves the warp of a key as it is leaves every warp. -/
theorem warpAt_modWarp_fixed (s : State) (k : Nat) (f : Warp → Warp) (hf : ∀ w, warpAt s k = some w → f w = w) (j : Nat) :
    warpAt (modWarp s k f) j = warpAt s j := by
  unfold modWarp
  split
  · rfl
  · next w hw =>
    rw [hf w hw]
    by_cases hj : j = k
    · subst hj; simp [hw]
    · exact warpAt_setWarp_other _ _ _ _ hj

theorem crewAt_modCrew_same {s : State} {k : Nat} {c : Crew} (f : Crew → Crew) (h : crewAt s k = some c) :
    crewAt (modCrew s k f) k = some (f c) := by
  simp [modCrew, h]

theorem queueAt_setQueue_other (s : State) (j k : Nat) (q : List Cmd) (h : j ≠ k) :
    queueAt (setQueue s k q) j = queueAt s j := by
  simp [queueAt, look_putD_other _ _ _ _ _ h]

/-! ## Acceptance (R86, R239, R278) -/

section

variable (s : State) (w : Warp) (a : Ask) (stream : Nat) (waitChain : Bool) (chain : Option Nat) (dead : Bool)

/-- The command that acceptance puts at the end of its queue. -/
def newCmd : Cmd :=
  let t := timelineAt s (tlKey w.core w.ctx a.eng)
  { seq := t.next, ctx := w.ctx, crew := w.crewK, warp := w.key, body := a.body, entries := a.entries
    accNo := s.serial, discard := dead || t.p != 0, fault := none, waitChain := waitChain, chain := chain
    fp := a.fp, stream := stream, phase := 0, shadow := w.inShadow }

@[simp] theorem warpAt_acceptCmd (j : Nat) : warpAt (acceptCmd s w a stream waitChain chain dead) j = warpAt s j := by
  simp only [acceptCmd, warpAt_charge]
  rfl

@[simp] theorem crewAt_acceptCmd (j : Nat) : crewAt (acceptCmd s w a stream waitChain chain dead) j = crewAt s j := by
  simp only [acceptCmd, crewAt_charge]
  rfl

@[simp] theorem queueAt_acceptCmd_same :
    queueAt (acceptCmd s w a stream waitChain chain dead) (queueKey w.core a.eng) =
      queueAt s (queueKey w.core a.eng) ++ [newCmd s w a stream waitChain chain dead] := by
  simp only [acceptCmd, queueAt_charge, queueAt_setQueue_same]
  rfl

theorem queueAt_acceptCmd_other (j : Nat) (h : j ≠ queueKey w.core a.eng) :
    queueAt (acceptCmd s w a stream waitChain chain dead) j = queueAt s j := by
  simp only [acceptCmd, queueAt_charge, queueAt_setQueue_other _ _ _ _ h]
  rfl

@[simp] theorem timelineAt_acceptCmd_same :
    timelineAt (acceptCmd s w a stream waitChain chain dead) (tlKey w.core w.ctx a.eng) =
      { timelineAt s (tlKey w.core w.ctx a.eng) with next := (timelineAt s (tlKey w.core w.ctx a.eng)).next + 1 } := by
  simp only [acceptCmd, timelineAt_charge, timelineAt_setQueue, timelineAt_setTimeline_same]

end

/-- A command without a chained one is the last of its queue, with the next number of its timeline. -/
theorem acceptCmd_accepted (s : State) (w : Warp) (a : Ask) :
    Accepted s (acceptCmd s w a a.eng false none false) w a.eng a.body false := by
  refine ⟨newCmd s w a a.eng false none false, queueAt_acceptCmd_same .., rfl, rfl, rfl, rfl, rfl, rfl, rfl, rfl, ?_, ?_,
    ?_, ?_⟩
  · intro hp; simp [newCmd, hp]
  · intro _; simp [newCmd, bne, Bool.beq_eq_decide_eq]
  all_goals rw [timelineAt_acceptCmd_same]

theorem recordCmd_unsampled (w : Warp) (key : Nat) (store : Bool) (cw : Option (Nat × Word)) (h : w.sample = none) :
    w.recordCmd key store cw = w := by
  simp [Warp.recordCmd, h]

/-- What Accepts asks of the state in which a command has been accepted, before the instruction retires. -/
def CommandIn (s t : State) (w : Warp) (eng : Nat) (body : CmdBody) : Prop :=
  Accepted s t w eng body false ∧ (∀ j, warpAt t j = warpAt s j) ∧ (∀ j, crewAt t j = crewAt s j) ∧
    ∀ q, q ≠ queueKey w.core eng → queueAt t q = queueAt s q

/-- Acceptance of a command, with a note in its warp that changes nothing. -/
theorem acceptCmd_commandIn (s : State) (w : Warp) (a : Ask) (f : Warp → Warp) (hw : warpAt s s.cur = some w)
    (hf : f w = w) :
    CommandIn s (modWarp (acceptCmd s w a a.eng false none false) s.cur f) w a.eng a.body := by
  have hfix : ∀ x, warpAt (acceptCmd s w a a.eng false none false) s.cur = some x → f x = x := by
    intro x hx
    rw [warpAt_acceptCmd, hw] at hx
    cases hx
    exact hf
  refine ⟨?_, ?_, by simp, ?_⟩
  · simpa only [Accepted, queueAt_modWarp, timelineAt_modWarp] using acceptCmd_accepted s w a
  · intro j
    rw [warpAt_modWarp_fixed _ _ _ hfix, warpAt_acceptCmd]
  · intro q hq
    rw [queueAt_modWarp, queueAt_acceptCmd_other _ _ _ _ _ _ _ _ hq]

theorem hasRoom_of_roomy {s : State} {w : Warp} {a : Ask} (h : Roomy s w a.eng a.entries.length) :
    hasRoom s w a none = true := by
  obtain ⟨-, hplace, hsb, hquiet, hheld, -⟩ := h
  simp [hasRoom, hasPlace, hplace, hsb, hquiet, hheld]

/-- A command that has passed its checks and for which there is room is accepted. -/
theorem cmdEff_accepts {plan : State → Warp → Checked} {s : State} {w : Warp} {a : Ask} (hw : warpAt s s.cur = some w)
    (he : w.exec ≠ 0) (hp : plan s w = .ok s a none) (hr : Roomy s w a.eng a.entries.length) :
    ∃ t, cmdEff plan noAfter s w = .done t ∧ CommandIn s t w a.eng a.body := by
  have hroom := hasRoom_of_roomy hr
  obtain ⟨hfree, -, -, -, -, hs⟩ := hr
  have hdet : detOverlap s w a = false := by simp [detOverlap, hfree]
  unfold cmdEff
  simp only [he, if_false, hp, hdet, Bool.false_eq_true, hroom, Bool.not_true, noAfter, acceptPair]
  exact ⟨_, rfl, acceptCmd_commandIn s w a _ hw (recordCmd_unsampled _ _ _ _ hs)⟩

/-! ## The issue of a command (R155, R159) -/

/-- The shape with which a command issues: that of the claims, with the checks and waits of its plan. -/
def planShape (c : Fin 4) (words : Nat) (long : Bool) (uses : List Use) (bad : State → Warp → Bool)
    (plan : State → Warp → Checked) : Shape :=
  { cmdShape c words long uses bad with
    check := fun s w => if bad s w then some (w.trap cILLEGAL_OPERAND) else (plan s w).early
    waits := fun s w => !bad s w && (plan s w).fetches }

theorem cmdIssue_eq (i : Instr) (c : Fin 4) (words : Nat) (long : Bool) (uses : List Use) (bad : State → Warp → Bool)
    (plan : State → Warp → Checked) (after : Nat → State → Warp → State) (s : State) :
    cmdIssue i c words long uses bad plan after s = issue i (planShape c words long uses bad plan) (cmdEff plan after) s :=
  rfl

/-- Only the size, the slot and the weight of an instruction count once it has issued. -/
theorem retire_planShape (s : State) (k : Nat) (c : Fin 4) (words : Nat) (long : Bool) (uses : List Use)
    (bad : State → Warp → Bool) (plan : State → Warp → Checked) :
    retire s k (planShape c words long uses bad plan) = retire s k (cmdShape c words long uses bad) := rfl

section Issue

variable {i : Instr} {c : Fin 4} {words : Nat} {long : Bool} {uses : List Use} {bad : State → Warp → Bool}
  {plan : State → Warp → Checked} {s : State} {w : Warp}

theorem acting_of_exec {m : Shape} (he : w.exec ≠ 0) : acting m w = true := by
  simp only [acting, Bool.or_eq_true, bne_iff_ne]
  exact .inr he

/-- The octet's own words are legal in a warp that is ready for the command. -/
theorem words_legal (h : Ready s w (cmdShape c words long uses bad)) (he : w.exec ≠ 0) : bad s w = false := by
  simpa [cmdShape, trapIf] using h.legal (acting_of_exec he)

/-- A warp that is ready for a command is ready for it with its plan, where the plan neither traps nor waits. -/
theorem ready_planShape (h : Ready s w (cmdShape c words long uses bad)) (he : w.exec ≠ 0)
    (ht : (plan s w).early = none) (hf : (plan s w).fetches = false) :
    Ready s w (planShape c words long uses bad plan) :=
  { h with
    legal := fun _ => by simp [planShape, words_legal h he, ht]
    known := fun _ => by simp [planShape, hf] }

/-- A command whose plan comes to acceptance, and for which there is room, completes. -/
theorem cmdIssue_accepts {a : Ask} (hi : exec i s = .next (cmdIssue i c words long uses bad plan noAfter s))
    (h : Ready s w (cmdShape c words long uses bad)) (he : w.exec ≠ 0) (hp : plan s w = .ok s a none)
    (hr : Roomy s w a.eng a.entries.length) : Accepts i (cmdShape c words long uses bad) s w a.eng a.body := by
  obtain ⟨t, hdone, hin⟩ := cmdEff_accepts h.warp he hp hr
  have hready := ready_planShape (plan := plan) h he (by rw [hp]; rfl) (by rw [hp]; rfl)
  refine ⟨t, ?_, hin⟩
  rw [hi, cmdIssue_eq, issue_done i _ t hready hdone, retire_planShape]

/-- The checks of an instruction's own come after those of the run, the mode and the operands (R155): where none of these
fails, its own trap is the first. -/
theorem issueTrap_of_check {m : Shape} {t : TrapReq} (i : Instr) (h : Ready s w { m with check := noCheck })
    (ha : acting m w = true) (hc : m.check s w = some t) : issueTrap s w i m = some t := by
  have hclear := issueTrap_ready i h
  unfold issueTrap at hclear
  simp only [firstSome_id_cons_eq_none] at hclear
  obtain ⟨hlimm, hrun, hslot, htrl, hpriv, hbeyond, hmissing, -⟩ := hclear
  unfold issueTrap
  rw [firstSome_id_cons_of_none hlimm, firstSome_id_cons_of_none hrun, firstSome_id_cons_of_none hslot,
    firstSome_id_cons_of_none htrl, firstSome_id_cons_of_none hpriv]
  -- The operands of the two shapes are the same by unfolding only, so these two do not rewrite.
  refine (firstSome_id_cons_of_none hbeyond _).trans <| (firstSome_id_cons_of_none hmissing _).trans ?_
  simp [firstSome, ha, hc]

/-- A command with an illegal word raises ILLEGAL_OPERAND (R242). -/
theorem cmdIssue_illegal {after : Nat → State → Warp → State}
    (h : Ready s w { cmdShape c words long uses bad with check := noCheck }) (he : w.exec ≠ 0) (hb : bad s w = true) :
    cmdIssue i c words long uses bad plan after s = raise s s.cur w (w.trap cILLEGAL_OPERAND) := by
  have hready : Ready s w { planShape c words long uses bad plan with check := noCheck } :=
    { h with known := fun _ => by simp [planShape, hb] }
  have hcheck : (planShape c words long uses bad plan).check s w = some (w.trap cILLEGAL_OPERAND) := by
    simp [planShape, hb]
  rw [cmdIssue_eq]
  exact issue_trap i _ _ h.warp h.issues (issueTrap_of_check i hready (acting_of_exec he) hcheck)

end Issue

/-- The words of the octet are those of the leader lane (R159). -/
theorem octWord_of_word {w : Warp} {c : Fin 4} {n x : Nat} (h : Word_ w c n x) : octWord w c n = x := by
  obtain ⟨l, hl, hx⟩ := h
  simpa [octWord, Warp.uniLane, hl] using hx

/-! ## The retirement of a matrix command (R239) -/

@[simp] theorem crewAt_retireCmd (s : State) (core eng : Nat) (fl : Flags) (j : Nat) :
    crewAt (retireCmd s core eng fl) j = crewAt s j := by
  unfold retireCmd; split <;> simp

@[simp] theorem crewAt_giveAccrd (s : State) (c : Cmd) (j : Nat) : crewAt (giveAccrd s c) j = crewAt s j := by
  simp [giveAccrd]

theorem workCmd_head {s : State} {core eng : Nat} {k : Cmd} {rest : List Cmd}
    (hq : queueAt s (queueKey core eng) = k :: rest) (hrun : clusterRuns s (clusterOfCore core) = true) :
    workCmd s core eng = some k := by
  simp [workCmd, headCmd, hrun, hq]

/-- The head of the mx sequence, where it may start, has its effect and retires. -/
theorem mxRetire_next {s u : State} {core : Nat} {k : Cmd} {rest : List Cmd} {fl : Flags}
    (hq : queueAt s (queueKey core 4) = k :: rest) (hrun : clusterRuns s (clusterOfCore core) = true)
    (hstart : mayStart s core k = true) (hlive : k.discard = false) (hmx : runMx s core k = .ok u fl) :
    exec (.mxRetire core) s = .next (giveAccrd (retireCmd u core 4 fl) k) := by
  change execMxRetire core s = _
  simp [execMxRetire, mxAdvance, workCmd_head hq hrun, hlive, hstart, hmx]

/-! ## ACCZ (R253) -/

theorem exec_accz (c : Fin 4) (s : State) : exec (.accz c) s = execAccz c s := rfl

/-- The element of row i and column j lies in its own set (R243). -/
theorem inSet_accKey (a i j : Nat) (hi : i < 128) (hj : j < 192) : inSet a (accKey a i j) = true := by
  simp only [inSet, accKey, beq_iff_eq]
  omega

/-- A crew with one accumulator set zeroed. -/
def zeroSet (y : Crew) (a : Nat) : Crew :=
  { y with acc := y.acc.filter fun e => !inSet a e.1, accPois := y.accPois.filter fun e => !inSet a e.1 }

theorem crewAt_runAccz {s : State} {ck a : Nat} {y : Crew} (h : crewAt s ck = some y) :
    crewAt (runAccz s ck a) ck = some (zeroSet y a) :=
  crewAt_modCrew_same _ h

/-- An element of the zeroed set is +0 and carries no poison. -/
theorem accAt_zeroSet (y : Crew) (a k : Nat) (h : inSet a k = true) : (zeroSet y a).accAt k = (0, false) := by
  have hdrop : (!inSet a k) = false := by rw [h]; rfl
  simp only [Crew.accAt, zeroSet, look_filter_dropped _ (fun n => !inSet a n) k _ hdrop]
  rfl

/-- An ACCZ with a legal word that names a set of the crew's share is accepted. -/
theorem accz_accepts {c : Fin 4} {s : State} {w : Warp} {x : Nat} {y : Crew}
    (hword : Word_ w c 0 x) (he : w.exec ≠ 0)
    (h : Ready s w (cmdShape c 1 false [] fun _ w => octWord w c 0 / 4 != 0))
    (hy : crewAt s w.crewK = some y) (hset : x % 4 < y.nAcc) (hroom : Roomy s w 4 0) :
    Accepts (.accz c) (cmdShape c 1 false [] fun _ w => octWord w c 0 / 4 != 0) s w 4 (.accz (x % 4)) := by
  have hoct := octWord_of_word hword
  have hx : x % 4 = x := by
    have hlegal := words_legal h he
    simp only [hoct, bne_eq_false_iff_eq] at hlegal
    omega
  rw [hx] at hset ⊢
  refine cmdIssue_accepts (a := { eng := 4, body := .accz x, entries := [], fp := none, weight := 2000 })
    (exec_accz c s) h he ?_ hroom
  simp [crewOf, hy, hoct, orIllegal, hset]

/-- Settles O38: the two outcomes of the issue are those of every engine command, and the retirement drops every key of the
set, and of its poison, from the crew's sparse maps. -/
theorem accumulatorZero : Obligations.AccumulatorZero := by
  unfold Obligations.AccumulatorZero
  constructor
  · intro c s w x m hword he
    constructor
    · intro h y hy hset hroom
      exact accz_accepts hword he h hy hset hroom
    · intro hbad h
      rw [exec_accz, execAccz, cmdIssue_illegal h he]
      simpa [octWord_of_word hword] using hbad
  · intro s core k rest y a hq hrun hstart hlive hy hbody
    have hmx : runMx s core k = .ok (runAccz s k.crew a) 0 := by simp [runMx, hbody]
    refine ⟨_, zeroSet y a, mxRetire_next hq hrun hstart hlive hmx, ?_, ?_⟩
    · rw [crewAt_giveAccrd, crewAt_retireCmd, crewAt_runAccz hy]
    · intro i hi j hj
      exact accAt_zeroSet y a _ (inSet_accKey a i j hi hj)

end Sys2Proof.Proofs

/-! SUPPORT. Masks as sets of lanes, the push of a stack entry, and the control transfers BRA, BRC, BRX and PJ
(R110, R111, R298 to R303). -/

namespace Sys2Proof.Proofs

open Sys2Proof Sys2Proof.Machine Sys2Proof.Claims Sys2Proof.Laws

theorem exec_bra (off : BitVec 22) (s : State) : exec (.bra off) s = execBra off s := rfl

theorem exec_brc (off : BitVec 16) (a : Opnd) (c : BrCond) (s : State) :
    exec (.brc off a c) s = execBrc off a c s := rfl

theorem exec_brx (off : BitVec 16) (a : Opnd) (z : Bool) (s : State) : exec (.brx off a z) s = execBrx off a z s := rfl

theorem exec_pj (off : BitVec 22) (s : State) : exec (.pj off) s = execPj off s := rfl

/-! ## Masks as sets of lanes (R299, R300) -/

theorem isMask_zero : IsMask 0 fun _ => False := by
  intro l _
  simp [inMask]

theorem isMask_exec (w : Warp) : IsMask w.exec (active w) := by
  intro l hl
  simp [active, hl]

theorem isMask_predMask (w : Warp) (a : Opnd) (z : Bool) :
    IsMask (predMask w a z) fun l => active w l ∧ holds w a z l := by
  intro l hl
  simp only [predMask, inMask_maskOf _ _ hl, active, holds, hl]
  cases z <;> simp

theorem isMask_and_not {m n : Mask} {p q : Nat → Prop} (hm : IsMask m p) (hn : IsMask n q) :
    IsMask (m &&& ~~~n) fun l => p l ∧ ¬ q l := by
  intro l hl
  dsimp only
  rw [← hm l hl, ← hn l hl]
  simp [inMask, hl]

/-- The lanes that a divided branch does not take. -/
theorem isMask_not_predMask (w : Warp) (a : Opnd) (z : Bool) :
    IsMask (w.exec &&& ~~~predMask w a z) fun l => active w l ∧ ¬ holds w a z l := by
  intro l hl
  rw [isMask_and_not (isMask_exec w) (isMask_predMask w a z) l hl]
  exact and_congr_right fun ha => not_congr (and_iff_right ha)

/-- Masks are equal where their lanes have equivalent properties. -/
theorem isMask_eq_iff {m n : Mask} {p q : Nat → Prop} (hm : IsMask m p) (hn : IsMask n q) :
    m = n ↔ ∀ l < 32, (p l ↔ q l) := by
  constructor
  · rintro rfl l hl
    rw [← hm l hl, ← hn l hl]
  · intro h
    apply BitVec.eq_of_getLsbD_eq
    intro l hl
    exact Bool.eq_iff_iff.2 <| (hm l hl).trans <| (h l hl).trans (hn l hl).symm

theorem isMask_eq_zero_iff {m : Mask} {p : Nat → Prop} (hm : IsMask m p) : m = 0 ↔ ∀ l < 32, ¬ p l := by
  simpa using isMask_eq_iff hm isMask_zero

theorem isMask_unique {m n : Mask} {p : Nat → Prop} (hm : IsMask m p) (hn : IsMask n p) : m = n :=
  (isMask_eq_iff hm hn).2 fun _ _ => Iff.rfl

theorem predMask_eq_zero_iff (w : Warp) (a : Opnd) (z : Bool) :
    predMask w a z = 0 ↔ ∀ l, active w l → ¬ holds w a z l := by
  rw [isMask_eq_zero_iff (isMask_predMask w a z)]
  exact ⟨fun h l ha hh => h l ha.1 ⟨ha, hh⟩, fun h l _ ⟨ha, hh⟩ => h l ha hh⟩

theorem predMask_eq_exec_iff (w : Warp) (a : Opnd) (z : Bool) :
    predMask w a z = w.exec ↔ ∀ l, active w l → holds w a z l := by
  rw [isMask_eq_iff (isMask_predMask w a z) (isMask_exec w)]
  exact ⟨fun h l ha => ((h l ha.1).2 ha).2, fun h l _ => ⟨And.left, fun ha => ⟨ha, h l ha⟩⟩⟩

theorem not_predMask_eq_zero_iff (w : Warp) (a : Opnd) (z : Bool) :
    w.exec &&& ~~~predMask w a z = 0 ↔ ∀ l, active w l → holds w a z l := by
  rw [isMask_eq_zero_iff (isMask_not_predMask w a z)]
  exact ⟨fun h l ha => Classical.byContradiction fun hn => h l ha.1 ⟨ha, hn⟩, fun h l _ ⟨ha, hn⟩ => hn (h l ha)⟩

/-! ## The issue of a control transfer (R298) -/

theorem target_eq_rel (w : Warp) (n off : Nat) : target w n off = rel w n off := by
  simp [target, rel, wrap]

theorem fallThrough_eq_thru (w : Warp) : fallThrough w = thru w := rfl

theorem goto_eq_contAt (w : Warp) (pc : Nat) : w.goto pc = contAt w pc := rfl

section Transfer

variable {uses : List Use} {lanes : Warp → Mask} {s : State} {w : Warp}

/-- A control transfer whose effect is done has issued. -/
theorem ctIssue_done {t : State} (i : Instr) (eff : State → Warp → Eff) (h : Ready s w (ctShape uses lanes))
    (he : eff s w = .done t) : ctIssue i uses true lanes noCheck eff s = retire t s.cur (ctShape uses lanes) :=
  issue_done i eff t h he

/-- A control transfer that changes its warp only. -/
theorem ctIssue_warp (i : Instr) (f : Warp → Warp) (h : Ready s w (ctShape uses lanes)) :
    ctIssue i uses true lanes noCheck (warpEff f) s = retire (setWarp s s.cur (f w)) s.cur (ctShape uses lanes) :=
  ctIssue_done i _ h rfl

end Transfer

/-! ## The push of a stack entry (R110, R111) -/

theorem pushEntry_of_pushed {s s' : State} {w w' : Warp} {e : StackEntry} (h : Pushed s w e s' w') :
    pushEntry s w e = .ok s' w' none := by
  obtain ⟨hlimit, ⟨hroom, rfl, rfl⟩ | ⟨hfull, old, pa, pte, hold, hwait, htrans, rfl, rfl⟩⟩ := h
  · simp [pushEntry, Nat.not_le.2 hlimit, hroom]
  · simp [pushEntry, Nat.not_le.2 hlimit, Nat.not_lt.2 hfull, spillVa, hwait, htrans, hold]

/-- A push leaves the address of its instruction, and so the fall-through. -/
theorem thru_of_pushed {s s' : State} {w w' : Warp} {e : StackEntry} (h : Pushed s w e s' w') : thru w' = thru w := by
  obtain ⟨-, ⟨-, -, rfl⟩ | ⟨-, old, pa, pte, -, -, -, -, rfl⟩⟩ := h <;> rfl

theorem pushEff_of_pushed {s s' : State} {w w' : Warp} {e : Warp → StackEntry} (f : Warp → Warp)
    (h : Pushed s w (e w) s' w') : pushEff e f s w = .done (setWarp s' s.cur (f w')) := by
  simp [pushEff, pushEntry_of_pushed h]

/-! ## BRA, BRC, BRX and PJ (R301 to R303) -/

/-- The condition of a BRC over the active lanes. -/
theorem brcTaken_iff (c : BrCond) (w : Warp) (a : Opnd) :
    brcTaken c w a = true ↔ match c with
      | .any => ∃ l, active w l ∧ holds w a false l
      | .all => ∀ l, active w l → holds w a false l
      | .none => ∀ l, active w l → ¬ holds w a false l
      | .nall => ∃ l, active w l ∧ ¬ holds w a false l := by
  cases c with
  | any =>
    rw [brcTaken, bne_iff_ne, ne_eq, predMask_eq_zero_iff]
    simp only [Classical.not_forall, Classical.not_not, exists_prop]
  | all => rw [brcTaken, beq_iff_eq, predMask_eq_exec_iff]
  | none => rw [brcTaken, beq_iff_eq, predMask_eq_zero_iff]
  | nall =>
    rw [brcTaken, bne_iff_ne, ne_eq, predMask_eq_exec_iff]
    simp only [Classical.not_forall, exists_prop]

theorem exec_bra_ready (off : BitVec 22) {s : State} {w : Warp} (h : Ready s w (ctShape [])) :
    exec (.bra off) s = .next (retire (setWarp s s.cur (contAt w (rel w 22 off.toNat))) s.cur (ctShape [])) := by
  rw [exec_bra, execBra, ctIssue_warp _ _ h, target_eq_rel, goto_eq_contAt]

theorem exec_brc_ready (off : BitVec 16) (a : Opnd) (c : BrCond) {s : State} {w : Warp}
    (h : Ready s w (ctShape [src a .w1])) :
    exec (.brc off a c) s =
      .next (retire (setWarp s s.cur (contAt w (if brcTaken c w a then rel w 16 off.toNat else thru w))) s.cur
        (ctShape [src a .w1])) := by
  rw [exec_brc, execBrc, ctIssue_warp _ _ h, target_eq_rel, fallThrough_eq_thru, goto_eq_contAt]

section Brx

variable (off : BitVec 16) {a : Opnd} {z : Bool} {s : State} {w : Warp} (h : Ready s w (ctShape [src a .w1]))
include h

/-- With no active lane that takes the branch, BRX continues at the fall-through. -/
theorem exec_brx_of_none (hnone : ∀ l, active w l → ¬ holds w a z l) :
    exec (.brx off a z) s = .next (retire (setWarp s s.cur (contAt w (thru w))) s.cur (ctShape [src a .w1])) := by
  have ht : predMask w a z = 0 := (predMask_eq_zero_iff w a z).2 hnone
  rw [exec_brx, execBrx,
    ctIssue_done (t := setWarp s s.cur (contAt w (thru w))) _ _ h (by rw [if_pos ht]; rfl)]

/-- With some active lane and each of them taking the branch, BRX continues at its target. -/
theorem exec_brx_of_all (hsome : ∃ l, active w l ∧ holds w a z l) (hall : ∀ l, active w l → holds w a z l) :
    exec (.brx off a z) s =
      .next (retire (setWarp s s.cur (contAt w (rel w 16 off.toNat))) s.cur (ctShape [src a .w1])) := by
  have ht : predMask w a z ≠ 0 := fun ht =>
    let ⟨l, ha, hh⟩ := hsome
    (predMask_eq_zero_iff w a z).1 ht l ha hh
  have hn : w.exec &&& ~~~predMask w a z = 0 := (not_predMask_eq_zero_iff w a z).2 hall
  rw [exec_brx, execBrx, ← target_eq_rel,
    ctIssue_done (t := setWarp s s.cur (contAt w (target w 16 off.toNat))) _ _ h (by rw [if_neg ht, if_pos hn]; rfl)]

/-- Where the active lanes divide, BRX pushes a PATH entry for those not taken and continues at its target with those
taken. -/
theorem exec_brx_of_divided {t n : Mask} {s' : State} {w' : Warp} (ht : IsMask t fun l => active w l ∧ holds w a z l)
    (hn : IsMask n fun l => active w l ∧ ¬ holds w a z l) (ht0 : t ≠ 0) (hn0 : n ≠ 0)
    (hp : Pushed s w { kind := .path, pc := thru w, mask := n, tm := false } s' w') :
    exec (.brx off a z) s =
      .next (retire (setWarp s' s.cur (contAt { w' with exec := t } (rel w 16 off.toNat))) s.cur
        (ctShape [src a .w1])) := by
  obtain rfl := isMask_unique (isMask_predMask w a z) ht
  obtain rfl := isMask_unique (isMask_not_predMask w a z) hn
  rw [exec_brx, execBrx, ctIssue_done _ _ h (by rw [if_neg ht0, if_neg hn0]; exact pushEff_of_pushed _ hp),
    goto_eq_contAt, target_eq_rel]

end Brx

/-- Settles O1: a transfer that is ready comes to its effect, and the model's masks of the lanes taken and not taken are
those of R300's p(l). -/
theorem branches : Obligations.Branches := by
  unfold Obligations.Branches
  refine ⟨?bra, ?brc, ?brx⟩
  case bra =>
    intro off s w h _
    exact exec_bra_ready off h
  case brc =>
    intro off a c s w h
    exact ⟨brcTaken c w a, exec_brc_ready off a c h, (brcTaken_iff c w a).trans (by cases c <;> rfl)⟩
  case brx =>
    intro off a z s w h
    refine ⟨exec_brx_of_none off h, exec_brx_of_all off h, ?_⟩
    intro t n ht hn ht0 hn0 s' w' hp
    exact exec_brx_of_divided off h ht hn ht0 hn0 hp

/-- Settles O2: PJ is ready, so it comes to its push, which keeps the fall-through. -/
theorem pushJoin : Obligations.PushJoin := by
  unfold Obligations.PushJoin
  intro off s w s' w' h hp
  rw [← target_eq_rel] at hp
  rw [exec_pj, execPj, ctIssue_done _ _ h (pushEff_of_pushed _ hp), goto_eq_contAt, fallThrough_eq_thru,
    thru_of_pushed hp]

end Sys2Proof.Proofs
